-- ==== Sys2Proof/Word.lean ====
section
/-!
DEFINITION. The word types of the manual and one keyed store used for every register file, memory and
table of the model: a list of (key, value) pairs, keys strictly rising, that never lists a key whose
value is the default. Equal contents are then equal lists.
-/

namespace Sys2Proof

/-- A 32-bit word: control-stream words, micro-orders, token data (R146, R157, R257). -/
abbrev Word := BitVec 32
/-- A 64-bit value: general registers, addresses, CSRs (R147, R185). -/
abbrev Dword := BitVec 64
/-- One byte of memory (R1). -/
abbrev Byte := BitVec 8

/-- A keyed store in canonical form. -/
abbrev SMap (α : Type) := List (Nat × α)

namespace SMap

/-- The value at `a`: the default where `a` is not listed. -/
def get {α : Type} (d : α) : SMap α → Nat → α
  | [], _ => d
  | (k, v) :: r, a => if k = a then v else get d r a

/-- `m` without key `a`. -/
def erase {α : Type} (m : SMap α) (a : Nat) : SMap α :=
  match m with
  | [] => []
  | (k, v) :: r => if k = a then erase r a else (k, v) :: erase r a

/-- `m` with a non-default value `v` at key `a`, in key order. -/
def ins {α : Type} (m : SMap α) (a : Nat) (v : α) : SMap α :=
  match m with
  | [] => [(a, v)]
  | (k, w) :: r =>
    if a < k then (a, v) :: (k, w) :: r
    else if a = k then (a, v) :: r
    else (k, w) :: ins r a v

/-- `m` with value `v` at key `a`; writing the default removes the key. -/
def put {α : Type} [DecidableEq α] (d : α) (m : SMap α) (a : Nat) (v : α) : SMap α :=
  if v = d then erase m a else ins m a v

/-- Keys strictly rising from `lo` on. -/
def sortedFrom {α : Type} (lo : Nat) : SMap α → Bool
  | [] => true
  | (k, _) :: r => decide (lo ≤ k) && sortedFrom (k + 1) r

/-- The canonical form: keys strictly rising and no default listed. -/
def wf {α : Type} [DecidableEq α] (d : α) (m : SMap α) : Bool :=
  sortedFrom 0 m && m.all (fun c => decide (c.2 ≠ d))

end SMap

/-- Sign-extension of the low `n` bits of `v`, as sext(v, n) of R8. -/
def sextD {n : Nat} (v : BitVec n) : Dword := v.signExtend 64

/-- Zero-extension. -/
def zextD {n : Nat} (v : BitVec n) : Dword := v.setWidth 64

end Sys2Proof
end

