-- ==== Sys2Proof/Machine/Flags.lean ====
section
/-!
DEFINITION. Number formats, rounding and the flags that rounding raises (R57 to R83, R190, R191, R413). Every
conversion takes the exact real value of its input, as a fraction, and rounds at most once.
-/

namespace Sys2Proof.Machine

/-! Flag bits (R89). -/

def flInvalid : Dword := 0x01
def flOverflow : Dword := 0x02
def flUnderflow : Dword := 0x04
def flInexact : Dword := 0x08
def flSaturated : Dword := 0x10
def flSparseBad : Dword := 0x20
def flPoisonRd : Dword := 0x40

/-- `f` when `c` holds, else no flag. -/
def flagIf (c : Bool) (f : Dword) : Dword := if c then f else 0

/-- An exact real with a sign of its own for zero, an infinity or a NaN with its sign. -/
inductive XR where
  | nan (neg : Bool)
  | inf (neg : Bool)
  | fin (neg : Bool) (num den : Nat)
  deriving DecidableEq, Repr

/-- A finite value num/den in lowest terms. -/
def XR.mk (neg : Bool) (num den : Nat) : XR := .fin neg (num / Nat.gcd num den) (den / Nat.gcd num den)

/-- The value num * 2^e. -/
def XR.dyadic (neg : Bool) (num : Nat) (e : Int) : XR :=
  if 0 ≤ e then .mk neg (num * 2 ^ e.toNat) 1 else .mk neg num (2 ^ (-e).toNat)

def XR.ofNat (n : Nat) : XR := .fin false n 1
def XR.ofInt (n : Int) : XR := .fin (decide (n < 0)) n.natAbs 1
def XR.zero : XR := .fin false 0 1
def XR.isNan : XR → Bool | .nan _ => true | _ => false
def XR.isInf : XR → Bool | .inf _ => true | _ => false
def XR.isZero : XR → Bool | .fin _ n _ => n = 0 | _ => false
def XR.sign : XR → Bool | .nan s => s | .inf s => s | .fin s _ _ => s
def XR.neg : XR → XR | .nan s => .nan (!s) | .inf s => .inf (!s) | .fin s n d => .fin (!s) n d
def XR.abs : XR → XR | .nan _ => .nan false | .inf _ => .inf false | .fin _ n d => .fin false n d

/-- The exact value times 2^e. -/
def XR.scale (x : XR) (e : Int) : XR :=
  match x with
  | .fin s n d => if 0 ≤ e then .mk s (n * 2 ^ e.toNat) d else .mk s n (d * 2 ^ (-e).toNat)
  | y => y

/-- Product of two values that are not 0 × ∞; signs combine by exclusive OR (R413). -/
def XR.mul (x y : XR) : XR :=
  match x, y with
  | .nan s, _ => .nan s
  | _, .nan s => .nan s
  | .inf s, z => .inf (s ^^ z.sign)
  | z, .inf s => .inf (s ^^ z.sign)
  | .fin s a b, .fin t c d => .mk (s ^^ t) (a * c) (b * d)

/-- Whether x × y is 0 × ∞. -/
def XR.mulInvalid (x y : XR) : Bool := (x.isZero && y.isInf) || (x.isInf && y.isZero)

/-- Quotient of two values that are neither 0 ÷ 0 nor ∞ ÷ ∞ (R190, R413). -/
def XR.div (x y : XR) : XR :=
  match x, y with
  | .nan s, _ => .nan s
  | _, .nan s => .nan s
  | .inf s, z => .inf (s ^^ z.sign)
  | z, .inf s => .fin (s ^^ z.sign) 0 1
  | .fin s a b, .fin t c d => if c = 0 then .inf (s ^^ t) else .mk (s ^^ t) (a * d) (b * c)

/-- Sum of two values that are not ∞ − ∞; `rdn` gives an exact zero of mixed terms its minus sign (R413). -/
def XR.add (rdn : Bool) (x y : XR) : XR :=
  match x, y with
  | .nan s, _ => .nan s
  | _, .nan s => .nan s
  | .inf s, _ => .inf s
  | _, .inf s => .inf s
  | .fin s a b, .fin t c d =>
    let l := a * d
    let r := c * b
    if s = t then .mk s (l + r) (b * d)
    else if l = r then .fin rdn 0 1
    else if r < l then .mk s (l - r) (b * d)
    else .mk t (r - l) (b * d)

/-- Whether x + y is ∞ − ∞. -/
def XR.addInvalid (x y : XR) : Bool := x.isInf && y.isInf && (x.sign ^^ y.sign)

/-- x < y and x = y for values that are not NaN; zeros of both signs are equal. -/
def XR.lt (x y : XR) : Bool :=
  match x, y with
  | .inf s, .inf t => s && !t
  | .inf s, _ => s
  | _, .inf t => !t
  | .fin s a b, .fin t c d =>
    let l : Int := if s then -(a * d : Nat) else (a * d : Nat)
    let r : Int := if t then -(c * b : Nat) else (c * b : Nat)
    decide (l < r)
  | _, _ => false
def XR.eqv (x y : XR) : Bool := !x.isNan && !y.isNan && !x.lt y && !y.lt x

/-- floor(log2(num/den)) of a positive fraction. -/
def floorLog2 (num den : Nat) : Int :=
  let e : Int := (Nat.log2 num : Int) - Nat.log2 den
  if 0 ≤ e then (if num < den * 2 ^ e.toNat then e - 1 else e)
  else (if num * 2 ^ (-e).toNat < den then e - 1 else e)

/-! Formats (R57 to R61). -/

/-- A floating-point format of R58. Codes below the sign bit rise with the value; those above `maxCode` are special. -/
structure Fmt where
  mbits : Nat
  emin : Int
  maxCode : Nat
  inf : Option Nat
  nan : Option Nat
  signBit : Nat
  deriving DecidableEq, Repr

def fp32 : Fmt := ⟨23, -126, 0x7F7FFFFF, some 0x7F800000, some 0x7FC00000, 2 ^ 31⟩
def bf16 : Fmt := ⟨7, -126, 0x7F7F, some 0x7F80, some 0x7FC0, 2 ^ 15⟩
def fp16 : Fmt := ⟨10, -14, 0x7BFF, some 0x7C00, some 0x7E00, 2 ^ 15⟩
def e4m3 : Fmt := ⟨3, -6, 0x7E, none, some 0x7F, 2 ^ 7⟩
def e5m2 : Fmt := ⟨2, -14, 0x7B, some 0x7C, some 0x7E, 2 ^ 7⟩
def e3m2 : Fmt := ⟨2, -2, 0x1F, none, none, 2 ^ 5⟩
def e2m3 : Fmt := ⟨3, 0, 0x1F, none, none, 2 ^ 5⟩
def e2m1 : Fmt := ⟨1, 0, 0x7, none, none, 2 ^ 3⟩

/-- The value of an element (R58). -/
def Fmt.value (f : Fmt) (bits : Nat) : XR :=
  let neg := decide (bits / f.signBit % 2 = 1)
  let c := bits % f.signBit
  if c > f.maxCode then (if f.inf = some c then .inf neg else .nan neg)
  else
    let e := c / 2 ^ f.mbits
    if e = 0 then .dyadic neg c (f.emin - f.mbits)
    else .dyadic neg (2 ^ f.mbits + c % 2 ^ f.mbits) (f.emin + e - 1 - f.mbits)

/-- Rounding modes (R74); a stochastic rounding carries its 16-bit draw. -/
inductive Rmode where
  | rne | rtz | rup | rdn | raz
  | sr (draw : Nat)
  deriving DecidableEq, Repr

/-- The mode of a rounding code; code 0b101 takes `draw`. Reserved codes are refused before they reach here. -/
def Rmode.of (code : Nat) (draw : Nat) : Rmode :=
  if code = 0 then .rne else if code = 1 then .rtz else if code = 2 then .rup else if code = 3 then .rdn
  else if code = 4 then .raz else .sr draw

/-- round_up of R75 for a fraction rem/den in the last place. -/
def roundUp (mode : Rmode) (neg : Bool) (lo rem den : Nat) : Nat :=
  if rem = 0 then 0
  else
    match mode with
    | .rne => if den < 2 * rem || (2 * rem = den && lo % 2 = 1) then 1 else 0
    | .rtz => 0
    | .rup => if neg then 0 else 1
    | .rdn => if neg then 1 else 0
    | .raz => 1
    | .sr draw => if 65536 ≤ rem * 65536 / den + draw then 1 else 0

/-- `f` with a sign in front of a code. -/
def Fmt.signed (f : Fmt) (neg : Bool) (code : Nat) : Nat := (if neg then f.signBit else 0) + code

/-- overflow_result with its flags, overflow among them (R75, R76). -/
def overflowResult (f : Fmt) (neg : Bool) (mode : Rmode) (sat : Bool) : Nat × Dword :=
  let big := (f.signed neg f.maxCode, flOverflow)
  let bigSat := (f.signed neg f.maxCode, flOverflow ||| flSaturated)
  if sat then bigSat
  else
    match f.inf, f.nan with
    | none, none =>
      match mode with
      | .rtz | .rup | .rdn => big
      | _ => bigSat
    | i, n =>
      let special := (f.signed neg (i.getD (n.getD 0)), flOverflow)
      match mode with
      | .rtz => big
      | .rup => if neg then big else special
      | .rdn => if neg then special else big
      | _ => special

/-- special_result for NaN and the infinities (R77). -/
def specialResult (f : Fmt) (x : XR) (sat : Bool) : Nat × Dword :=
  match f.inf, f.nan with
  | some i, some n => (f.signed x.sign (if x.isNan then n else i), 0)
  | none, some n =>
    if x.isNan then (f.signed x.sign n, 0)
    else if sat then (f.signed x.sign f.maxCode, flOverflow ||| flSaturated)
    else (f.signed x.sign n, flOverflow)
  | _, none =>
    if x.isNan then (0, flInvalid) else (f.signed x.sign f.maxCode, flOverflow ||| flSaturated)

/-- round_fmt (R75): the encoding, and the flags raised. -/
def roundFmt (x : XR) (f : Fmt) (mode : Rmode) (sat : Bool) : Nat × Dword :=
  match x with
  | .fin neg num den =>
    if num = 0 then (f.signed neg 0, 0)
    else
      let lg := floorLog2 num den
      let e := max lg f.emin
      let q : Int := e - f.mbits
      let nn := if 0 ≤ q then num else num * 2 ^ (-q).toNat
      let dd := if 0 ≤ q then den * 2 ^ q.toNat else den
      let lo := nn / dd
      let rem := nn % dd
      let code := (e - f.emin).toNat * 2 ^ f.mbits + (lo + roundUp mode neg lo rem dd)
      let fl := flagIf (rem != 0) flInexact ||| flagIf (rem != 0 && decide (lg < f.emin)) flUnderflow
      if code > f.maxCode then
        ((overflowResult f neg mode sat).1, fl ||| (overflowResult f neg mode sat).2)
      else (f.signed neg code, fl)
  | y => specialResult f y sat

/-- An integer clamped to a range, and whether it was clamped. -/
def clampInt (v lo hi : Int) : Int × Bool :=
  if v < lo then (lo, true) else if hi < v then (hi, true) else (v, false)

/-- round_int (R78) to the range lo to hi. -/
def roundInt (x : XR) (lo hi : Int) (mode : Rmode) : Int × Dword :=
  match x with
  | .nan _ => (0, flInvalid)
  | .inf neg => (if neg then lo else hi, flInvalid)
  | .fin neg num den =>
    let m := num / den + roundUp mode neg (num / den) (num % den) den
    let c := clampInt (if neg then -(m : Int) else m) lo hi
    (c.1, flagIf (num % den != 0) flInexact ||| flagIf c.2 flSaturated)

/-! FP32 operations (R190, R191). -/

def nan32 : Nat := 0x7FC00000

/-- An FP32 operand: the low 32 bits of a register (R189). -/
def fpArg (v : Dword) : Nat := v.toNat % 2 ^ 32

/-- The sign that the canonical NaN result takes: that of the first NaN operand (R190). -/
def nanResult (xs : List XR) : Option (Nat × Dword) :=
  match xs.find? XR.isNan with
  | some x => some (fp32.signed x.sign nan32, 0)
  | none => none

def isRdn : Rmode → Bool | .rdn => true | _ => false

/-- fadd on values. -/
def addX (x y : XR) (mode : Rmode) : Nat × Dword :=
  match nanResult [x, y] with
  | some r => r
  | none =>
    if x.addInvalid y then (nan32, flInvalid) else roundFmt (x.add (isRdn mode) y) fp32 mode false

/-- fmul on values. -/
def mulX (x y : XR) (mode : Rmode) : Nat × Dword :=
  match nanResult [x, y] with
  | some r => r
  | none => if x.mulInvalid y then (nan32, flInvalid) else roundFmt (x.mul y) fp32 mode false

/-- fdiv on values; a finite value over a zero is an infinity and raises no flag. -/
def divX (x y : XR) (mode : Rmode) : Nat × Dword :=
  match nanResult [x, y] with
  | some r => r
  | none =>
    if (x.isZero && y.isZero) || (x.isInf && y.isInf) then (nan32, flInvalid)
    else roundFmt (x.div y) fp32 mode false

/-- x × y + z, rounded once; 0 × ∞ is invalid even with a NaN addend (R190). -/
def fmaX (x y z : XR) (mode : Rmode) : Nat × Dword :=
  if x.mulInvalid y then (nan32, flInvalid)
  else
    match nanResult [x, y, z] with
    | some r => r
    | none =>
      if (x.mul y).addInvalid z then (nan32, flInvalid)
      else roundFmt ((x.mul y).add (isRdn mode) z) fp32 mode false

/-- Integer square root by binary digits, from digit k - 1 down. -/
def isqrt : Nat → Nat → Nat → Nat
  | 0, _, r => r
  | k + 1, n, r => isqrt k n (if (r + 2 ^ k) * (r + 2 ^ k) ≤ n then r + 2 ^ k else r)

/-- A fraction on the same side of every rounding boundary of FP32 as sqrt(num/den): 160 places and a sticky half. -/
def sqrtFrac (num den : Nat) : XR :=
  let n := num * 2 ^ 320 / den
  let r := isqrt 256 n 0
  if r * r = n && num * 2 ^ 320 % den = 0 then .mk false r (2 ^ 160) else .mk false (2 * r + 1) (2 ^ 161)

/-- fsqrt (R190): sqrt(−0) is −0. -/
def sqrtX (x : XR) (mode : Rmode) : Nat × Dword :=
  match x with
  | .nan s => (fp32.signed s nan32, 0)
  | .inf s => if s then (nan32, flInvalid) else (0x7F800000, 0)
  | .fin s n d =>
    if n = 0 then (fp32.signed s 0, 0)
    else if s then (nan32, flInvalid)
    else roundFmt (sqrtFrac n d) fp32 mode false

/-- x below y where −0 lies below +0 (fmin, fmax: R190). -/
def XR.below (x y : XR) : Bool := x.lt y || (x.isZero && y.isZero && x.sign && !y.sign)

/-- fmin and fmax on encodings: one of the operands, or the canonical NaN. -/
def minmaxX (isMax : Bool) (a b : Nat) : Nat × Dword :=
  let x := fp32.value a
  let y := fp32.value b
  match nanResult [x, y] with
  | some r => r
  | none => (if (if isMax then x.below y else y.below x) then b else a, 0)

/-- fcmp (R191): the predicate and the flags. Codes: 0 eq, 1 lt, 2 le, 3 un, 4 ne. -/
def fcmpX (cc : Nat) (x y : XR) : Bool × Dword :=
  let un := x.isNan || y.isNan
  if cc = 0 then (x.eqv y, 0)
  else if cc = 1 then (!un && x.lt y, flagIf un flInvalid)
  else if cc = 2 then (!un && !y.lt x, flagIf un flInvalid)
  else if cc = 3 then (un, 0)
  else (!x.eqv y, 0)

/-! Stochastic draws (R79). -/

/-- One round of sr_draw. -/
def srRound (x k : Dword) : Dword :=
  let a := x + k
  let b := a ^^^ (a >>> 31)
  let c := b * 0x8F3D5B27C1E964AB#64
  c ^^^ (c >>> 27)

def srNextKey (k : Dword) : Dword := k.rotateLeft 23 ^^^ 0x5D2C71E39A84B0F6#64

/-- sr_draw(key, tensor, step, index). -/
def srDraw (key : Dword) (tensor step : BitVec 16) (index : Word) : Nat :=
  let x0 : Dword := tensor ++ step ++ index
  let k1 := srNextKey key
  let k2 := srNextKey k1
  let k3 := srNextKey k2
  ((srRound (srRound (srRound (srRound x0 key) k1) k2) k3) >>> 48).toNat

end Sys2Proof.Machine
end

