-- ==== Sys2Proof/Config.lean ====
section
/-!
DEFINITION. What is fixed for the machine, and the free values: constants without a body for what the manual leaves
to the part or to physics. No proof can see a value of them.
-/

namespace Sys2Proof.Config

/-- Tokens that a source or sink port buffers for its stream. The manual gives ports room but no figure (R233);
only timing depends on it (R88). DESIGN CHOICE (notes/assumptions/6.md). -/
def portRoom : Nat := 4096

/-- The value of the transcendental function e^a for an FP32 operand when the model's rational enclosure does not
decide the rounding (R262). UNVERIFIED that this never happens (notes/assumptions/9.md). -/
opaque expUndecided : BitVec 32 → Nat → BitVec 32

/-- The signatures of an attestation report (R411): device key material decides them. The arguments are the device and
the report's first 256 bytes; the components are the 384 bytes of SIGR and the 16,224 bytes of SIGS.
DESIGN CHOICE (notes/assumptions/73.md). -/
opaque attestationSigs : Nat → List (BitVec 8) → (Fin 384 → BitVec 8) × (Fin 16224 → BitVec 8)

/-- SHA-384 of a partition's descriptor, whose byte format the manual does not give (R411). The argument lists its
quads, HBM ranges, devices and windows. DESIGN CHOICE (notes/assumptions/73.md). -/
opaque partitionDigest : List Nat → Fin 48 → BitVec 8

/-- The fused serial of a device (R407, R411), and the least security versions of Tree (1) and Tack (2) (R408).
DESIGN CHOICE (notes/assumptions/72.md). -/
opaque serial : Nat → Fin 16 → BitVec 8
opaque minver : Nat → Nat → Nat

/-- The x coordinate of the device of an X-ring that is cabled as its bridge (R21). DESIGN CHOICE
(notes/assumptions/72.md). -/
opaque bridgeColumn : Nat → Fin 8

/-- The bridge strap of a device (R407): one device of each ring of eight has it. -/
def bridgeStrap (dev : Nat) : Bool := dev % 8 = (bridgeColumn (dev / 8)).val

/-- What the boot flash of a device holds (R408): the bytes of an image by kind (1 Tree, 2 Tack), slot (0 for A, 1 for B) and
offset; and the two fused key hashes (0 for RSA, 1 for SLH-DSA). DESIGN CHOICE (notes/assumptions/72.md). -/
opaque flashByte : Nat → Nat → Nat → Nat → BitVec 8
opaque keyHash : Nat → Nat → Fin 48 → BitVec 8

/-- Whether the hold-up bank of a device meets its end-of-life guarantee at its boot (R407, step 3), by the device and
the time of the check. DESIGN CHOICE (notes/assumptions/72.md). -/
opaque holdUpBankGood : Nat → Nat → Bool

/-- Whether the measured reserve stands above the commit floor when the cinch of an epoch comes to a slot (R378).
DESIGN CHOICE (notes/assumptions/69.md). -/
opaque reserveAbove : Nat → Nat → Nat → Bool

/-- The quota that Tree sets for a partition on a device at step 7 of the boot, in 4 KiB units (R328, R407).
DESIGN CHOICE (notes/assumptions/72.md). -/
opaque bootMsq : Nat → Nat → Nat

/-- The wear index of a quad whose predicted life is zero on every quad (division corner of R391).
DEDUCED (notes/assumptions/61.md). -/
opaque wearAllZero : Nat → BitVec 8

/-- A value that the manual leaves open, by the number of its draw: an l register that a saddle subgraph reads before it
writes it, the times of a launch that never ran, and the like. DESIGN CHOICE (notes/assumptions/4.md). -/
opaque freeValue : Nat → BitVec 64

/-- TREC (R311, R318): the fabric address of a thread's fault record in its context image, by CTX_ID and position. The
scheduler chooses the image's place in the partition's HBM. DESIGN CHOICE (notes/assumptions/25.md). -/
opaque recordAddress : Nat → Nat → BitVec 64

/-- What the sensors of a die give at a time, by channel (R386, R390, R391): channel 0 the thermal cap, 1 the current
cap, 2 + q the temperature of quad q, 64 + k that of HBM stack k, 128 + q the life left of quad q. Read only where no
turn laid down brings the readings. DESIGN CHOICE (notes/assumptions/60.md). -/
opaque sensor (dev die time channel : Nat) : Nat

end Sys2Proof.Config
end

