-- ==== Sys2Proof/Syntax.lean ====
section
/-!
DEFINITION. The steps of the device as data: one constructor of Instr for every row of the opcode table.
Rows with an encoding are the control-stream instructions of R145 to R155; the other rows are the events by
which the engines, the memories, the fabric, the scheduler and system software act.
-/

namespace Sys2Proof

/-- Number of a general register g0 to g31 (R147). -/
abbrev Reg := BitVec 5

/-- The guard of an A-format word: predicate number and inversion (R146, R149). -/
structure Guard where
  p : BitVec 3
  neg : BitVec 1
  deriving DecidableEq, Repr

/-- Scope codes (R117): 0 tile, 1 die, 2 device, 3 fabric. A wider scope has the larger code. -/
abbrev Scope := BitVec 2

/-- The I-format instruction that a LIM word precedes (R151): its fields as its own word holds them. -/
inductive IOp where
  | addi (d a : Reg) (lo : BitVec 16)
  | andi (d a : Reg) (lo : BitVec 16)
  | ori (d a : Reg) (lo : BitVec 16)
  | xori (d a : Reg) (lo : BitVec 16)
  | shift (d a : Reg) (op : BitVec 2) (n : BitVec 6)
  | lui (d a : Reg) (lo : BitVec 16)
  | cmpi (cc : BitVec 2) (p : BitVec 3) (a : Reg) (lo : BitVec 16)
  | csrr (d : Reg) (n : BitVec 12)
  | csrw (a : Reg) (n : BitVec 12)
  | csrrw (d a : Reg) (n : BitVec 12)
  | loop (d a : Reg) (lo : BitVec 16)
  | dsync (l : BitVec 3)
  deriving DecidableEq, Repr

/-- The four arcs of the collar (R14). -/
inductive Arc where
  | west | north | south | east
  deriving DecidableEq, Repr

/-- Access kinds by the permission they need (R337). -/
inductive WalkKind where
  | read | write | readWrite | fetch
  deriving DecidableEq, Repr

/-- The buffer that accepts an offered token (R258, R277, R296). -/
inductive AcceptPoint where
  /-- the E-in edges of an arc, fed by its distributor -/
  | ein (arc : Arc)
  /-- the A latch (false) or the B latch (true), fed by the E-out edges of its arc -/
  | latch (north : Bool)
  /-- sink port s or eo, fed by the E-out edges of its arc -/
  | sinkArc (arc : Arc)
  /-- an egress endpoint, fed by its source port or by east lanes with QM set -/
  | egress (q : BitVec 3)
  /-- sink port qi of an ingress endpoint -/
  | ingressSink (q : BitVec 3)
  /-- the west gather unit, fed by port gx -/
  | gather
  deriving DecidableEq, Repr

/-- A resource unit that a partition owns (R316). -/
inductive Resource where
  /-- the quad of a die, with its four tiles and its vault -/
  | quad (dev die quad : Nat)
  /-- a range of HBM: its first 2 MiB granule (fabric address divided by 2 MiB) and its number of granules -/
  | hbm (first count : Nat)
  /-- a device as fabric endpoint -/
  | device (dev : Nat)
  /-- the two launch windows of the partition on a bridge -/
  | window (bridge part : Nat)
  deriving DecidableEq, Repr

/-- What one die's controller reads and computes from its sensors at an interval boundary (R386, steps 1 and 2):
the thermal cap, the current cap and the temperature of each quad. DESIGN CHOICE (notes/assumptions/60.md). -/
structure SensorReading where
  die : Nat
  tc : Nat
  cc : Nat
  temps : List Nat
  deriving DecidableEq, Repr

/-- The steps of the device: one constructor for each row of the opcode table. -/
inductive Instr where
  /-- add (R174): Writes the 64-bit wrapping sum of two general registers to a general register. -/
  | add (d : Reg) (a : Reg) (b : Reg) (g : Guard)
  /-- sub (R174): Writes the 64-bit wrapping difference of two general registers. -/
  | sub (d : Reg) (a : Reg) (b : Reg) (g : Guard)
  /-- and (R174): Writes the bitwise AND of two general registers. -/
  | and (d : Reg) (a : Reg) (b : Reg) (g : Guard)
  /-- or (R174): Writes the bitwise OR of two general registers. -/
  | or (d : Reg) (a : Reg) (b : Reg) (g : Guard)
  /-- xor (R174): Writes the bitwise XOR of two general registers. -/
  | xor (d : Reg) (a : Reg) (b : Reg) (g : Guard)
  /-- andn (R174): Writes A AND NOT B. -/
  | andn (d : Reg) (a : Reg) (b : Reg) (g : Guard)
  /-- shl (R174): Shifts A left by B mod 64. -/
  | shl (d : Reg) (a : Reg) (b : Reg) (g : Guard)
  /-- shr (R174): Shifts A right logically by B mod 64. -/
  | shr (d : Reg) (a : Reg) (b : Reg) (g : Guard)
  /-- sra (R174): Shifts A right arithmetically by B mod 64. -/
  | sra (d : Reg) (a : Reg) (b : Reg) (g : Guard)
  /-- rol (R174): Rotates A left by B mod 64. -/
  | rol (d : Reg) (a : Reg) (b : Reg) (g : Guard)
  /-- min (R174): Writes the signed minimum of A and B. -/
  | min (d : Reg) (a : Reg) (b : Reg) (g : Guard)
  /-- max (R174): Writes the signed maximum of A and B. -/
  | max (d : Reg) (a : Reg) (b : Reg) (g : Guard)
  /-- minn (R174): Writes the unsigned minimum of A and B. -/
  | minn (d : Reg) (a : Reg) (b : Reg) (g : Guard)
  /-- maxn (R174): Writes the unsigned maximum of A and B. -/
  | maxn (d : Reg) (a : Reg) (b : Reg) (g : Guard)
  /-- slt (R174): Writes 1 if A is signed-less than B, else 0. -/
  | slt (d : Reg) (a : Reg) (b : Reg) (g : Guard)
  /-- sltn (R174): Writes 1 if A is unsigned-less than B, else 0. -/
  | sltn (d : Reg) (a : Reg) (b : Reg) (g : Guard)
  /-- seq (R174): Writes 1 if A equals B, else 0. -/
  | seq (d : Reg) (a : Reg) (b : Reg) (g : Guard)
  /-- clz (R174): Counts leading zero bits of A. -/
  | clz (d : Reg) (a : Reg) (g : Guard)
  /-- ctz (R174): Counts trailing zero bits of A. -/
  | ctz (d : Reg) (a : Reg) (g : Guard)
  /-- popc (R174): Counts the 1 bits of A. -/
  | popc (d : Reg) (a : Reg) (g : Guard)
  /-- bswap (R174): Reverses the byte order of A. -/
  | bswap (d : Reg) (a : Reg) (g : Guard)
  /-- sext.i8 (R174): Sign-extends A[7:0]. -/
  | sextI8 (d : Reg) (a : Reg) (g : Guard)
  /-- sext.i16 (R174): Sign-extends A[15:0]. -/
  | sextI16 (d : Reg) (a : Reg) (g : Guard)
  /-- sext.i32 (R174): Sign-extends A[31:0]. -/
  | sextI32 (d : Reg) (a : Reg) (g : Guard)
  /-- zext.n8 (R174): Zero-extends A[7:0]. -/
  | zextN8 (d : Reg) (a : Reg) (g : Guard)
  /-- zext.n16 (R174): Zero-extends A[15:0]. -/
  | zextN16 (d : Reg) (a : Reg) (g : Guard)
  /-- zext.n32 (R174): Zero-extends A[31:0]. -/
  | zextN32 (d : Reg) (a : Reg) (g : Guard)
  /-- mul (R174): Writes the low 64 bits of A times B. -/
  | mul (d : Reg) (a : Reg) (b : Reg) (g : Guard)
  /-- mulh (R174): Writes the high 64 bits of the signed product. -/
  | mulh (d : Reg) (a : Reg) (b : Reg) (g : Guard)
  /-- mulhn (R174): Writes the high 64 bits of the unsigned product. -/
  | mulhn (d : Reg) (a : Reg) (b : Reg) (g : Guard)
  /-- div (R175): Writes the signed quotient truncated toward zero, with defined results for division by zero and overflow. -/
  | div (d : Reg) (a : Reg) (b : Reg) (g : Guard)
  /-- divn (R175): Writes the unsigned quotient. -/
  | divn (d : Reg) (a : Reg) (b : Reg) (g : Guard)
  /-- rem (R175): Writes the signed remainder. -/
  | rem (d : Reg) (a : Reg) (b : Reg) (g : Guard)
  /-- remn (R175): Writes the unsigned remainder. -/
  | remn (d : Reg) (a : Reg) (b : Reg) (g : Guard)
  /-- addi (R176): Adds a sign-extended immediate to A. -/
  | addi (d : Reg) (a : Reg) (imm : BitVec 16)
  /-- andi (R176): ANDs A with a sign-extended immediate. -/
  | andi (d : Reg) (a : Reg) (imm : BitVec 16)
  /-- ori (R176): ORs A with a sign-extended immediate. -/
  | ori (d : Reg) (a : Reg) (imm : BitVec 16)
  /-- xori (R176): XORs A with a sign-extended immediate. -/
  | xori (d : Reg) (a : Reg) (imm : BitVec 16)
  /-- shli (R177): Shifts A left by an immediate amount. -/
  | shli (d : Reg) (a : Reg) (n : BitVec 6)
  /-- shri (R177): Shifts A right logically by an immediate amount. -/
  | shri (d : Reg) (a : Reg) (n : BitVec 6)
  /-- srai (R177): Shifts A right arithmetically by an immediate amount. -/
  | srai (d : Reg) (a : Reg) (n : BitVec 6)
  /-- roli (R177): Rotates A left by an immediate amount. -/
  | roli (d : Reg) (a : Reg) (n : BitVec 6)
  /-- lui (R178): Writes the immediate's low 32 bits above A's low 32 bits. -/
  | lui (d : Reg) (a : Reg) (imm : BitVec 16)
  /-- lim (R151): Prefixes the next I-format word with 26 high immediate bits, issuing with it as one instruction. -/
  | lim (hi : BitVec 26) (op : Option IOp)
  /-- lea (R179): Computes a base-plus-scaled-offset address with no check or access. -/
  | lea (d : Reg) (a : Reg) (z : BitVec 2) (off : BitVec 10)
  /-- addr2 (R180): Computes a two-dimensional element address from a row and column index pair. -/
  | addr2 (d : Reg) (a : Reg) (b : Reg) (g : Guard) (ps : BitVec 5) (z : BitVec 2)
  /-- cmp (R181): Sets a predicate from a comparison of two general registers under a condition code. -/
  | cmp (p : BitVec 3) (a : Reg) (b : Reg) (g : Guard) (cc : BitVec 3)
  /-- cmpi (R182): Sets a predicate from a comparison of A with an immediate. -/
  | cmpi (cc : BitVec 2) (p : BitVec 3) (a : Reg) (imm : BitVec 16)
  /-- pand (R183): Writes the AND of two predicates. -/
  | pand (pd : BitVec 3) (pa : BitVec 3) (pb : BitVec 3) (g : Guard)
  /-- por (R183): Writes the OR of two predicates. -/
  | por (pd : BitVec 3) (pa : BitVec 3) (pb : BitVec 3) (g : Guard)
  /-- pxor (R183): Writes the XOR of two predicates. -/
  | pxor (pd : BitVec 3) (pa : BitVec 3) (pb : BitVec 3) (g : Guard)
  /-- pandn (R183): Writes pA AND NOT pB. -/
  | pandn (pd : BitVec 3) (pa : BitVec 3) (pb : BitVec 3) (g : Guard)
  /-- porn (R183): Writes pA OR NOT pB. -/
  | porn (pd : BitVec 3) (pa : BitVec 3) (pb : BitVec 3) (g : Guard)
  /-- sel (R184): Selects A or B by a possibly inverted predicate. -/
  | sel (d : Reg) (a : Reg) (b : Reg) (g : Guard) (neg : BitVec 1) (pc : BitVec 3)
  /-- csrr (R185): Reads a user CSR into a general register. -/
  | csrr (d : Reg) (n : BitVec 12)
  /-- csrw (R185): Writes a general register to a user CSR, refused for read-only CSRs. -/
  | csrw (a : Reg) (n : BitVec 12)
  /-- csrrw (R185): Reads the old value of a user CSR and writes a new one as one action. -/
  | csrrw (d : Reg) (a : Reg) (n : BitVec 12)
  /-- TAGS_WRITE (R186): A CSR write to TAGS clears each bit written 1 and leaves the hidden counts unchanged. -/
  | tagsWrite (v : Dword)
  /-- FLAGS_WRITE (R186): A CSR write to FLAGS clears flag bits written 1 and replaces BADSPARSE. -/
  | flagsWrite (v : Dword)
  /-- USER_CSR_WRITE (R186): A CSR write to a writable user CSR without behaviour of its own, such as SR_SEED, replaces its value. -/
  | userCsrWrite (n : BitVec 12) (v : Dword)
  /-- fadd (R190): FP32 addition rounded once under the rounding code. -/
  | fadd (d : Reg) (a : Reg) (b : Reg) (g : Guard) (rm : BitVec 3)
  /-- fsub (R190): FP32 subtraction rounded once. -/
  | fsub (d : Reg) (a : Reg) (b : Reg) (g : Guard) (rm : BitVec 3)
  /-- fmul (R190): FP32 multiplication rounded once. -/
  | fmul (d : Reg) (a : Reg) (b : Reg) (g : Guard) (rm : BitVec 3)
  /-- fdiv (R190): FP32 division rounded once. -/
  | fdiv (d : Reg) (a : Reg) (b : Reg) (g : Guard) (rm : BitVec 3)
  /-- fsqrt (R190): FP32 square root rounded once. -/
  | fsqrt (d : Reg) (a : Reg) (g : Guard) (rm : BitVec 3)
  /-- fmin (R190): FP32 minimum with -0 below +0. -/
  | fmin (d : Reg) (a : Reg) (b : Reg) (g : Guard)
  /-- fmax (R190): FP32 maximum with -0 below +0. -/
  | fmax (d : Reg) (a : Reg) (b : Reg) (g : Guard)
  /-- fma (R190): FP32 fused multiply-add A times B plus D rounded once. -/
  | fma (d : Reg) (a : Reg) (b : Reg) (g : Guard) (rm : BitVec 3)
  /-- fcvtf.i64 (R190): Converts a signed 64-bit integer to FP32. -/
  | fcvtfI64 (d : Reg) (a : Reg) (g : Guard) (rm : BitVec 3)
  /-- fcvtf.n64 (R190): Converts an unsigned 64-bit integer to FP32. -/
  | fcvtfN64 (d : Reg) (a : Reg) (g : Guard) (rm : BitVec 3)
  /-- fcvti.i64 (R190): Converts FP32 to a signed 64-bit integer under R78. -/
  | fcvtiI64 (d : Reg) (a : Reg) (g : Guard) (rm : BitVec 3)
  /-- fcvti.n64 (R190): Converts FP32 to an unsigned 64-bit integer under R78. -/
  | fcvtiN64 (d : Reg) (a : Reg) (g : Guard) (rm : BitVec 3)
  /-- fcmp (R191): Sets a predicate from an FP32 comparison. -/
  | fcmp (p : BitVec 3) (a : Reg) (b : Reg) (g : Guard) (cc : BitVec 3)
  /-- br (R192): Branches to a PC-relative target when its predicate holds. -/
  | br (p : BitVec 3) (neg : BitVec 1) (off : BitVec 22)
  /-- call (R193): Writes the return PC to g31 and branches when its predicate holds. -/
  | call (p : BitVec 3) (neg : BitVec 1) (off : BitVec 22)
  /-- jr (R194): Jumps to the PC held in A. -/
  | jr (a : Reg) (g : Guard)
  /-- jalr (R194): Jumps to A and writes the return PC to D. -/
  | jalr (d : Reg) (a : Reg) (g : Guard)
  /-- ret (R194): Jumps to the PC held in g31. -/
  | ret (g : Guard)
  /-- loop (R195): Pushes a hardware-loop entry, or skips the body when the trip count is zero. -/
  | loop (d : Reg) (a : Reg) (imm : BitVec 16)
  /-- trap (R199): Completes and raises a delivered program trap carrying its code. -/
  | trap (code : BitVec 16)
  /-- brk (R199): Raises a breakpoint trap without completing. -/
  | brk (code : BitVec 16)
  /-- halt (R200): Stops the thread after its issued accesses, without arriving or exiting. -/
  | halt
  /-- wfi (R201): Makes the thread not ready until a tag bit rises or system software wakes it. -/
  | wfi
  /-- boost (R202): Requests or releases a boost lease for the region and returns a status. -/
  | boost (r : Reg)
  /-- saveset (R203): Declares the graph's must-save set from a piece table and returns a status. -/
  | saveset (r : Reg) (n : BitVec 7)
  /-- energy (R204): Reads the thread's energy counter as one consistent value. -/
  | energy (r : Reg)
  /-- eret (R314): With TACT 0b00 resolves the selected thread's trap item and resumes it. -/
  | eretResume
  /-- eret (R314): With TACT 0b01 ends the selected context with STATUS 1. -/
  | eretKill
  /-- eret (R314): With TACT 0b10 wakes a halted or waiting thread at TPC. -/
  | eretWake
  /-- pcsrr (R311): Reads a privileged CSR at level S; traps at level U. -/
  | pcsrr (r : Reg) (n : BitVec 11)
  /-- pcsrw (R311): Writes a privileged CSR at level S; traps at level U. -/
  | pcsrw (r : Reg) (n : BitVec 11)
  /-- TNEXT_READ (R311): Returns the oldest unselected trapped context and loads TSEL and TTHR with it. -/
  | tnextRead (r : Reg)
  /-- TSEL_WRITE (R313): A write to TSEL or TTHR selects a thread and loads TPC from its saved image, or fails. -/
  | tselWrite (v : Dword)
  /-- PT_ROOT_WRITE (R335): Replaces the partition's translation root after dropping every translation of the partition. -/
  | ptRootWrite (v : Dword)
  /-- FPOOL_WRITE (R335): Replaces the partition's frame-pool descriptor, leaving the old value when malformed. -/
  | fpoolWrite (v : Dword)
  /-- SDL_LOAD_WRITE (R315): Reads a 16-word saddle subgraph and checks it for loading into the selected vault or stack entry. -/
  | sdlLoadWrite (v : Dword)
  /-- SDL_LOAD_APPLY (R315): Once no invocation runs the entry, replaces its 16 words as one action. -/
  | sdlLoadApply (key : Nat)
  /-- PRIV_CSR_WRITE (R311): Write to a privileged CSR or control-space field without behaviour of its own, such as TPC or TACT. -/
  | privCsrWrite (n : BitVec 11) (v : Dword)
  /-- ld.b (R212): Loads one byte, zero-extended. -/
  | ldB (d : Reg) (a : Reg) (k : BitVec 4) (sc : BitVec 2) (off : BitVec 10)
  /-- ld.h (R212): Loads two bytes, zero-extended. -/
  | ldH (d : Reg) (a : Reg) (k : BitVec 4) (sc : BitVec 2) (off : BitVec 10)
  /-- ld.w (R212): Loads four bytes, zero-extended. -/
  | ldW (d : Reg) (a : Reg) (k : BitVec 4) (sc : BitVec 2) (off : BitVec 10)
  /-- ld.d (R212): Loads eight bytes. -/
  | ldD (d : Reg) (a : Reg) (k : BitVec 4) (sc : BitVec 2) (off : BitVec 10)
  /-- st.b (R212): Stores one byte. -/
  | stB (d : Reg) (a : Reg) (k : BitVec 4) (sc : BitVec 2) (off : BitVec 10)
  /-- st.h (R212): Stores two bytes. -/
  | stH (d : Reg) (a : Reg) (k : BitVec 4) (sc : BitVec 2) (off : BitVec 10)
  /-- st.w (R212): Stores four bytes. -/
  | stW (d : Reg) (a : Reg) (k : BitVec 4) (sc : BitVec 2) (off : BitVec 10)
  /-- st.d (R212): Stores eight bytes; at fabric scope it enters the combining buffer. -/
  | stD (d : Reg) (a : Reg) (k : BitVec 4) (sc : BitVec 2) (off : BitVec 10)
  /-- sts (R215): Strong store: a release, multi-copy atomic within its scope. -/
  | sts (d : Reg) (a : Reg) (k : BitVec 4) (sc : BitVec 2) (z : BitVec 2) (off : BitVec 8)
  /-- lda (R214): Acquire load at its effective scope. -/
  | lda (d : Reg) (a : Reg) (k : BitVec 4) (sc : BitVec 2) (z : BitVec 2) (off : BitVec 8)
  /-- ldw.sync (R217): Synchronising load that waits for a full sector and acquires. -/
  | ldwSync (d : Reg) (a : Reg) (k : BitVec 4) (sc : BitVec 2) (z : BitVec 2) (off : BitVec 5)
  /-- ldw.take (R217): Taking load that waits for a full sector, reads and sets it empty indivisibly. -/
  | ldwTake (d : Reg) (a : Reg) (k : BitVec 4) (sc : BitVec 2) (z : BitVec 2) (off : BitVec 5)
  /-- stw.fill (R217): Filling write that waits for a non-full sector, writes and sets it full. -/
  | stwFill (d : Reg) (a : Reg) (k : BitVec 4) (sc : BitVec 2) (z : BitVec 2) (off : BitVec 5)
  /-- stw.clear (R217): Clearing write that sets a full or poisoned sector empty. -/
  | stwClear (a : Reg) (k : BitVec 4) (sc : BitVec 2) (off : BitVec 7)
  /-- fes (R217): Reads a sector's full/empty state code. -/
  | fes (d : Reg) (a : Reg) (k : BitVec 4) (sc : BitVec 2) (off : BitVec 7)
  /-- PARKED_ACCESS_SERVE (R211): A parked full/empty access is served at its port when the sector's state changes. -/
  | parkedAccessServe (sector : Nat)
  /-- PARKED_ACCESS_RETRY (R211): An access that found the port's park list full is sent again after 512 clocks. -/
  | parkedAccessRetry (key : Nat)
  /-- amo.swap (R219): Atomic swap returning the old value. -/
  | amoSwap (d : Reg) (a : Reg) (k : BitVec 4) (sc : BitVec 2) (sz : BitVec 1) (off : BitVec 5)
  /-- amo.cas (R219): Atomic compare-and-swap using an even register pair. -/
  | amoCas (d : Reg) (a : Reg) (k : BitVec 4) (sc : BitVec 2) (sz : BitVec 1) (off : BitVec 5)
  /-- amo.add (R219): Atomic wrapping add returning the old value. -/
  | amoAdd (d : Reg) (a : Reg) (k : BitVec 4) (sc : BitVec 2) (sz : BitVec 1) (off : BitVec 5)
  /-- amo.and (R219): Atomic AND. -/
  | amoAnd (d : Reg) (a : Reg) (k : BitVec 4) (sc : BitVec 2) (sz : BitVec 1) (off : BitVec 5)
  /-- amo.or (R219): Atomic OR. -/
  | amoOr (d : Reg) (a : Reg) (k : BitVec 4) (sc : BitVec 2) (sz : BitVec 1) (off : BitVec 5)
  /-- amo.xor (R219): Atomic XOR. -/
  | amoXor (d : Reg) (a : Reg) (k : BitVec 4) (sc : BitVec 2) (sz : BitVec 1) (off : BitVec 5)
  /-- amo.min (R219): Atomic signed minimum. -/
  | amoMin (d : Reg) (a : Reg) (k : BitVec 4) (sc : BitVec 2) (sz : BitVec 1) (off : BitVec 5)
  /-- amo.max (R219): Atomic signed maximum. -/
  | amoMax (d : Reg) (a : Reg) (k : BitVec 4) (sc : BitVec 2) (sz : BitVec 1) (off : BitVec 5)
  /-- amo.minn (R219): Atomic unsigned minimum. -/
  | amoMinn (d : Reg) (a : Reg) (k : BitVec 4) (sc : BitVec 2) (sz : BitVec 1) (off : BitVec 5)
  /-- amo.maxn (R219): Atomic unsigned maximum. -/
  | amoMaxn (d : Reg) (a : Reg) (k : BitVec 4) (sc : BitVec 2) (sz : BitVec 1) (off : BitVec 5)
  /-- amo.fadd (R219): Atomic 32-bit FP32 add rounded by RNE. -/
  | amoFadd (d : Reg) (a : Reg) (k : BitVec 4) (sc : BitVec 2) (off : BitVec 5)
  /-- invoke (R221): Sends an invocation token to the saddle unit at the target and counts against its tag. -/
  | invoke (d : Reg) (a : Reg) (k : BitVec 4) (sc : BitVec 2) (e : BitVec 4) (t : BitVec 6)
  /-- SADDLE_RUN (R114): A saddle unit runs one subgraph atomically on the target sector and returns a result token. -/
  | saddleRun
  /-- INVOCATION_RESULT (R222): On the result token's return, writes the value and status registers and completes the tag. -/
  | invocationResult
  /-- tjoin (R223): Merges the access sets of two ordering tokens into a third. -/
  | tjoin (kd : BitVec 4) (ka : BitVec 4) (kb : BitVec 4) (g : Guard)
  /-- twait (R223): Waits until every access on a token has performed. -/
  | twait (ka : BitVec 4) (g : Guard)
  /-- fence (R224): Release and acquire fence at a scope, draining the combining buffer at device scope or wider. -/
  | fence (sc : BitVec 2)
  /-- fence.flag (R128): Fence followed by a filling write of no bytes to a flag sector. -/
  | fenceFlag (a : Reg) (k : BitVec 4) (sc : BitVec 2) (off : BitVec 8)
  /-- waitany (R226): Waits until any masked tag bit is set and returns the set bits. -/
  | waitany (d : Reg) (a : Reg) (g : Guard)
  /-- waitall (R226): Waits until every masked tag bit is set. -/
  | waitall (d : Reg) (a : Reg) (g : Guard)
  /-- ffr (R226): Returns the index of the lowest set masked tag bit without waiting. -/
  | ffr (d : Reg) (a : Reg) (g : Guard)
  /-- ffr.clr (R226): Returns and clears the lowest set masked tag bit. -/
  | ffrClr (d : Reg) (a : Reg) (g : Guard)
  /-- dsync (R50): Releases, arrives and waits for every member of the level's domain, then flips the phase bit. -/
  | dsync (l : BitVec 3)
  /-- bind (R240): Binds a generator's slot context to a port with a program, optionally counting a sink tag. -/
  | bind (ag : BitVec 3) (port : BitVec 5) (prog : BitVec 5) (tv : BitVec 1) (t : BitVec 6)
  /-- unbind (R240): Waits until the context is idle and unbinds it. -/
  | unbind (ag : BitVec 3)
  /-- tctl.start (R241): Restarts a generator context or sets an engine's table pointer and starts it firing. -/
  | tctlStart (e : BitVec 4) (i : BitVec 3)
  /-- tctl.stop (R241): Stops an engine after the access or firing in progress. -/
  | tctlStop (e : BitVec 4)
  /-- tctl.resume (R241): Continues a stopped engine. -/
  | tctlResume (e : BitVec 4)
  /-- tctl.base (R241): Sets a generator context's base for later stream commands. -/
  | tctlBase (ag : BitVec 3) (r : Reg)
  /-- tctl.stat (R242): Returns an engine's status word. -/
  | tctlStat (e : BitVec 4) (r : Reg)
  /-- strm (R244): Appends a stream command with a register count to the port's scoreboard. -/
  | strm (ag : BitVec 3) (r : Reg)
  /-- strm.i (R244): Appends a stream command with an immediate count. -/
  | strmI (ag : BitVec 3) (n : BitVec 16)
  /-- drain (R246): Appends a drain marker to a source port and counts against a tag. -/
  | drain (port : BitVec 6) (t : BitVec 6)
  /-- drain.slot (R246): Appends drain markers to every source port of the slot. -/
  | drainSlot (t : BitVec 6)
  /-- DRAIN_MARKER (R246): A drain marker reaching the scoreboard head makes the port emit EOS. -/
  | drainMarker (key : Nat) (port : BitVec 5)
  /-- cfg.ld (R248): Reads, validates and writes a configuration block once its instances are quiescent. -/
  | cfgLd (r : Reg)
  /-- cfg.stage (R249): Reads and validates a block into the tile's staging buffer. -/
  | cfgStage (r : Reg)
  /-- cfg.sw (R249): Appends end-of-context markers to every source port of the slot to switch to the staged set. -/
  | cfgSw (t : BitVec 6)
  /-- EOC_SWITCH (R249): An instance whose used inputs all hold EOC takes its staged words and forwards EOC. -/
  | eocSwitch (key : Nat) (node : Nat)
  /-- lq.stat (R253): Returns a queue endpoint's status word. -/
  | lqStat (r : Reg) (q : BitVec 3)
  /-- launch (R254): Drains, reads a launch record and passes it to the scheduler's launch queue. -/
  | launch (r : Reg)
  /-- exit (R255): Ends the thread as arrived at every domain after a fabric-scope release. -/
  | exit
  /-- yield (R255): Sets the thread's YIELDED bit to mark a cheap pre-emption point. -/
  | yield
  /-- marm (R284): Arms an array table index for a count of firings, optionally counting a tag. -/
  | marm (v : BitVec 1) (i : BitVec 3) (t : BitVec 6) (n : BitVec 10)
  /-- mfence (R285): Waits until every earlier order on the masked accumulators has ended. -/
  | mfence (m : BitVec 4)
  /-- acc.clr (R286): Zeroes, opens and unpoisons the masked accumulators. -/
  | accClr (m : BitVec 4)
  /-- acc.hold (R286): Makes the masked accumulators held. -/
  | accHold (m : BitVec 4)
  /-- acc.stat (R286): Returns the armed, poison and held bits of the accumulators. -/
  | accStat (r : Reg)
  /-- acc.rd (R286): Reads one accumulator element after earlier orders on it have ended. -/
  | accRd (r : Reg) (n : BitVec 2)
  /-- STREAM_ACCESS (R233): An address-generator context issues the access of its next iteration or run. -/
  | streamAccess (key : Nat) (ag : BitVec 3)
  /-- COMBINING_BUFFER_SEND (R136): A combining-buffer entry is sent when room is needed or its 2 µs of resident time expires. -/
  | combiningBufferSend (key : Nat) (n : Nat)
  /-- TABLE_WALK (R336): A quad walker translates a virtual address through five levels after a TLB miss. -/
  | tableWalk (key : Nat) (va : Dword) (kind : WalkKind)
  /-- INVALIDATION (R344): A write to a walk-marked sector drops the matching cached translations before it performs. -/
  | invalidation (sector : Nat)
  /-- TOKEN_ACCEPT (R296): A buffer accepts an offered token, keeping one slot for the oldest iteration. -/
  | tokenAccept (key : Nat) (point : AcceptPoint)
  /-- LANE_FIRE (R260): A lane fires the word at its table pointer on its operand tokens. -/
  | laneFire (key : Nat) (lane : BitVec 8)
  /-- LANE_EOS (R260): A lane forwards or absorbs EOS once it has arrived on every named edge, resetting its pointer. -/
  | laneEos (key : Nat) (lane : BitVec 8)
  /-- GROUP_FIRE (R266): A block group of 32 lanes fires a group operation in one clock. -/
  | groupFire (key : Nat) (grp : BitVec 3)
  /-- SWITCH_BOX_FIRE (R271): A lane box, corner box or router port fires its operation. -/
  | switchBoxFire (key : Nat) (node : Nat)
  /-- ARC_EOS_PADDING (R298): EOS at an arc distributor pads the partial wave with V=0 tokens and distributes EOS. -/
  | arcEosPadding (key : Nat) (arc : Arc)
  /-- LATCH_EOS_PADDING (R277): EOS at a latch or gather unit completes a partial panel with neutral padding. -/
  | latchEosPadding (key : Nat) (north : Bool)
  /-- GATHER_READ (R277): The west gather unit reads a panel row from the offset delivered on port gx. -/
  | gatherRead (key : Nat)
  /-- MMA_FIRE (R278): An armed MMA fires on full panels and an open accumulator. -/
  | mmaFire (key : Nat) (i : BitVec 3)
  /-- MLT_FIRE (R280): An armed MLT writes an A panel into the accumulator. -/
  | mltFire (key : Nat) (i : BitVec 3)
  /-- MST_FIRE (R279): An armed MST emits a held accumulator through its width. -/
  | mstFire (key : Nat) (i : BitVec 3)
  /-- ARMING_END (R278): A count-0 arming ends at EOS and performs its final hold, output and B release. -/
  | armingEnd (key : Nat) (i : BitVec 3)
  /-- ARRAY_EOS (R282): The array sends EOS to an output once its sources have EOS and no armed order names it. -/
  | arrayEos (key : Nat) (out : BitVec 4)
  /-- SINK_EOS (R245): EOS at a sink port ends commands, writes combiners and completes sink tags. -/
  | sinkEos (key : Nat) (port : BitVec 5)
  /-- EGRESS_GROUP_SEND (R252): An egress sends a complete integrity group when the ingress has a free slot. -/
  | egressGroupSend (key : Nat) (q : BitVec 3)
  /-- EGRESS_EOS (R252): EOS at an egress pads and sends the last group, then EOS with its byte count. -/
  | egressEos (key : Nat) (q : BitVec 3)
  /-- INTEGRITY_CHECK (R134): The last flit of a group checks its end-to-end tag, poisoning and requesting replay on failure. -/
  | integrityCheck (key : Nat) (q : BitVec 3) (good : Bool)
  /-- GROUP_REPLAY (R352): A replayed group's writes restore the sector states a good delivery would have left. -/
  | groupReplay (key : Nat) (q : BitVec 3)
  /-- INGRESS_EOS (R252): The ingress passes EOS on after its last slot has been taken. -/
  | ingressEos (key : Nat) (q : BitVec 3)
  /-- OI_ADVANCE (R295): The part's oldest-iteration counter advances and is announced to every buffer. -/
  | oiAdvance (rid : Nat) (part : Nat)
  /-- FLIT_RECEIVE (R402): A port receives a flit, discarding it and requesting replay on a bad CRC. -/
  | flitReceive (dev : Nat) (port : Nat) (group : Nat) (good : Bool)
  /-- LANE_GROUP_RETRAIN (R402): A lane group needing 16 replays of one flit is retrained. -/
  | laneGroupRetrain (dev : Nat) (port : Nat) (group : Nat)
  /-- PORT_DOWN (R402): A port whose lane groups fail retraining for 10 ms becomes down and traffic moves. -/
  | portDown (dev : Nat) (port : Nat)
  /-- BINDING_RELOCATE (R399): A failed bound lane group's binding moves to an unbound group. -/
  | bindingRelocate (dev : Nat) (port : Nat) (group : Nat)
  /-- LOAD_REQUEST (R397): A remote load request flit is performed at its target. -/
  | loadRequest
  /-- LOAD_REPLY (R397): A load reply flit returns the value to its origin. -/
  | loadReply
  /-- ATOMIC_REQUEST (R220): A remote atomic request flit is performed at the owning node. -/
  | atomicRequest
  /-- ATOMIC_REPLY (R397): An atomic reply flit returns the old value. -/
  | atomicReply
  /-- INVOCATION (R397): An invocation flit delivers a token to a remote saddle unit. -/
  | invocation
  /-- STORE_ACKNOWLEDGEMENT (R398): Acknowledges that a pooled store's sectors have been performed. -/
  | storeAcknowledgement
  /-- POOLED_READ_REQUEST (R397): A pooled read request flit reads sectors, optionally through a filter entry. -/
  | pooledReadRequest
  /-- POOLED_DATA_FLIT (R398): A pooled data flit writes its masked sectors as a store, a fill or a read reply. -/
  | pooledDataFlit
  /-- SCHEDULER_MESSAGE (R397): A scheduler message flit is delivered to the destination scheduler. -/
  | schedulerMessage
  /-- HOST_STORE (R404): A host store through a BAR is performed at fabric scope. -/
  | hostStore (bridge : Nat) (fa : Dword) (data : List Byte)
  /-- HOST_READ (R404): A host read through BAR0 is performed after earlier host stores. -/
  | hostRead (bridge : Nat) (fa : Dword) (n : Nat)
  /-- HOST_SYNC_READ (R404): A 64-byte BAR4 read returns a full sector as an acquire, or all-ones. -/
  | hostSyncRead (bridge : Nat) (fa : Dword) (n : Nat)
  /-- LAUNCH_INVOCATION (R405): A 64-byte posted write to a launch window sends a launch record to the target device. -/
  | launchInvocation (bridge : Nat) (page : Nat) (off : Nat) (data : List Byte)
  /-- LAUNCH_ENQUEUE (R320): A launch record enters a launch queue and is checked or refused. -/
  | launchEnqueue (dev : Nat)
  /-- SCHEDULER_ROUND (R322): The scheduler ranks bids and admits placements, on events or at least every 1 µs. -/
  | schedulerRound (dev : Nat) (part : Nat)
  /-- BID_BLOCKING (R323): A bid whose bypass count reaches BYPASS_MAX becomes blocking. -/
  | bidBlocking (dev : Nat) (part : Nat)
  /-- RESERVATION (R327): A cross-device reservation is ranked and answered by a remote scheduler. -/
  | reservation (dev : Nat) (part : Nat)
  /-- GRAPH_START (R36): Loads configuration, writes initial state, collects acknowledgements and releases the threads. -/
  | graphStart (rid : Nat)
  /-- CONFIG_ACK (R329): A die or device acknowledges, or reports a malformed word, in the start sequence. -/
  | configAck (rid : Nat) (dev : Nat)
  /-- GRAPH_COMPLETION (R43): When the completion conditions hold, writes the completion record, sets DONE and the tag, and frees the region. -/
  | graphCompletion (rid : Nat)
  /-- KILL (R52): System software kills a graph, which ends with STATUS 1. -/
  | kill (rid : Nat)
  /-- PREEMPTION (R354): Gates a region, reads out its state, writes the image as snapshot delta and frees its tiles. -/
  | preemption (rid : Nat)
  /-- GATE_REQUEST (R355): Asks every scheduler of a multi-die graph to gate at fabric tick G. -/
  | gateRequest (rid : Nat) (tick : Nat)
  /-- GATE (R355): At tick G every die of the graph gates the region's slot. -/
  | gate (rid : Nat)
  /-- RESTORE (R359): Loads a saved image into a placement and releases its threads. -/
  | restore (rid : Nat)
  /-- IMAGE_UPDATE (R360): A flag, tag completion or result for a switched-out context is applied to its image. -/
  | imageUpdate
  /-- POLICY_RECORD_WRITE (R328): A write to a partition's policy record updates scheduling parameters from the next round. -/
  | policyRecordWrite (dev : Nat) (part : Nat) (word : Nat) (v : Dword) (tree : Bool)
  /-- POWER_RECORD_WRITE (R385): A write to a partition's power record updates base code, boost enable and pacing. -/
  | powerRecordWrite (dev : Nat) (part : Nat) (v : Dword)
  /-- ENERGY_WEIGHT_WRITE (R364): Tree writes the energy weight table, applied from the next interval. -/
  | energyWeightWrite (dev : Nat) (word : Nat) (v : Dword)
  /-- CONTROL_SPACE_WRITE (R312): Write to a device control space location with no behaviour of its own. -/
  | controlSpaceWrite (dev : Nat) (off : Nat) (v : Dword)
  /-- PARTITION_CHANGE (R316): Tree reassigns a resource unit to another partition after scrubbing it, or refuses. -/
  | partitionChange (res : Resource) (owner : Nat)
  /-- POWER_INTERVAL (R386): At each 50 µs boundary the controller sets caps, decides boosts and sets every spine. -/
  | powerInterval (dev : Nat) (sense : List SensorReading)
  /-- LEASE_END (R386): A boost lease whose REMAIN reaches zero ends and its spine is released. -/
  | leaseEnd (rid : Nat)
  /-- HBM_TEMP_READ (R390): Each millisecond reads each stack's temperature and sets refresh and bandwidth caps. -/
  | hbmTempRead (dev : Nat) (stack : Nat) (code : Option (BitVec 3))
  /-- WEAR_UPDATE (R391): Each second computes each quad's EOLH and WEAR index. -/
  | wearUpdate (dev : Nat) (eolh : List (BitVec 32))
  /-- POWER_FAIL (R371): Loss of supply broadcasts the PF trap, gates every region and enters hold-up mode. -/
  | powerFail (dev : Nat)
  /-- RESERVE_EXHAUSTED (R373): The hold-up reserve runs out and the module loses power. -/
  | reserveExhausted (dev : Nat)
  /-- SUPPLY_RETURN (R373): Input above 44 V for 10 ms after the cinch causes a power-on reset. -/
  | supplyReturn (dev : Nat)
  /-- POWER_ON_RESET (R406): Power-on reset runs the boot sequence from step 1. -/
  | powerOnReset (dev : Nat)
  /-- COLD_RESET (R406): A PCIe or Tree reset runs the boot sequence from step 1. -/
  | coldReset (dev : Nat)
  /-- WARM_RESET (R406): Kills resident graphs, scrubs memory and reruns boot from step 5 without restoring. -/
  | warmReset (dev : Nat)
  /-- TACK_WATCHDOG (R406): Expiry of the 1 s Tack watchdog makes Tree take a warm reset. -/
  | tackWatchdog (dev : Nat)
  /-- LINK_TRAINING (R410): Tack trains a lane group through DOWN, EQUALISE, IDENT and UP. -/
  | linkTraining (dev : Nat) (port : Nat) (group : Nat) (partner : Nat)
  /-- ATTESTATION_REQUEST (R411): A launch record with IMAGE 0 makes Tree write a signed attestation report. -/
  | attestationRequest (dev : Nat)
  /-- STATIC_SHARE (R366): In each clock of a tile, each resident thread is charged its floor(S/n) static share and its counter is updated at the end of the clock. -/
  | staticShare (tile : Nat)
  /-- ACCESS_REPLY (R209): The data or old value of an on-device load, synchronising load or atomic returns into the tile's reply edge buffer and is written to its register or port. -/
  | accessReply (key : Nat)
  /-- LINK_FAILURE (R372): A port loses its link partner, for example a peer that enters hold-up mode and turns its ports off, and the link fails. -/
  | linkFailure (dev : Nat) (port : Nat)
  /-- GATE_REQUEST_WITHDRAWAL (R355): If not every acknowledgement of a gate request has arrived by G - 200 ns, the scheduler withdraws the request and chooses a new G. -/
  | gateRequestWithdrawal (rid : Nat)
  deriving DecidableEq, Repr

end Sys2Proof
end

