-- ==== Sys2Proof/Machine/State.lean ====
section
/-!
DEFINITION. The state of a scale-up domain of GV-Z960 devices as plain data: every piece of state the manual names,
the reasons a step can stop, and the state after a power-on reset. A thread context and its slot are named by
thread key = (dev*896 + tile)*4 + slot with the tile index of R12; a tile by tile key = dev*896 + tile; a quad by
quad key = dev*224 + die*56 + quad. Memory is one store of bytes: HBM at its fabric address (R95), vaults from 2^60,
scratchpads from 2^61 and save stores from 2^62.
-/

namespace Sys2Proof.Machine

/-- Why the machine stops with a fault. -/
inductive Fault where
  /-- A control-stream instruction was to execute while `cur` names no resident thread, so it has no issuer.
  Raised by every thread meaning. Safe: no hardware issues an instruction without a thread. -/
  | noIssuer
  deriving DecidableEq, Repr

/-- Why a step has no meaning. -/
inductive Refusal where
  /-- The instruction has no meaning in the model yet. Raised by arms of exec only. Safe. -/
  | notModelled (mnemonic : String)
  deriving DecidableEq, Repr

/-- The result type of every meaning. -/
abbrev Res (σ : Type) := Host.Outcome σ Fault Refusal

/-- Sector states (R102); 0b11 is never stored. -/
inductive SectorState where
  | empty | full | poisoned
  deriving DecidableEq, Repr

/-- Walk mark of an HBM sector (R344). -/
inductive WalkMark where
  | clear | leaf | table
  deriving DecidableEq, Repr

/-- The two sets of a token (R121): identifiers of accesses of the thread. -/
structure TokSet where
  lw : List Nat := []
  rs : List Nat := []
  deriving DecidableEq, Repr

/-- A loop-stack entry (R195). -/
structure LoopEntry where
  start : Dword
  stop : Dword
  left : Dword
  idx : Dword
  reg : Reg
  deriving DecidableEq, Repr

/-- A combining-buffer entry (R101): one sector, the bytes its mask holds, and the opening store's token. -/
structure CbEntry where
  id : Nat
  sector : Nat
  bytes : SMap (Option Byte)
  tok : BitVec 4
  opened : Nat
  deriving DecidableEq, Repr

/-- Atomic operations (R110, R218). -/
inductive AmoOp where
  | swap | cas | add | and | or | xor | min | max | minn | maxn | fadd
  deriving DecidableEq, Repr

/-- The kinds of access that a control thread issues through ag0 (R209). -/
inductive AccKind where
  | load | lda | store | sts | sync | take | fill | clear | fes | flag
  | amo (op : AmoOp)
  | invoke (entry : BitVec 4) (tag : BitVec 6)
  deriving DecidableEq, Repr

/-- An access with every operand captured at issue, so that ag0 can issue the same access again (R208). -/
structure Access where
  kind : AccKind
  va : Dword
  size : Nat
  sc : Scope
  k : BitVec 4
  dst : Reg
  d1 : Dword
  d2 : Dword
  pc : Dword
  /-- the access's identifier, and whether its thread has gone on past it after a fault (R208) -/
  id : Nat
  late : Bool
  /-- accesses of the thread that it is ordered after (R122), and entries of the combining buffer that may have to be
  sent and performed before it (R135, R136, R210) -/
  after : List Nat := []
  first : List Nat := []
  deriving DecidableEq, Repr

/-- Trap and fault causes (R347). -/
inductive Cause where
  | illegal | fetch | privileged | malformed | binding | domain | program | breakpoint
  | address | alignment | translation | poison
  deriving DecidableEq, Repr

/-- The 64-byte fault record (R351). -/
structure FaultRec where
  cause : BitVec 32
  acc : BitVec 8
  slot : BitVec 8
  ea : Dword
  group : Dword
  done : Dword
  chunk : BitVec 32
  pc : BitVec 32
  i0 : BitVec 32
  i1 : BitVec 32
  i2 : BitVec 32
  i3 : BitVec 32
  i4 : BitVec 32
  deriving DecidableEq, Repr

/-- Where a trap item comes from (R349). -/
inductive ItemSource where
  | core
  | scalar
  | stream (ag : BitVec 3)
  deriving DecidableEq, Repr

/-- A trap item (R349). -/
structure Item where
  src : ItemSource
  tcause : BitVec 32
  record : FaultRec
  deriving DecidableEq, Repr

/-- What ag0 holds while a scalar fault stands (R208): an access to issue again, or an instruction (CFG.LD,
CFG.STAGE, SAVESET, LAUNCH, SDL_LOAD) that its thread issues again from the start.
DEDUCED (notes/assumptions/19.md). -/
inductive Held where
  | none
  | access (a : Access)
  | reissue
  deriving DecidableEq, Repr

/-- Thread states (R200, R201, R349, R52). -/
inductive ThreadStatus where
  | running | halted | wfi | stopped | exited
  deriving DecidableEq, Repr

/-- What a thread that is not ready waits for at its instruction (R41). -/
inductive Wait where
  | none
  /-- the instruction at PC is issued again (full scoreboard, tag wait, outstanding accesses, ...) -/
  | issue
  /-- a full/empty access is parked at its sector's port (R211) -/
  | parked (a : Access)
  /-- the port's list was full; the access is sent again (R211) -/
  | unparked (a : Access)
  /-- a filling write or flag set is on its way to another device (R398) -/
  | away (a : Access)
  /-- step 3 of DSYNC.l after the arrival was signalled (R50) -/
  | dsync (l : BitVec 3)
  deriving DecidableEq, Repr

/-- The per-thread set of privileged CSRs of a level-S thread, or of a management set (R311, R313). -/
structure PrivSet where
  tsel : Dword := 0
  tthr : Dword := 0
  tpc : Dword := 0
  tpcDirty : Bool := false
  tact : Dword := 0
  last : BitVec 2 := 0
  sdlTgt : Dword := 0
  sdlStat : BitVec 2 := 0
  /-- loads that wait for their entry, oldest first: the target as it was when the load was written, and the words -/
  sdlWords : List (Dword × List Word) := []
  /-- loads of a management set whose words wait for a lazy page: the target and the address (R315, R341) -/
  sdlReads : List (Dword × Dword) := []
  deriving DecidableEq, Repr

/-- A control thread (R37, R38, R121, R195, R318). -/
structure Thread where
  /-- region identifier, and position in the region -/
  rid : Nat := 0
  rx : Nat := 0
  ry : Nat := 0
  part : Nat := 0
  /-- virtual address of the control stream and its length in words (R27, R145) -/
  stream : Dword := 0
  words : Nat := 0
  pc : Dword := 0
  /-- g1 to g31 (R147) -/
  g : SMap Dword := []
  /-- p1 to p7 -/
  p : SMap Bool := []
  /-- k1 to k15, and the next access identifier (R121) -/
  tok : SMap TokSet := []
  nextId : Nat := 0
  /-- accesses issued and not yet performed (R118): remote loads and atomics, invocations, sent stores -/
  outstanding : List Nat := []
  /-- those of them that are fabric-scope stores (R137), and acquire loads (R209) -/
  fstores : List Nat := []
  acquiring : List Nat := []
  /-- registers that an outstanding access is to write, with the access's identifier (R161, R208) -/
  pending : List (Nat × Nat) := []
  /-- accesses that ag0 has issued and that have not left the tile: the thread has gone on past them (R209) -/
  pool : List Access := []
  /-- bytes of the outstanding accesses: identifier, address and size (R137) -/
  places : List (Nat × Nat × Nat) := []
  /-- user CSRs (R108, R89, R187, R49, R162); BOOST_LEASE and SAVESET are kept per region -/
  tags : Dword := 0
  flags : Dword := 0
  ctxId : Dword := 0
  domMemb : Dword := 0
  srSeed : Dword := 0
  latMode : Dword := 0
  /-- the energy counter V (R367): ENERGY_NJ above, ENERGY_FRAC in the low 16 bits -/
  energy : Dword := 0
  /-- hidden outstanding counts of the tags (R109) -/
  tagCount : SMap Nat := []
  /-- loop stack, top first (R195) -/
  loops : List LoopEntry := []
  /-- combining buffer, oldest first (R101) -/
  cb : List CbEntry := []
  /-- one of the events of R136 has occurred: from then on stream commands send the buffer's entries too -/
  synced : Bool := false
  status : ThreadStatus := .running
  wait : Wait := .none
  /-- the instruction at PC has been charged its issue energy already (R365) -/
  charged : Bool := false
  /-- hidden YIELDED bit (R255) -/
  yielded : Bool := false
  /-- arrivals signalled, and phases passed, per level (R50, R53) -/
  arrivals : SMap Nat := []
  /-- what ag0 holds, and the thread's trap items, the listed item first (R208, R349) -/
  held : Held := .none
  items : List Item := []
  /-- energy of this thread no longer carries a static share: EXIT completed, or null stream (R366) -/
  resident : Bool := true
  /-- level S (R308) and its privileged CSRs -/
  super : Bool := false
  priv : PrivSet := {}
  deriving DecidableEq, Repr

/-- One piece of a must-save set (R203). -/
structure Piece where
  va : Dword
  len : Nat
  prio : Nat
  deriving DecidableEq, Repr

/-- The boost lease of a region (R187, R202, R386). -/
structure Lease where
  state : BitVec 2 := 0
  step : BitVec 6 := 0
  remain : BitVec 14 := 0
  clipped : Bool := false
  /-- duration asked for, and the threads whose requests reached the region in this power-control interval -/
  dur : BitVec 14 := 0
  askers : List Nat := []
  /-- that interval, by its number -/
  asked : Nat := 0
  /-- fabric time of the request, and whether the region's tiles are on spines of their own (R384, R392) -/
  time : Nat := 0
  onSpine : Bool := false
  deriving DecidableEq, Repr

/-- What the scheduler keeps of an image's header (R26), and the parts that its link-queue bindings join (R251). -/
structure ImageHdr where
  w : Nat := 0
  h : Nat := 0
  parts : Nat := 0
  latency : List Nat := []
  msMax : Nat := 0
  spad : Nat := 0
  vault : Nat := 0
  /-- producer and consumer part of each binding between two parts -/
  links : List (Nat × Nat) := []
  deriving DecidableEq, Repr

/-- A record of a configuration block. -/
structure CfgRecord where
  kind : Nat
  first : Nat
  count : Nat
  len : Nat
  zero : Bool
  words : List Word
  deriving DecidableEq, Repr

/-- A stream-directory entry (R27). -/
structure DirEntry where
  stream : Nat
  words : Nat
  join : Nat
  deriving DecidableEq, Repr

/-- An engine record (R30). -/
structure EngineRec where
  rx : Nat
  ry : Nat
  e : Nat
  words : List Word
  deriving DecidableEq, Repr

/-- A data record (R30). -/
structure DataRec where
  rx : Nat
  ry : Nat
  vault : Bool
  empty : Bool
  ofs : Nat
  len : Nat
  dofs : Nat
  deriving DecidableEq, Repr

/-- One end of a link-queue binding (R251). -/
structure QueueEnd where
  rx : Nat
  ry : Nat
  part : Nat
  q : Nat
  deriving DecidableEq, Repr

/-- An image taken apart. The lists by position follow the directory's order. -/
structure ImageInfo where
  hdr : ImageHdr := {}
  length : Nat := 0
  ofs : List Nat := []
  dir : List DirEntry := []
  /-- set-0 records of both sections -/
  cfg : List (List CfgRecord) := []
  engines : List EngineRec := []
  data : List DataRec := []
  bindings : List (QueueEnd × QueueEnd) := []
  deriving DecidableEq, Repr

/-- A launch record (R35) with what the scheduler knows of its arrival (R320). -/
structure LaunchRec where
  image : Dword
  arg : Dword
  done : Dword
  seed : Dword
  group : Nat
  gsize : Nat
  prio : Nat
  tagByte : Nat
  /-- the reserved bits: 2 of GROUP, 5 of PRIO, 1 of TAG, then bytes 0x26 to 0x3F -/
  reserved : Nat
  dev : Nat
  part : Nat
  super : Bool
  /-- it comes through a privileged launch window or from a thread of level S (R308, R411) -/
  trusted : Bool
  /-- the bridge, for a record from a host -/
  host : Option Nat
  /-- for LAUNCH: the launcher's thread key and CTX_ID -/
  launcher : Option (Nat × Dword)
  arrival : Nat
  /-- launch number: names the launch while it has no region -/
  n : Nat
  bypass : Nat
  blocking : Bool
  /-- the image header, from the moment the record is in a queue -/
  hdr : ImageHdr
  deriving DecidableEq, Repr

/-- Life of a region (R36, R43, R354, R359). -/
inductive RegionState where
  /-- placed; steps 1 to 3 of R36 not complete -/
  | starting
  | resident
  /-- gated at a pre-emption (R355) -/
  | gated
  /-- switched out; its image holds it -/
  | saved
  /-- its graph has ended, and its completion record waits to be written (R43) -/
  | ending
  deriving DecidableEq, Repr

/-- The origin of one part of a region on its device (R31). -/
structure Origin where
  dev : Nat
  ox : Nat
  oy : Nat
  deriving DecidableEq, Repr

/-- A placed or switched-out graph (R31, R43, R326). -/
structure Region where
  ctxId : Dword
  launch : LaunchRec
  w : Nat
  h : Nat
  parts : Nat
  slot : Nat
  origins : List Origin
  spadBytes : Nat
  vaultBytes : Nat
  /-- units of the share on each tile, 16 KiB each, and of the allocation in each quad, 64 KiB each, in order (R31) -/
  spadUnits : SMap (List Nat)
  vaultUnits : SMap (List Nat)
  msMax : Nat
  admission : Nat
  state : RegionState
  /-- devices whose configuration acknowledgement is still missing (R36, R329) -/
  acks : List Nat
  /-- a switched-out graph that has been admitted and not yet released (R359) -/
  restoring : Bool
  /-- steps 1 and 2 of R36 are done, or the image of a restore is loaded; refusal cause of what step 1 found malformed, 0 for none (R45) -/
  loaded : Bool
  badWord : Nat
  /-- the image's header and words as they were loaded (R330) -/
  info : ImageInfo := {}
  savesetBase : Dword
  saveset : List Piece
  lease : Lease
  baseCode : Nat
  curCode : Nat
  tStart : Nat
  /-- oldest-iteration counter of each part (R295) -/
  oi : SMap (BitVec 16)
  /-- gate request: the tick G and the acknowledgements still missing (R355) -/
  gateTick : Option Nat
  /-- fabric time of pre-emption; whether a restore is due (R321, R359) -/
  preempted : Nat
  due : Bool
  bypass : Nat
  blocking : Bool
  /-- the region left its tiles and came back on others (R141) -/
  moved : Bool
  /-- frames of the context image, taken from the partition's frame pool, and 1 plus the hash of each block of the image
  written there last, by block number (R318, R358) -/
  imageFrames : List Nat
  imageHashes : SMap Nat
  /-- pre-emption asked for by system software or by the scheduler and not yet carried out (R354) -/
  leaving : Bool
  deriving DecidableEq, Repr

/-- Token kinds (R257). -/
inductive TokKind where
  | data | eos | eoc
  deriving DecidableEq, Repr

/-- A token (R257); its slot is that of the buffer that holds it (R33). -/
structure Token where
  data : Word
  kind : TokKind
  v : Bool
  p : Bool
  iter : BitVec 16
  deriving DecidableEq, Repr

/-- An entry of a port's scoreboard (R239). -/
inductive SbEntry where
  /-- command of a binding context: count left, captured base, and the accesses of its thread that were outstanding at
  its issue, which go first (R129, R244) -/
  | cmd (ag : BitVec 3) (left : Nat) (base : Dword) (after : List Nat)
  /-- drain marker with its drain's number (R246) -/
  | drain (id : Nat)
  /-- end-of-context marker (R249) -/
  | eoc
  deriving DecidableEq, Repr

/-- A binding context of an address generator (R230). -/
structure AgCtx where
  bound : Bool := false
  port : BitVec 5 := 0
  prog : BitVec 5 := 0
  tag : Option (BitVec 6) := none
  /-- visits performed in the nest; i0 to i4 follow from it (R233) -/
  n : Nat := 0
  done : Nat := 0
  chunk : Nat := 0
  base : Dword := 0
  stopped : Bool := true
  /-- a sink binding has received EOS (R245) -/
  idle : Bool := false
  /-- write combiner: sector and bytes (R106, R233) -/
  combSector : Option Nat := none
  combBytes : SMap (Option Byte) := []
  combPoison : Bool := false
  /-- bytes of a partial filter-table unit at a source, and whether one of them is poisoned (R234, R236) -/
  partialBytes : List Byte := []
  partialPoison : Bool := false
  /-- visits of that unit, with the base of the command that asked for them -/
  taken : List (Nat × Dword) := []
  fault : Bool := false
  /-- a remote read is outstanding -/
  waiting : Bool := false
  /-- visits behind the write that is on the fabric (R234) -/
  sent : Nat := 0
  /-- tokens of the next element that were used before a gather fault (R277) -/
  skip : Nat := 0
  deriving DecidableEq, Repr

/-- A port of a slot: the tokens between its stream and the datapath (R238), and the distributor or other source that
it feeds (R258, R294, R298). An EOS in a source port's buffer carries its drain's number plus 1 as DATA. -/
structure Port where
  buf : List Token := []
  /-- tokens of the wave in progress, the next wave's ITER, and lanes that have the marker at the head -/
  sent : Nat := 0
  iter : BitVec 16 := 0
  marked : Nat := 0
  /-- started, and no EOS sent since; it has numbered a wave before -/
  active : Bool := false
  begun : Bool := false
  deriving DecidableEq, Repr

/-- A lane (R14, R259, R260, R265). -/
structure Lane where
  l0 : Word := 0
  l1 : Word := 0
  l2 : Word := 0
  l3 : Word := 0
  /-- hidden P bits of l0 to l3, bit n for register n -/
  pbits : BitVec 4 := 0
  fresh : Bool := true
  ptr : Bool := false
  deriving DecidableEq, Repr

/-- A switch box, corner box or router port (R271, R272). -/
structure Box where
  /-- tokens left of the block that a control token governs, the control token's value and V -/
  left : Nat := 0
  sel : Bool := false
  selV : Bool := true
  /-- carry: LOOP rather than INIT -/
  looping : Bool := false
  /-- inv: the held token -/
  hold : Option Token := none
  /-- seq: count; `left` then holds the tokens passed in the block -/
  count : Nat := 0
  /-- pair: which paths have passed EOC (R300) -/
  eocPath : BitVec 2 := 0
  deriving DecidableEq, Repr

/-- Run state of an arc, the array, or the router and corner boxes (R241). -/
structure Engine where
  running : Bool := false
  idx : BitVec 3 := 0
  /-- SR_SEED captured by the latest tctl.start (R80) -/
  key : Dword := 0
  deriving DecidableEq, Repr

/-- A full panel of a latch (R97, R274): side part and elements as they came, and how many elements came where EOS has cut
it short (R277). -/
structure Panel where
  bytes : List Byte
  p : Bool
  came : Option Nat := none
  deriving DecidableEq, Repr

/-- An operand latch (R97, R277). -/
structure Latch where
  fill : List Byte := []
  fillP : Bool := false
  /-- full panels in order; nothing stands for an EOS between them -/
  full : List (Option Panel) := []
  /-- EOS that a firing has passed and that the array has not yet answered (R282) -/
  eos : Nat := 0
  deriving DecidableEq, Repr

/-- State of one accumulator (R273). -/
structure AccState where
  held : Bool := false
  p : Bool := false
  /-- groups that fed it before their tags were checked: endpoint and number (R134, R283) -/
  fed : List (Nat × Nat) := []
  deriving DecidableEq, Repr

/-- An armed order (R284). -/
structure Arming where
  idx : BitVec 3
  /-- firings left; nothing when the count is 0, until EOS -/
  left : Option Nat
  fired : Nat
  tag : Option (BitVec 6)
  outputs : Nat
  /-- the order has ended and waits for its outputs to be accepted -/
  ended : Bool
  deriving DecidableEq, Repr

/-- An integrity group in a queue (R252). -/
structure Group where
  seq : Nat
  bytes : List Byte
  /-- poison mark, or failed tag (R134, R279) -/
  poison : Bool
  /-- data bytes, 4,096 but for a last group -/
  len : Nat
  /-- at the ingress: the array has taken it before its tag is checked (R134) -/
  taken : Bool := false
  /-- bits that the route has damaged, of its body and number (R396) -/
  damage : Nat := 0
  /-- number of its first flit in its lane group, for the tag (R396); within a device, its own number -/
  first : Nat := 0
  deriving DecidableEq, Repr

/-- Who takes the head slot of an ingress: each slot goes whole to whichever takes it first (R277). -/
inductive SlotTaker where
  | none | port | lanes
  deriving DecidableEq, Repr

/-- A link-queue endpoint (R250 to R253). In its FIFOs nothing stands for an EOS. -/
structure Queue where
  bound : Bool := false
  ingress : Bool := false
  dm1 : BitVec 4 := 0
  base : BitVec 7 := 0
  xf : BitVec 4 := 0
  sat : Bool := false
  /-- far end: thread key of the slot and endpoint -/
  peerKey : Nat := 0
  peerQ : BitVec 3 := 0
  /-- egress: bytes of the group being packed, and its poison -/
  fill : List Byte := []
  fillP : Bool := false
  /-- egress: groups packed and not yet sent, then groups sent and awaiting their tag check -/
  packed : List (Option Group) := []
  awaiting : List Group := []
  /-- ingress: groups received whole whose tag is not yet checked, and EOS behind them; full slots, oldest first -/
  arriving : List (Option Group) := []
  slots : List (Option Group) := []
  /-- ingress: bytes taken of the head slot and who takes it; EOS passed to the array and not yet answered -/
  taken : Nat := 0
  taker : SlotTaker := .none
  arrayEos : Nat := 0
  /-- fields of lq.stat (R253): EOS, REPLAY, LASTBYTES, GROUPS; data bytes of the latest group packed -/
  eos : Bool := false
  replay : Bool := false
  lastBytes : Nat := 0
  groups : Nat := 0
  lastLen : Nat := 0
  /-- number of the next group, and failures of the group at the head in a row (R352) -/
  seq : Nat := 0
  fails : Nat := 0
  /-- ingress: the array took the group that failed, so that its replayed copy is discarded (R283) -/
  discard : Bool := false
  /-- ingress: the oldest group has failed its tag, and a port has too few free replay-table entries for it (R352) -/
  held : Bool := false
  deriving DecidableEq, Repr

/-- A drain in progress (R246): markers whose EOS has not been accepted. -/
structure Drain where
  id : Nat
  tag : BitVec 6
  left : Nat
  whole : Bool
  deriving DecidableEq, Repr

/-- The datapath of one slot of one tile. -/
structure Slot where
  /-- configuration words (R158), keyed kind*2^16 + unit*64 + index with the kinds of R247; 0: not loaded -/
  words : SMap Word := []
  scoreboard : SMap (List SbEntry) := []
  ports : SMap Port := []
  ags : SMap AgCtx := []
  /-- token buffers of lane and box edges, and of die-to-die bridges (R289), keyed class*512 + unit -/
  edges : SMap (List Token) := []
  lanes : SMap Lane := []
  boxes : SMap Box := []
  /-- engines 8 to 12 and 14 by esel (R153) -/
  engines : SMap Engine := []
  latchA : Latch := {}
  latchB : Latch := {}
  /-- west gather: window offsets delivered on gx and not yet read, rows read into the panel (R277) -/
  gather : List Word := []
  /-- accumulator elements, keyed acc*4096 + 64*m + n (R273) -/
  acc : SMap Word := []
  accState : SMap AccState := []
  arms : List Arming := []
  /-- output stage: tokens formed and not yet accepted, by output code (R279) -/
  outs : SMap (List Token) := []
  /-- outputs that the array has sent the EOS in progress to (R282) -/
  arrayEosSent : BitVec 16 := 0
  queues : SMap Queue := []
  /-- byte carry of ecfq by block group 2*arc + g, and whether it comes from a poisoned block (R266) -/
  carry : SMap (List Byte) := []
  carryP : SMap Bool := []
  drains : List Drain := []
  nextDrain : Nat := 0
  /-- pending wavefront switch: tag and units not yet switched (R249) -/
  eocTag : Option (BitVec 6) := none
  eocLeft : List Nat := []
  /-- lane whose turn it is at each consumer of E-out edges: arcs 0 to 3, egress q as 8 + q (R258) -/
  takeNext : SMap Nat := []
  deriving DecidableEq, Repr

/-- Names an access of a thread wherever it travels: thread key, CTX_ID, and the thread's access identifier. -/
structure AccId where
  key : Nat
  ctx : Dword
  id : Nat
  deriving DecidableEq, Repr

/-- A saddle invocation on its way or waiting at its unit (R113, R221). -/
structure Invocation where
  target : Nat
  unitKey : Nat
  entry : Nat
  who : AccId
  dst : Reg
  tag : BitVec 6
  arg0 : Dword
  arg1 : Dword
  deriving DecidableEq, Repr

/-- A result token of a saddle unit (R114, R222). -/
structure InvResult where
  who : AccId
  dst : Reg
  tag : BitVec 6
  value : Dword
  status : Nat
  flags : Dword
  /-- the sector that it was performed on -/
  target : Nat
  deriving DecidableEq, Repr

/-- Data or old value on its way back to a register (R209, R356). -/
structure Reply where
  who : AccId
  dst : Reg
  value : Dword
  poisoned : Bool
  flags : Dword
  /-- the device that it comes from, and the address that it is about (R394, R397) -/
  src : Nat
  fa : Nat
  deriving DecidableEq, Repr

/-- An operation that completed for a context, applied to its thread whether resident or saved (R360). -/
structure Update where
  key : Nat
  ctx : Dword
  /-- flags to OR into FLAGS, and illegal 2:4 groups to add to BADSPARSE -/
  flags : Dword := 0
  badSparse : Nat := 0
  /-- a completion to subtract from a tag's count -/
  tag : Option (BitVec 6) := none
  /-- register results, each taken only while the register still waits for access `id` -/
  id : Nat := 0
  regs : List (Reg × Dword) := []
  /-- the access has performed -/
  performed : Bool := false
  deriving DecidableEq, Repr

/-- What one part of a graph holds on a device, or is to hold (R31): slot, rectangle, shares with their units on
each tile and in each quad, base code, and must-save charge. -/
structure Holding where
  part : Nat
  dev : Nat
  slot : Nat
  ox : Nat
  oy : Nat
  w : Nat
  h : Nat
  spad : Nat
  vault : Nat
  spadUnits : SMap (List Nat)
  vaultUnits : SMap (List Nat)
  code : Nat
  ms : Nat
  deriving DecidableEq, Repr

/-- A remote scheduler's answer to a reservation (R327). -/
inductive Answer where
  | waiting
  | placed (h : Holding)
  | refused
  deriving DecidableEq, Repr

/-- A bid (R322): a queue head, or a restore that is due of region `rid`; its arrival, bypass count and whether it
blocks (R323). -/
structure Bid where
  launch : LaunchRec
  rid : Option Nat
  time : Nat
  bypass : Nat
  blocking : Bool
  deriving DecidableEq, Repr

/-- A reservation of tiles for a part of a graph that is not wholly on the device that holds its bid (R327): the bid
by its launch number, the device of the part, the part, the slot, and the answer; whether it has reached that device, and
the answer has come back. -/
structure Reservation where
  bid : Bid
  dev : Nat
  part : Nat
  slot : Nat
  answer : Answer
  asked : Bool
  back : Bool
  deriving DecidableEq, Repr

/-- Messages between schedulers (R327, R329, R355), whose format is internal to the device (R397). -/
inductive SchedMsg where
  /-- the words of a region are written on the sender's dies -/
  | configured (rid : Nat)
  /-- a reservation is asked for, or answered -/
  | reserve (v : Reservation)
  | reserved (v : Reservation)
  /-- a gate request for tick G, and its acknowledgement -/
  | gate (rid tick : Nat)
  | gateAck (rid tick : Nat)
  deriving DecidableEq, Repr

/-- A data flit of a bound lane group (R396, R399): the binding by the slots and endpoints of its two ends, the group whose
bytes it carries, or nothing where it brings EOS, its index there among `count` flits, XF of the binding, its 512 bytes, and
the end-to-end tag but for the number of the group's first flit. -/
structure BoundFlit where
  key : Nat
  q : Nat
  ctx : Dword
  peer : Nat
  peerQ : Nat
  item : Option Group
  index : Nat
  count : Nat
  xf : Nat
  body : List Byte
  deriving DecidableEq, Repr

/-- Flits on the fabric (R397, R398). -/
inductive Flit where
  /-- a load, with the bytes that its thread's own combining buffer forwards (R135) -/
  | loadReq (who : AccId) (dst : Reg) (fa size : Nat) (fwd : List (Option Byte))
  | loadReply (r : Reply)
  | atomicReq (who : AccId) (dst : Reg) (fa size : Nat) (op : AmoOp) (a b : Dword)
  | atomicReply (r : Reply)
  | invocation (i : Invocation)
  | invResult (v : InvResult)
  /-- a pooled store has been performed: the flags it raised, its device, address and sectors -/
  | storeAck (who : AccId) (flags : Dword) (src fa count : Nat)
  /-- pooled read for a stream: visit number, first address, bytes wanted, XF of the stream (R400) -/
  | pooledReadReq (key : Nat) (ctx : Dword) (ag : BitVec 3) (visit fa size xf : Nat)
  /-- half of a launch record from a bridge (R405) -/
  | launch (second : Bool) (r : LaunchRec) (src : Nat)
  /-- a scheduler message -/
  | sched (m : SchedMsg) (src dst : Nat)
  /-- masked bytes of up to seven consecutive sectors, written as stores or as fills, or from a poisoned panel; whether
  it is sent again after a failed tag -/
  | pooledStore (who : AccId) (sector : Nat) (bytes : List (SMap (Option Byte))) (fill poison again : Bool)
  | pooledReply (key : Nat) (ctx : Dword) (ag : BitVec 3) (visit : Nat) (bytes : List Byte) (poison : Bool)
    (src fa : Nat) (group : Dword) (xf : Nat)
  /-- a flit of a link queue's lane group -/
  | bound (b : BoundFlit)
  deriving DecidableEq, Repr

/-- A flit on its way: the device that it has reached and the die that it entered by, the lane group of that device that
it has been sent on and that keeps it for replay (8 * port + group) with its number there, its dateline class, the
die-ring bridges that it has crossed (R394, R395, R402), and the partition that asks, where one does (R316). -/
structure Flight where
  flit : Flit
  dev : Nat
  die : Nat
  sent : Option (Nat × Nat)
  cls : Nat
  bridges : Nat
  part : Option Nat
  deriving DecidableEq, Repr

/-- A pooled data route from one device to another on VC 3 or 4 (R134, R396): number of the group in progress, the data
flits of it that have arrived with the states of their sectors before, and failures of the group in a row. -/
structure PooledRoute where
  seq : Nat := 0
  flits : List (Flit × List SectorState) := []
  fails : Nat := 0
  damage : Nat := 0
  /-- its tag has failed, and a port has too few free replay-table entries for it (R352) -/
  held : Bool := false
  deriving DecidableEq, Repr

/-- Policy record (R328). -/
structure Policy where
  bypassMax : Nat := 16
  xpen : Nat := 32
  wearW : Nat := 1
  preemptMin : Nat := 7
  preemptEn : Bool := false
  msq : Nat := 0
  admits : Nat := 0
  bypasses : Nat := 0
  doneLost : Nat := 0
  lostCtx : Dword := 0
  deriving DecidableEq, Repr

/-- Power record (R385). -/
structure Power where
  base : Nat := 36
  boostEn : Bool := false
  thot : Nat := 95
  pace : Nat := 8
  deriving DecidableEq, Repr

/-- Wear record of a quad (R391). -/
structure Wear where
  eolh : BitVec 32 := 0
  wear : BitVec 8 := 0
  temp : BitVec 8 := 0
  deriving DecidableEq, Repr

/-- A frequency-trace entry (R388). -/
structure TraceEntry where
  time : Nat
  code : Nat
  tile : Nat
  spine : Nat
  why : Nat
  idx : Nat
  deriving DecidableEq, Repr

/-- Lane-group states (R410, R402). -/
inductive LinkState where
  | down | equalise | ident | up
  deriving DecidableEq, Repr

/-- A lane group of a fabric port (R399, R402, R410). -/
structure LaneGroup where
  state : LinkState := .down
  /-- consecutive replays of one flit (R402) -/
  replays : Nat := 0
  /-- sequence number of the oldest flit that the far end has not accepted, source of the latest data flit taken, and
  the error that the line is to do to the next frame -/
  seq : Nat := 0
  lastSrc : Nat := 0
  damage : Nat := 0
  /-- egress endpoint whose binding the group carries, as 8*key + q (R399) -/
  binding : Option Nat := none
  deriving DecidableEq, Repr

/-- Saddle-unit entry: its words; the empty list is an entry not loaded (R112). -/
abbrev SaddleEntry := List Word

/-- A partition (R316, R335). -/
structure Partition where
  /-- quad keys; HBM ranges as first 2 MiB granule and number of granules; devices; bridges whose windows it holds -/
  quads : List Nat := []
  hbm : List (Nat × Nat) := []
  devices : List Nat := []
  bridges : List Nat := []
  ptRoot : Dword := 0
  fpool : Dword := 0
  /-- admitted, at boot step 7 of a device (R407): devices where launches are accepted -/
  admitted : List Nat := []
  deriving DecidableEq, Repr

/-- Life of a module (R371, R406, R407). -/
inductive ModuleState where
  /-- in the boot sequence, before step 7 is complete -/
  | booting (step : Nat)
  | up
  /-- hold-up mode after a power-fail trap; whether the close record is written -/
  | holdUp (closed : Bool)
  | dead
  | recovery
  deriving DecidableEq, Repr

/-- A cinch in progress (R378): epoch, time of the PF trap, slot table in use, whether the previous epoch can be kept
from (R379) and its table; pieces and CRC of the intent list; the block of each slot by its fabric address, or nothing
where it is absent; slot entries made so far, slots written and kept. -/
structure Cinch where
  epoch : Nat
  tPf : Nat
  tbl : Nat
  keep : Bool
  npiece : Nat
  crcI : Nat
  blocks : List (Option Nat)
  entries : List (List Byte)
  nwrite : Nat
  nkeep : Nat
  /-- the reserve has been found at the commit floor (R383) -/
  low : Bool := false
  deriving DecidableEq, Repr

/-- What Tack reports of a port (R402, R410). -/
inductive LinkReport where
  | down
  /-- the partner that the far end stated, as 12 * DEV + port -/
  | wrongPartner (partner : Nat)
  deriving DecidableEq, Repr

/-- A device's own state: scheduler, controllers, ports. -/
structure Device where
  module : ModuleState := .booting 1
  /-- the bridge strap as Tree has read it at boot step 3 (R21, R407): the PCIe endpoint is active -/
  bridge : Bool := false
  /-- launch queues keyed part*8 + PRIO (R320) -/
  queues : SMap (List LaunchRec) := []
  policy : SMap Policy := []
  power : SMap Power := []
  /-- the power records as written, in force from the next interval (R385) -/
  powerWritten : SMap Power := []
  /-- energy weights ENW0 to ENW15 and STW at 16, as differences from reset: key listed = changed (R364) -/
  weights : SMap (Option Nat) := []
  weightsNext : SMap (Option Nat) := []
  /-- wear records keyed die*64 + quad, traces keyed alike (R391, R388) -/
  wear : SMap Wear := []
  trace : SMap (List TraceEntry) := []
  traceNext : SMap Nat := []
  /-- spine codes keyed die*8 + spine, and the spine each tile selects, plus 1, or 0 (R384) -/
  spines : SMap Nat := []
  tileSpine : SMap Nat := []
  /-- selections that take effect at the next interval boundary (R384), coded alike -/
  spineNext : SMap Nat := []
  /-- 56 less the caps of the latest interval, keyed 2*die (thermal) and 2*die + 1 (current) (R386) -/
  capLoss : SMap Nat := []
  /-- slot-return delay of a quad's router ports (R293, R389), keyed die*64 + quad -/
  delay : SMap Nat := []
  /-- HBM temperature codes by stack (R390) -/
  hbmTemp : SMap (BitVec 3) := []
  /-- the codes whose settings are in force: those read before the interval began -/
  hbmSet : SMap (BitVec 3) := []
  /-- fabric lane groups keyed port*8 + group; ports that are down (R402) -/
  groups : SMap LaneGroup := []
  portDown : SMap Bool := []
  portErrors : SMap Nat := []
  /-- fabric time since which no lane group of a port has been up, plus 1 (R402) -/
  portSince : SMap Nat := []
  /-- Tack's latest report of each port (R402, R410) -/
  linkReports : SMap (Option LinkReport) := []
  /-- filter tables of the ports: XF and SAT keyed (2 * port + direction) * 16 + VC, direction 0 out and 1 in (R400) -/
  filters : SMap Nat := []
  /-- those of the mesh-router ports, keyed ((tile * 4 + port) * 2 + direction) * 16 + VC (R400) -/
  routerFilters : SMap Nat := []
  /-- latest interval boundary plus 1, or 0; boosted time of the module by boundary, in microseconds (R386) -/
  interval : Nat := 0
  boosted : List (Nat × Nat) := []
  /-- counter of the save store (R377), and the cinch in progress -/
  storeSeq : Nat := 1
  cinch : Option Cinch := none
  /-- the boot under way follows a warm reset (R406); STATUS of the restore report (R381) -/
  warm : Bool := false
  report : Nat := 0
  /-- management sets of the partition blocks (R312) -/
  mgmt : SMap PrivSet := []
  fenceV : Nat := 0
  launchDiscards : Nat := 0
  /-- recovery: the check of R408 that the image of slot B failed, as the endpoint's AER header log gives it; 0 for none.
  DESIGN CHOICE (notes/assumptions/72.md) -/
  rejected : Nat := 0
  msqForced : Bool := false
  deriving DecidableEq, Repr

/-- A completion record that cannot be written yet (R43, R47): held back by a DRY fault on DONE, with which its region is
freed at once, or by a page, a memory or a write on its way. -/
structure PendingDone where
  rid : Nat
  launch : LaunchRec
  bytes : List Byte
  /-- devices where MS_MAX stays charged until the record is written (R326) -/
  devs : List Nat
  /-- the context's admission number and must-save set, which a cinch meanwhile still saves (R383) -/
  admission : Nat
  saveset : List Piece
  /-- CTX_ID of the launch, 0 where none was assigned (R328) -/
  ctx : Dword
  dry : Bool := false
  deriving DecidableEq, Repr

/-- A cached leaf translation (R339). -/
structure TlbEntry where
  part : Nat
  /-- tile key of an L1 entry, or die key (dev*4 + die) of an L2 entry -/
  owner : Nat
  level : Nat
  vpage : Nat
  frame : Nat
  perms : BitVec 4
  /-- HBM sector of the leaf descriptor -/
  sector : Nat
  deriving DecidableEq, Repr

/-- A table descriptor cached at a quad's walker (R339). -/
structure WalkEntry where
  part : Nat
  quad : Nat
  /-- fabric address of the descriptor, and its value -/
  da : Nat
  desc : Dword
  deriving DecidableEq, Repr

/-- A lazy page that a walker has begun to resolve (R341): partition, quad of the walker, address and value of the
descriptor, its level, and the frame taken. -/
structure LazyWalk where
  part : Nat
  quad : Nat
  da : Nat
  desc : Nat
  level : Nat
  frame : Nat
  deriving DecidableEq, Repr

/-- A walk that its quad's walker begins later, since eight are under way (R339): what asks, and the lazy descriptor that it
comes to. -/
structure WalkRequest where
  part : Nat
  tile : Nat
  va : Nat
  super : Bool
  kind : WalkKind
  da : Nat
  deriving DecidableEq, Repr

/-- A load of a block that an instruction reads, by its thread and context, whose address lies on another device: the value
once it has come, and whether it is poisoned (R248, R254, R395). -/
structure BlockLoad where
  key : Nat
  ctx : Dword
  fa : Nat
  value : Option (Dword × Bool) := none
  deriving DecidableEq, Repr

/-- A replay-table entry of a memory port (R352): of a link-queue group, or with `who` of a pooled store. -/
structure ReplayEntry where
  sector : Nat
  before : SectorState
  key : Nat
  q : BitVec 3
  seq : Nat
  who : Option AccId := none
  fails : Nat := 0
  deriving DecidableEq, Repr

/-- A staged configuration set (R249). -/
structure Staging where
  slot : Nat
  block : List Word
  switching : Bool
  deriving DecidableEq, Repr

/-- A switched-out graph's image (R318): its threads and slots by position key, and the bytes and sector states of
its shares. DESIGN CHOICE (notes/assumptions/29.md). -/
structure Image where
  rid : Nat
  threads : SMap (Option Thread)
  slots : SMap (Option Slot)
  bytes : SMap Byte
  sectors : SMap SectorState
  staged : SMap (Option Staging)
  /-- saddle entries of the slots, keyed 4 * position + e -/
  saddles : SMap SaddleEntry
  /-- results that were held for registers, with their position key in place of a thread key (R163, R356) -/
  replies : List Reply
  deriving DecidableEq, Repr

/-- A group of a partition (R54): its GSIZE, the regions admitted into it, and how many have ended. -/
structure GroupRec where
  gsize : Nat := 0
  admitted : List Nat := []
  ended : Nat := 0
  deriving DecidableEq, Repr

/-- Configuration residency tag of a tile's slot (R330), with the position whose words the slot holds and what was kept of
the image. -/
structure Residency where
  part : Nat
  image : Dword
  rx : Nat
  ry : Nat
  info : ImageInfo
  deriving DecidableEq, Repr

/-- What the host read (R404). DESIGN CHOICE (notes/assumptions/80.md). -/
inductive HostAnswer where
  | data (bytes : List Byte)
  | unsupported
  | none
  deriving DecidableEq, Repr

/-- Whose turn it is. Plain data: no order of the agents is built in. DESIGN CHOICE (notes/assumptions/2.md). -/
inductive Turn where
  /-- an event of the opcode table happens -/
  | event (i : Instr)
  /-- a thread becomes the one that issues next -/
  | issue (key : Nat)
  /-- fabric time passes, in ns -/
  | tick (ns : Nat)
  /-- from here on, replies of on-device accesses wait in the reply edge buffer (R209), or arrive at once -/
  | defer (on : Bool)
  /-- a management core reads 8 bytes of device control space (R310, R312); from offset 2^39 on it is Tack that reads -/
  | controlRead (dev off : Nat)
  /-- a read of a sector meets an uncorrectable soft error (R103). DESIGN CHOICE (notes/assumptions/87.md). -/
  | softError (sec : Nat)
  /-- from here on, accesses that their thread does not wait for stay in ag0 until their turn, or perform at once -/
  | hold (on : Bool)
  /-- the line damages the next frame of a lane group that reaches a port, by a pattern of bits (R396, R402) -/
  | noise (dev port group mask : Nat)
  /-- the route damages the oldest group on its way into an ingress, or of a pooled route into device key - 2^32 -/
  | groupNoise (key q mask : Nat)
  /-- an access that ag0 keeps performs, if what it is ordered after has performed (R122, R123) -/
  | access (key id : Nat)
  /-- from here on, a walk that comes to a lazy page only begins its resolution, or resolves it at once; and a walker ends
  one (R341) -/
  | slowWalks (on : Bool)
  | lazyEnd (da : Nat)
  /-- a management core (Tack) or the security core reads or writes 8 bytes at a fabric address (R310, R317) -/
  | coreRead (dev : Nat) (tack : Bool) (fa : Nat)
  | coreWrite (dev : Nat) (tack : Bool) (fa : Nat) (v : Dword)
  deriving DecidableEq, Repr

/-- The machine: every device of the domain, the fabric, and who acts next. DESIGN CHOICE (notes/assumptions/1.md). -/
structure State where
  /-- fabric time in ns (R3) -/
  now : Nat := 0
  /-- bytes of every memory, sector states and walk marks by sector key (R1, R102, R344) -/
  mem : SMap Byte := []
  sect : SMap SectorState := []
  marks : SMap WalkMark := []
  threads : SMap (Option Thread) := []
  slots : SMap (Option Slot) := []
  staging : SMap (Option Staging) := []
  regions : SMap (Option Region) := []
  images : SMap (Option Image) := []
  devices : SMap Device := []
  partitions : SMap Partition := []
  /-- TNEXT lists (R311, R349) by partition: names of threads in order (region identifier and position, so that a
  move keeps them), each with whether an S thread has selected it -/
  tnext : SMap (List (Nat × Bool)) := []
  /-- saddle entries keyed unit*16 + entry; vault and stack units keep separate entries per partition (R112, R315) -/
  saddles : SMap SaddleEntry := []
  residency : SMap (Option Residency) := []
  /-- groups keyed part*2^14 + GROUP (R54) -/
  groups : SMap GroupRec := []
  tlb : List TlbEntry := []
  walkCache : List WalkEntry := []
  /-- lazy pages that a walker is resolving (R341) -/
  walks : List LazyWalk := []
  /-- walks that wait for their quad's walker, in order of arrival (R339) -/
  walkQueue : List WalkRequest := []
  replays : List ReplayEntry := []
  parked : List (Nat × Nat) := []
  invocations : List Invocation := []
  results : List InvResult := []
  replies : List Reply := []
  /-- loads of blocks from other devices -/
  blockLoads : List BlockLoad := []
  updates : List Update := []
  flits : List Flight := []
  /-- pooled data routes, keyed 2 * (256 * source + target) + (VC - 3) -/
  pooled : SMap PooledRoute := []
  /-- launch records on their way into a queue (R254, R405) -/
  arrivals : List LaunchRec := []
  attestations : List LaunchRec := []
  doneRetry : List PendingDone := []
  /-- cross-device reservations and their answers (R327) -/
  reservations : List Reservation := []
  /-- answers to host reads, oldest first, and MSI-X vectors signalled, each with its bridge (R404) -/
  hostReads : List HostAnswer := []
  /-- answers to reads of control space by management cores, oldest first (R312) -/
  coreReads : List Dword := []
  /-- address faults given to cores: device, whether Tack, and fabric address (R310) -/
  coreFaults : List (Nat × Bool × Nat) := []
  /-- cables that do not lead where R393 says, keyed 12 * DEV + port: what the far end states, plus 1 (R410) -/
  cables : SMap Nat := []
  msix : List (Nat × Nat) := []
  nextRid : Nat := 1
  nextCtx : Nat := 1
  nextLaunch : Nat := 0
  nextAdmission : Nat := 0
  /-- the thread that issues, by thread key -/
  cur : Nat := 0
  /-- turns laid down from outside: inputs of the machine, and choices among its agents -/
  agenda : List Turn := []
  /-- with no turn laid down: the turn is an event's; turns of the pass under way that have not been tried -/
  idle : Bool := false
  turnsLeft : List Turn := []
  /-- free values drawn so far: each draw of Config.freeValue takes the next number -/
  freeDraws : Nat := 0
  /-- replies of on-device loads and atomics wait in the reply edge buffer rather than arriving at once (R209) -/
  deferReplies : Bool := false
  /-- accesses whose thread goes on stay in ag0 until their turn (R123, R209) -/
  holdAccesses : Bool := false
  /-- a resolution of a lazy page takes time: it begins with the access that reaches the page and ends with a turn of its
  own (R341) -/
  slowWalks : Bool := false
  deriving DecidableEq, Repr

/-- The domain right after power-on reset (R406, R407): every memory zero and empty, no partition admitted, no graph,
every module at boot step 1, every CSR and record at its reset value. DESIGN CHOICE (notes/assumptions/10.md). -/
def State.reset : State := {}

end Sys2Proof.Machine
end

