-- ==== Sys2Proof/Machine/Base.lean ====
section
/-!
DEFINITION. Reading and writing the pieces of State by name: places on the module, threads, slots, regions, devices,
bytes and sector states. Every other file goes through these.
-/

namespace Sys2Proof.Machine

/-! Places (R4, R11, R12). A thread key is (dev*896 + tile)*4 + slot. -/

def keyTile (key : Nat) : Nat := key / 4
def keySlot (key : Nat) : Nat := key % 4
def keyDev (key : Nat) : Nat := key / 4 / 896
def tileIndex (tile : Nat) : Nat := tile % 896
def tileDev (tile : Nat) : Nat := tile / 896
def tileDie (tile : Nat) : Nat := tile % 896 / 224
def tileX (tile : Nat) : Nat := tile % 896 % 224 % 16
def tileY (tile : Nat) : Nat := tile % 896 % 224 / 16
/-- Quad index within the die (R12). -/
def tileQuad (tile : Nat) : Nat := tileY tile / 2 * 8 + tileX tile / 2
/-- Quad key: dev*224 + die*56 + quad index. -/
def quadKey (tile : Nat) : Nat := tileDev tile * 224 + tileDie tile * 56 + tileQuad tile
/-- Die key: dev*4 + die. -/
def dieKey (tile : Nat) : Nat := tileDev tile * 4 + tileDie tile

/-- The tile key at plane column `px` and plane row `py` of a device (R31). -/
def planeTile (dev px py : Nat) : Nat :=
  dev * 896 + (py / 14 * 2 + px / 16) * 224 + py % 14 * 16 + px % 16

/-! Where memories lie in the one store of bytes. -/

def vaultAddr (quad off : Nat) : Nat := 2 ^ 60 + quad * 2 ^ 21 + off
def spadAddr (tile off : Nat) : Nat := 2 ^ 61 + tile * 2 ^ 19 + off
def storeAddr (dev off : Nat) : Nat := 2 ^ 62 + dev * 2 ^ 30 + off

/-- The sector key of an address: sectors hold 64 bytes (R102). -/
def sectorOf (a : Nat) : Nat := a / 64

/-! Accessors of the keyed parts of State. -/

def State.thread (s : State) (key : Nat) : Option Thread := SMap.get none s.threads key
def State.setThread (s : State) (key : Nat) (t : Thread) : State :=
  { s with threads := SMap.put none s.threads key (some t) }
def State.dropThread (s : State) (key : Nat) : State := { s with threads := SMap.put none s.threads key none }

def State.slot (s : State) (key : Nat) : Slot := (SMap.get none s.slots key).getD {}
def State.setSlot (s : State) (key : Nat) (x : Slot) : State :=
  { s with slots := SMap.put none s.slots key (some x) }
def State.dropSlot (s : State) (key : Nat) : State := { s with slots := SMap.put none s.slots key none }

def State.region (s : State) (rid : Nat) : Option Region := SMap.get none s.regions rid
def State.setRegion (s : State) (rid : Nat) (r : Region) : State :=
  { s with regions := SMap.put none s.regions rid (some r) }
def State.dropRegion (s : State) (rid : Nat) : State := { s with regions := SMap.put none s.regions rid none }

def State.device (s : State) (dev : Nat) : Device := SMap.get {} s.devices dev
def State.setDevice (s : State) (dev : Nat) (d : Device) : State :=
  { s with devices := SMap.put {} s.devices dev d }

def State.partition (s : State) (n : Nat) : Partition := SMap.get {} s.partitions n
def State.setPartition (s : State) (n : Nat) (p : Partition) : State :=
  { s with partitions := SMap.put {} s.partitions n p }

def Device.pol (d : Device) (part : Nat) : Policy := SMap.get {} d.policy part
def Device.setPol (d : Device) (part : Nat) (p : Policy) : Device := { d with policy := SMap.put {} d.policy part p }
def Device.pow (d : Device) (part : Nat) : Power := SMap.get {} d.power part
def Device.queue (d : Device) (part prio : Nat) : List LaunchRec := SMap.get [] d.queues (part * 8 + prio)
def Device.setQueue (d : Device) (part prio : Nat) (q : List LaunchRec) : Device :=
  { d with queues := SMap.put [] d.queues (part * 8 + prio) q }

/-- The device whose memory holds an address of the store of bytes. -/
def addrDev (a : Nat) : Nat :=
  if a < 2 ^ 60 then a / 2 ^ 48
  else if a < 2 ^ 61 then (a - 2 ^ 60) / 2 ^ 21 / 224
  else (a - 2 ^ 61) / 2 ^ 19 / 896

/-- The die beside an address: that of its HBM stack, vault or scratchpad (R11). -/
def addrDie (a : Nat) : Nat :=
  if a < 2 ^ 60 then a / 2 ^ 37 % 4
  else if a < 2 ^ 61 then (a - 2 ^ 60) / 2 ^ 21 % 224 / 56
  else (a - 2 ^ 61) / 2 ^ 19 % 896 / 224

/-- Source and destination of a flit, its virtual channel, and the address bit FA[12] that picks ports (R394, R395,
R397). -/
def Flit.src : Flit → Nat
  | .loadReq w _ _ _ _ | .atomicReq w _ _ _ _ _ _ | .pooledStore w _ _ _ _ _ => keyDev w.key
  | .invocation i => keyDev i.who.key
  | .pooledReadReq k _ _ _ _ _ _ => keyDev k
  | .loadReply r | .atomicReply r => r.src
  | .invResult v => addrDev v.target
  | .storeAck _ _ src _ _ | .launch _ _ src | .sched _ src _ | .pooledReply _ _ _ _ _ _ src _ _ _ => src
  | .bound b => keyDev b.key

def Flit.dst : Flit → Nat
  | .loadReq _ _ fa _ _ | .atomicReq _ _ fa _ _ _ _ | .pooledReadReq _ _ _ _ fa _ _ => addrDev fa
  | .invocation i => addrDev i.target
  | .pooledStore _ sec _ _ _ _ => addrDev (sec * 64)
  | .loadReply r | .atomicReply r => keyDev r.who.key
  | .invResult v => keyDev v.who.key
  | .storeAck w _ _ _ _ => keyDev w.key
  | .launch _ l _ => l.dev
  | .sched _ _ dst => dst
  | .pooledReply k _ _ _ _ _ _ _ _ _ => keyDev k
  | .bound b => keyDev b.peer

/-- The name of a binding on the fabric: its egress endpoint. -/
def bindingId (key q : Nat) : Nat := key * 8 + q

/-- The virtual channel; a bound flit's, 8 + n for lane group n, is its binding's alone on every hop, and has its name here. -/
def Flit.vc : Flit → Nat
  | .loadReq _ _ _ _ _ | .atomicReq _ _ _ _ _ _ _ | .invocation _ | .pooledReadReq _ _ _ _ _ _ _ => 0
  | .loadReply _ | .atomicReply _ | .invResult _ | .storeAck _ _ _ _ _ => 1
  | .launch _ _ _ | .sched _ _ _ => 2
  | .pooledStore _ _ _ _ _ _ => 3
  | .pooledReply _ _ _ _ _ _ _ _ _ _ => 4
  | .bound b => 8 + bindingId b.key b.q

def Flit.addr : Flit → Nat
  | .loadReq _ _ fa _ _ | .atomicReq _ _ fa _ _ _ _ | .pooledReadReq _ _ _ _ fa _ _ => fa
  | .invocation i => i.target
  | .loadReply r | .atomicReply r => r.fa
  | .invResult v => v.target
  | .storeAck _ _ _ fa _ => fa
  | .pooledStore _ sec _ _ _ _ => sec * 64
  | .pooledReply _ _ _ _ _ _ _ fa _ _ => fa
  | .launch _ _ _ | .sched _ _ _ | .bound _ => 0

/-- The die that a flit starts from: that of the issuing tile, or of the target that answers; a scheduler's on die 0. -/
def Flit.die (f : Flit) : Nat :=
  match f with
  | .loadReq w _ _ _ _ | .atomicReq w _ _ _ _ _ _ | .pooledStore w _ _ _ _ _ => tileDie (keyTile w.key)
  | .invocation i => tileDie (keyTile i.who.key)
  | .pooledReadReq k _ _ _ _ _ _ => tileDie (keyTile k)
  | .launch _ _ _ | .sched _ _ _ => 0
  | .bound b => tileDie (keyTile b.key)
  | g => addrDie g.addr

/-- Sectors that a pooled store writes. -/
def Flit.sectors (f : Flit) : List Nat :=
  match f with
  | .pooledStore _ sec bs _ _ _ => (List.range bs.length).map fun j => sec + j
  | _ => []

/-- Sectors that a flit writes. -/
def Flit.written (f : Flit) : List Nat :=
  match f with
  | .atomicReq _ _ fa _ _ _ _ => [sectorOf fa]
  | g => g.sectors

/-- The thread that a flit acts for, where it asks something of a memory. -/
def Flit.asker : Flit → Option Nat
  | .loadReq w _ _ _ _ | .atomicReq w _ _ _ _ _ _ | .pooledStore w _ _ _ _ _ => some w.key
  | .invocation i => some i.who.key
  | .pooledReadReq k _ _ _ _ _ _ => some k
  | _ => none

/-- The slot that a data flit is charged to, by thread key and context (R363). -/
def Flit.payer : Flit → Option (Nat × Dword)
  | .pooledStore w _ _ _ _ _ => some (w.key, w.ctx)
  | .pooledReply k c _ _ _ _ _ _ _ _ => some (k, c)
  | .bound b => some (b.key, b.ctx)
  | _ => none

/-- A flit as it enters the fabric. -/
def Flight.of (f : Flit) (part : Option Nat) : Flight := ⟨f, f.src, f.die, none, 0, 0, part⟩

/-- Whether a region acts: its threads are released, and it has not come to the tick at which its dies gate it (R36, R355). -/
def Region.acts (r : Region) (now : Nat) : Bool :=
  r.state = .resident && match r.gateTick with
    | some g => r.acks != [] || now < g
    | none => true

/-- The partition of a thread key. -/
def State.partOf (s : State) (key : Nat) : Option Nat :=
  match s.thread key with
  | some t => (s.region t.rid).map fun r => r.launch.part
  | none => none

/-- A flit enters the fabric. -/
def State.send (s : State) (f : Flit) : State :=
  { s with flits := s.flits ++ [.of f (f.asker.bind s.partOf)] }

/-! Bytes (R1: little-endian everywhere). -/

def State.byte (s : State) (a : Nat) : Byte := SMap.get 0 s.mem a
def State.setByte (s : State) (a : Nat) (b : Byte) : State := { s with mem := SMap.put 0 s.mem a b }

/-- `n` bytes from address `a` upward. -/
def State.bytes (s : State) (a : Nat) : Nat → List Byte
  | 0 => []
  | n + 1 => s.byte a :: State.bytes s (a + 1) n

/-- Memory with a list of bytes written from address `a` upward. -/
def memWrite (m : SMap Byte) (a : Nat) : List Byte → SMap Byte
  | [] => m
  | b :: r => memWrite (SMap.put 0 m a b) (a + 1) r

def State.writeBytes (s : State) (a : Nat) (bs : List Byte) : State := { s with mem := memWrite s.mem a bs }

/-- The number that little-endian bytes hold. -/
def leNat : List Byte → Nat
  | [] => 0
  | b :: r => b.toNat + 256 * leNat r

/-- The `n` little-endian bytes of a number. -/
def leBytes (v : Nat) : Nat → List Byte
  | 0 => []
  | n + 1 => BitVec.ofNat 8 v :: leBytes (v / 256) n

def State.readNat (s : State) (a n : Nat) : Nat := leNat (s.bytes a n)

/-- A field of `n` bytes at offset `o` of a list of bytes. -/
def field (bs : List Byte) (o n : Nat) : Nat := leNat ((bs.drop o).take n)

/-- Bits [hi:lo] of a number. -/
def bitsOf (v hi lo : Nat) : Nat := v / 2 ^ lo % 2 ^ (hi + 1 - lo)

/-- Bit `n` of a number. -/
def bitOf (v n : Nat) : Bool := v / 2 ^ n % 2 = 1

/-- Zero in every byte of [lo, lo + n). -/
def State.zeroRange (s : State) (lo n : Nat) : State :=
  { s with mem := s.mem.filter (fun c => c.1 < lo || lo + n ≤ c.1) }

/-! Sector states (R102 to R105). -/

def State.sector (s : State) (k : Nat) : SectorState := SMap.get .empty s.sect k
/-- Writes a sector's state. A change frees the replay-table entries that record the sector (R352). -/
def State.setSector (s : State) (k : Nat) (v : SectorState) : State :=
  { s with sect := SMap.put .empty s.sect k v
           replays := if s.sector k = v then s.replays else s.replays.filter fun e => e.sector != k }

/-- Zero bytes and empty sectors in [lo, lo + n), both multiples of 64: the scrub of R34 and R103. -/
def State.scrub (s : State) (lo n : Nat) : State :=
  { s.zeroRange lo n with
    sect := s.sect.filter (fun c => c.1 < lo / 64 || (lo + n) / 64 ≤ c.1)
    replays := s.replays.filter fun e => e.sector < lo / 64 || (lo + n) / 64 ≤ e.sector }

def State.mark (s : State) (k : Nat) : WalkMark := SMap.get .clear s.marks k
def State.setMark (s : State) (k : Nat) (v : WalkMark) : State := { s with marks := SMap.put .clear s.marks k v }

/-! Owners (R316). -/

/-- Whether the partition owns HBM bytes [lo, lo + n) (R316): inside one of its ranges, or every 2 MiB granule in one. -/
def Partition.ownsHbm (p : Partition) (lo n : Nat) : Bool :=
  (p.hbm.any fun c => c.1 * 2 ^ 21 ≤ lo && lo + n ≤ (c.1 + c.2) * 2 ^ 21) ||
  ((List.range ((lo + n - 1) / 2 ^ 21 - lo / 2 ^ 21 + 1)).all fun i =>
    p.hbm.any fun c => c.1 ≤ lo / 2 ^ 21 + i && lo / 2 ^ 21 + i < c.1 + c.2)

/-- A fence violation is recorded for Tree (R310, R316, R411). -/
def State.fenceViolation (s : State) (dev : Nat) : State :=
  s.setDevice dev { s.device dev with fenceV := min ((s.device dev).fenceV + 1) 0xFFFFFFFF }

/-! Registers (R147): g0 reads 0 and p0 reads true, writes to them are discarded. -/

def Thread.readG (t : Thread) (r : Reg) : Dword := if r = 0 then 0 else SMap.get 0 t.g r.toNat

/-- A register write. A later write takes precedence over the late result of an outstanding access (R222). -/
def Thread.writeG (t : Thread) (r : Reg) (v : Dword) : Thread :=
  if r = 0 then t
  else { t with g := SMap.put 0 t.g r.toNat v, pending := t.pending.filter (fun c => c.1 != r.toNat) }

def Thread.readP (t : Thread) (p : BitVec 3) : Bool := if p = 0 then true else SMap.get false t.p p.toNat
def Thread.writeP (t : Thread) (p : BitVec 3) (v : Bool) : Thread :=
  if p = 0 then t else { t with p := SMap.put false t.p p.toNat v }

/-- The value of a guard (R149), and of a predicate operand with its inversion. -/
def Thread.guardOn (t : Thread) (g : Guard) : Bool := t.readP g.p ^^ decide (g.neg = 1)
def Thread.predOn (t : Thread) (p : BitVec 3) (neg : BitVec 1) : Bool := t.readP p ^^ decide (neg = 1)

/-- Token sets (R121); k0 has empty sets and is never changed. -/
def Thread.token (t : Thread) (k : BitVec 4) : TokSet := if k = 0 then {} else SMap.get {} t.tok k.toNat
def Thread.setToken (t : Thread) (k : BitVec 4) (x : TokSet) : Thread :=
  if k = 0 then t else { t with tok := SMap.put {} t.tok k.toNat x }

end Sys2Proof.Machine
end

