-- ==== Sys2Proof/Machine/Micro.lean ====
section
/-!
DEFINITION. Micro-order words (R157 to R159, R231, R250, R259, R261, R267 to R270, R275, R276): their fields, the
tables that hold them, and the checks that a load makes.
-/

namespace Sys2Proof.Machine

/-- Bits [hi:lo] of a word. -/
def wbits (w : Word) (hi lo : Nat) : Nat := bitsOf w.toNat hi lo
/-- Bit n of a word. -/
def wbit (w : Word) (n : Nat) : Bool := w.getLsbD n

/-! Tables (R158, R247). Kinds: 0 generator, 1 lane, 2 lane box, 3 corner box, 4 router port, 5 array, 6 queue. -/

def kindCapacity (kind : Nat) : Nat :=
  if kind = 0 then 32 else if kind = 1 then 2 else if kind = 5 then 8 else if kind = 6 then 2 else 1

def kindUnits (kind : Nat) : Nat :=
  if kind = 0 then 8 else if kind = 1 then 256 else if kind = 2 then 256 else if kind = 3 then 4
  else if kind = 4 then 4 else if kind = 5 then 1 else 8

/-- The word that a table position holds while nothing has loaded it (R267, R271, R275). -/
def unloadedWord (kind : Nat) : Word :=
  if kind = 1 then 0x20000000#32 else if kind = 2 then 0x40000000#32 else if kind = 3 then 0x40000000#32
  else if kind = 4 then 0x40000000#32 else if kind = 5 then 0x60000000#32 else 0#32

def wordKey (kind unit idx : Nat) : Nat := kind * 2 ^ 16 + unit * 64 + idx

/-- The word of a table position. -/
def tableWord (m : SMap Word) (kind unit idx : Nat) : Word :=
  let w := SMap.get 0 m (wordKey kind unit idx)
  if w = 0 then unloadedWord kind else w

def Slot.word (x : Slot) (kind unit idx : Nat) : Word := tableWord x.words kind unit idx

/-! Class 0: generators (R231). -/

/-- The check on a generator word. SAT of a HEAD whose XF takes no saturation is accepted at any value.
DESIGN CHOICE (notes/assumptions/100.md). -/
def agWordOk (w : Word) : Bool :=
  let op := wbits w 28 26
  wbits w 31 29 = 0 &&
  (if op = 1 then
    wbits w 25 23 ≤ 4 && wbits w 22 20 ≤ 4 && wbits w 17 15 ≤ 6 && wbits w 9 0 = 0 &&
      !([7, 14, 15].contains (wbits w 14 11))
  else if op = 2 ∨ op = 3 then wbits w 25 23 ≤ 4 && !wbit w 22
  else false)

/-- A program of a generator (R232): HEAD fields, then trip counts and strides, innermost first. -/
structure Nest where
  mode : Nat
  scope : Nat
  width : Nat
  xf : Nat
  sat : Bool
  counts : List Nat
  strides : List Int
  deriving DecidableEq, Repr

/-- Iterations of a nest. -/
def Nest.total (n : Nest) : Nat := n.counts.foldl (fun a b => a * b) 1

/-- The loop counters of visit `v`, innermost first. -/
def nestCounters (v : Nat) : List Nat → List Nat
  | [] => []
  | c :: r => v % c :: nestCounters (v / c) r

/-- The address of a visit (R233). -/
def Nest.ea (n : Nest) (base : Dword) (v : Nat) : Dword :=
  let s := ((nestCounters v n.counts).zip n.strides).foldl (fun (a : Int) c => a + (c.1 : Int) * c.2) 0
  base + BitVec.ofInt 64 ((n.width : Int) * s)

/-- LEVEL and STRIDE pairs from level j on, at table index p. -/
def nestLevels (m : SMap Word) (ag p j : Nat) : Nat → Option (List Nat × List Int)
  | 0 => some ([], [])
  | k + 1 =>
    let lv := tableWord m 0 ag p
    let sr := tableWord m 0 ag (p + 1)
    if wbits lv 28 26 = 2 ∧ wbits lv 25 23 = j ∧ wbits sr 28 26 = 3 ∧ wbits sr 25 23 = j ∧ lv ≠ 0 ∧ sr ≠ 0 then
      match nestLevels m ag (p + 2) (j + 1) k with
      | some r => some ((wbits lv 21 0 + 1) :: r.1, (sr.extractLsb' 0 22).toInt :: r.2)
      | none => none
    else none

/-- Bytes that the nest's total must fill in whole units of a filter table (R236). -/
def xfUnit (xf : Nat) : Nat := if 1 ≤ xf ∧ xf ≤ 6 then 50 else 64

/-- The program at index p of a generator's table, if it has the shape of R232 and obeys R236. -/
def nestAt (m : SMap Word) (ag p : Nat) : Option Nest :=
  let h := tableWord m 0 ag p
  let l := wbits h 25 23 + 1
  if wbits h 28 26 = 1 ∧ p + 2 * l ≤ 31 then
    match nestLevels m ag (p + 1) 0 l with
    | some r =>
      let n : Nest := ⟨wbits h 22 20, wbits h 19 18, 2 ^ wbits h 17 15, wbits h 14 11, wbit h 10, r.1, r.2⟩
      if n.xf = 0 ∨ (n.mode ≤ 2 ∧ n.width = 64 ∧ n.total % xfUnit n.xf = 0) then some n else none
    | none => none
  else none

/-! Class 1: lanes (R259, R261, R267). -/

/-- Lane operations (R261). -/
inductive LaneOp where
  | idle | iadd | isub | imul | and | or | xor | shl | shr | sra | imin | imax | ieq | ilt
  | fadd | fsub | fmul | fma | fmin | fmax | frcp | frsq | fexp | relu | lrelu | sigm | silu | gelu | tanh | fclamp
  | cvt | dcv | i2f | f2i | ldexp | radd | rmax | rmin | riadd
  | gsum | gmax | mxq | tbq | ecfq | gpack | mov | konst
  deriving DecidableEq, Repr

/-- The operation of an OP code. -/
def LaneOp.of (n : Nat) : Option LaneOp :=
  match n with
  | 0x00 => some .idle | 0x01 => some .iadd | 0x02 => some .isub | 0x03 => some .imul | 0x04 => some .and
  | 0x05 => some .or | 0x06 => some .xor | 0x07 => some .shl | 0x08 => some .shr | 0x09 => some .sra
  | 0x0A => some .imin | 0x0B => some .imax | 0x0C => some .ieq | 0x0D => some .ilt
  | 0x10 => some .fadd | 0x11 => some .fsub | 0x12 => some .fmul | 0x13 => some .fma | 0x14 => some .fmin
  | 0x15 => some .fmax | 0x16 => some .frcp | 0x17 => some .frsq | 0x18 => some .fexp | 0x19 => some .relu
  | 0x1A => some .lrelu | 0x1B => some .sigm | 0x1C => some .silu | 0x1D => some .gelu | 0x1E => some .tanh
  | 0x1F => some .fclamp | 0x20 => some .cvt | 0x21 => some .dcv | 0x22 => some .i2f | 0x23 => some .f2i
  | 0x24 => some .ldexp | 0x28 => some .radd | 0x29 => some .rmax | 0x2A => some .rmin | 0x2B => some .riadd
  | 0x30 => some .gsum | 0x31 => some .gmax | 0x32 => some .mxq | 0x33 => some .tbq | 0x34 => some .ecfq
  | 0x35 => some .gpack | 0x38 => some .mov | 0x3F => some .konst
  | _ => none

/-- Operations with an operand b. -/
def LaneOp.usesB : LaneOp → Bool
  | .iadd | .isub | .imul | .and | .or | .xor | .shl | .shr | .sra | .imin | .imax | .ieq | .ilt
  | .fadd | .fsub | .fmul | .fma | .fmin | .fmax | .lrelu | .fclamp | .ldexp => true
  | _ => false

/-- Operations that round by RND. -/
def LaneOp.usesRnd : LaneOp → Bool
  | .fadd | .fsub | .fmul | .fma | .frcp | .frsq | .fexp | .lrelu | .sigm | .silu | .gelu | .tanh | .cvt | .i2f | .f2i
  | .ldexp | .radd | .gsum | .mxq | .tbq => true
  | _ => false

/-- Operations that saturate by SAT. -/
def LaneOp.usesSat : LaneOp → Bool
  | .cvt | .gsum | .mxq | .tbq => true
  | _ => false

/-- FMT codes that an operation takes; others take only 0. -/
def LaneOp.fmtOk (o : LaneOp) (f : Nat) : Bool :=
  match o with
  | .cvt | .dcv => 1 ≤ f && f ≤ 0x0B
  | .mxq => 0x0C ≤ f && f ≤ 0x11
  | .tbq => f = 0x12 || f = 0x13
  | .ecfq => f = 0x14
  | .gpack => f ≤ 0x0B
  | _ => f = 0

def LaneOp.isGroup : LaneOp → Bool
  | .gsum | .gmax | .mxq | .tbq | .ecfq | .gpack => true
  | _ => false

/-- Register operations (R265). -/
def LaneOp.isRegister : LaneOp → Bool
  | .radd | .rmax | .rmin | .riadd => true
  | _ => false

/-- Integer operations, which read a KONST word as a signed integer (R267). -/
def LaneOp.isInt : LaneOp → Bool
  | .iadd | .isub | .imul | .and | .or | .xor | .shl | .shr | .sra | .imin | .imax | .ieq | .ilt | .riadd => true
  | _ => false

/-- A lane word taken apart (R259). -/
structure LaneWord where
  op : LaneOp
  sa : Nat
  sb : Nat
  ld : Nat
  wl : Bool
  wz : Bool
  fmt : Nat
  rnd : Nat
  sat : Bool
  nxt : Nat
  aux : Nat
  deriving DecidableEq, Repr

def laneWord (w : Word) : Option LaneWord :=
  if wbits w 31 29 = 1 then
    (LaneOp.of (wbits w 28 23)).map fun o =>
      ⟨o, wbits w 22 20, wbits w 19 17, wbits w 16 15, wbit w 14, wbit w 13, wbits w 12 8, wbits w 7 5, wbit w 4,
        wbits w 3 2, wbits w 1 0⟩
  else none

def isKonst (w : Word) : Bool := wbits w 31 29 = 1 && wbits w 28 23 = 0x3F

/-- The checks of R261 and R267 on one word, beside the table's other word. -/
def laneWordOk (w other : Word) : Bool :=
  match laneWord w with
  | none => false
  | some f =>
    if f.op = .konst then true
    else if f.op = .idle then w = 0x20000000#32
    else
      f.nxt ≠ 3 && (f.op.usesB || f.sb = 3) && f.op.fmtOk f.fmt && f.rnd ≤ 5 && (f.op.usesRnd || f.rnd = 0) &&
      (f.op.usesSat || !f.sat) && (f.wl || f.ld = 0) &&
      (!f.op.isGroup || (!f.wl && f.wz && f.sa = 0)) &&
      (!(f.op = .fma || f.op.isRegister) || f.wl) &&
      (f.aux = 0 || f.op = .tbq || (f.rnd = 5 && !f.op.isGroup)) &&
      (!(f.sa = 2 || f.sb = 2) || isKonst other) &&
      (f.nxt = 0 || !isKonst other)

def isGroupWord (w : Word) : Bool :=
  match laneWord w with
  | some f => f.op.isGroup
  | none => false

/-- The 32 lanes of a block group hold the same word at an index, or none of them a group operation (R267). -/
def groupWordsAgree (m : SMap Word) (lane idx : Nat) : Bool :=
  let ws := (List.range 32).map fun j => tableWord m 1 (lane / 32 * 32 + j) idx
  !ws.any isGroupWord || ws.all fun w => w = tableWord m 1 lane idx

/-- A word of a saddle subgraph (R268). -/
def saddleWordOk (w : Word) : Bool :=
  let op := wbits w 28 23
  wbits w 31 29 = 1 && (LaneOp.of op).isSome &&
  ((1 ≤ op && op ≤ 0x15) || (0x28 ≤ op && op ≤ 0x2B) || op = 0x38 || op = 0x3F) &&
  (op = 0x3F || (wbits w 7 5 ≤ 4 && !wbit w 12))

/-! Class 2: boxes (R269 to R271). -/

/-- Box operations (R271). -/
inductive BoxOp where
  | idle | route | pair | steer | omerge | carry | inv | filter | seq
  deriving DecidableEq, Repr

def BoxOp.of (n : Nat) : Option BoxOp :=
  match n with
  | 0 => some .idle | 1 => some .route | 2 => some .pair | 3 => some .steer | 4 => some .omerge | 5 => some .carry
  | 6 => some .inv | 7 => some .filter | 8 => some .seq
  | _ => none

/-- A box word taken apart (R269). -/
structure BoxWord where
  op : BoxOp
  ia : Nat
  ib : Nat
  out0 : Nat
  out1 : Nat
  blk : Nat
  qm : Bool
  bit : Nat
  ctl : Nat
  m : Nat
  deriving DecidableEq, Repr

def boxWord (w : Word) : Option BoxWord :=
  if wbits w 31 29 = 2 then
    (BoxOp.of (wbits w 28 25)).map fun o =>
      ⟨o, wbits w 24 23, wbits w 22 21, wbits w 20 16, wbits w 15 11, wbits w 10 8, wbit w 7, wbits w 6 2, wbits w 1 0,
        wbits w 3 0⟩
  else none

def BoxOp.usesIB : BoxOp → Bool
  | .pair | .steer | .omerge | .carry | .inv | .filter => true
  | _ => false
def BoxOp.usesOut1 : BoxOp → Bool
  | .pair | .steer | .seq => true
  | _ => false
def BoxOp.usesBlk : BoxOp → Bool
  | .steer | .omerge | .filter | .seq => true
  | _ => false
def BoxOp.usesBit : BoxOp → Bool
  | .steer | .omerge | .carry | .inv | .filter => true
  | _ => false
def BoxOp.usesCtl : BoxOp → Bool
  | .omerge | .carry => true
  | _ => false

/-- Inputs that a box word uses, as codes of IA. -/
def BoxWord.inputs (f : BoxWord) : List Nat :=
  match f.op with
  | .idle => []
  | o => [f.ia] ++ (if o.usesIB then [f.ib] else []) ++ (if o.usesCtl then [f.ctl] else [])

/-- The mask of outputs that a box word uses. -/
def BoxWord.outputs (f : BoxWord) : Nat := f.out0 ||| f.out1

/-- The checks of R269 to R271 on one word of a box: kind 2, 3 or 4 and its instance. -/
def boxWordOk (kind unit : Nat) (w : Word) : Bool :=
  match boxWord w with
  | none => false
  | some f =>
    if f.op = .idle then w = 0x40000000#32
    else
      (f.op.usesIB || f.ib = 0) && (f.op.usesOut1 || f.out1 = 0) && (f.op.usesBlk || f.blk = 0) && f.blk ≤ 6 &&
      (if f.op = .seq then wbits w 6 4 = 0 && f.m ≠ 0
       else (f.op.usesBit || f.bit = 0) && (f.op.usesCtl || f.ctl = 0)) &&
      f.inputs.dedup.length = f.inputs.length && f.out0 &&& f.out1 = 0 &&
      (!f.qm || (kind = 2 && 192 ≤ unit)) &&
      (kind ≠ 3 || (!f.inputs.contains 2 && f.outputs % 4 = 0)) &&
      (kind ≠ 4 || ((f.op = .route || f.op = .pair) && f.inputs.all (fun i => i = 0 || i = 3) &&
        f.outputs &&& 0b01011 = 0))

/-! Class 3: the array (R72 to R74, R274 to R276, R281). -/

/-- Width of the stored element of a format (R57). -/
def fmtBits (f : Nat) : Nat :=
  if f = 0 ∨ f = 0x15 then 32 else if f = 1 ∨ f = 2 ∨ f = 0x17 then 16
  else if [5, 6, 0x0E, 0x0F, 0x13].contains f then 6 else if [7, 0x0A, 0x0B, 0x10].contains f then 4 else 8

/-- K positions of a panel (R274). -/
def kPanel (f : Nat) : Nat :=
  if f = 1 ∨ f = 2 then 32 else if f = 0x15 then 16 else if [7, 0x0A, 0x0B, 0x10, 0x16].contains f then 128 else 64

/-- Bytes of a panel's side part (R274). -/
def sideBytes (f : Nat) : Nat :=
  if f = 0x10 then 256 else if 0x0C ≤ f ∧ f ≤ 0x11 then 128 else if f = 0x12 ∨ f = 0x13 then 160
  else if f = 0x14 then 256 else if f = 0x16 then 1024 else if f = 0x17 then 512 else 0

/-- Element bytes of a panel, as held: an ECF8 panel is decoded to 4,096 E4M3 bytes as it is assembled (R97). -/
def elementBytes (f : Nat) : Nat := if fmtBits f = 6 then 3072 else 4096

/-- Formats with a 4,096-byte panel and no side part (R281). -/
def plainPanel (f : Nat) : Bool := [1, 2, 3, 4, 7, 8, 9, 0x0A, 0x0B, 0x15].contains f

/-- Families of R72. -/
inductive Family where
  | h | c | f8 | i8 | f6 | f4 | i4
  deriving DecidableEq, Repr

def familyOf (f : Nat) : Option Family :=
  if [1, 2, 0x17].contains f then some .h else if f = 0x15 then some .c
  else if [3, 4, 0x0C, 0x0D, 0x12, 0x14, 0x16].contains f then some .f8
  else if [8, 9, 0x11].contains f then some .i8
  else if [5, 6, 0x0E, 0x0F, 0x13].contains f then some .f6
  else if f = 7 ∨ f = 0x10 then some .f4
  else if f = 0x0A ∨ f = 0x0B then some .i4
  else none

/-- Families that a family pairs with (R72). -/
def Family.pairs : Family → List Family
  | .h => [.h]
  | .c => [.c]
  | .f8 => [.f8, .i8]
  | .i8 => [.f8, .i8, .i4]
  | .f6 => [.f6, .f4]
  | .f4 => [.f6, .f4]
  | .i4 => [.i4, .i8]

/-- R73: whether an array may be configured with formats a and b and accumulation mode m. -/
def formatsOk (a b m : Nat) : Bool :=
  match familyOf a, familyOf b with
  | some x, some y =>
    x.pairs.contains y && b ≠ 0x16 && b ≠ 0x17 && m ≠ 3 &&
      (m = 0 || (0x08 ≤ a && a ≤ 0x0B && 0x08 ≤ b && b ≤ 0x0B))
  | _, _ => false

/-- ACFG taken apart (R275). -/
structure ArrayCfg where
  afmt : Nat
  bfmt : Nat
  accm : Nat
  ofmt : Nat
  ornd : Nat
  osat : Bool
  deriving DecidableEq, Repr

def arrayCfg (w : Word) : ArrayCfg :=
  ⟨wbits w 25 21, wbits w 20 16, wbits w 15 14, wbits w 13 9, wbits w 8 6, wbit w 5⟩

/-- Array orders (R276). -/
inductive OrderOp where
  | mma | mlt | mst
  deriving DecidableEq, Repr

/-- An order taken apart (R276). -/
structure Order where
  op : OrderOp
  asrc : Nat
  bsrc : Nat
  acc : Nat
  clr : Bool
  fin : Bool
  out : Nat
  each : Bool
  bhold : Bool
  koff : Nat
  wid : Nat
  deriving DecidableEq, Repr

def arrayOrder (w : Word) : Option Order :=
  let mk (o : OrderOp) : Order :=
    ⟨o, wbits w 25 22, wbits w 21 18, wbits w 17 16, wbit w 15, wbit w 14, wbits w 13 10, wbits w 9 8 = 1, wbit w 7,
      wbits w 9 4, wbits w 9 8⟩
  if wbits w 31 29 = 3 then
    if wbits w 28 26 = 4 then some (mk .mma) else if wbits w 28 26 = 5 then some (mk .mlt)
    else if wbits w 28 26 = 6 then some (mk .mst) else none
  else none

def isAsr (w : Word) : Bool := wbits w 31 29 = 3 && wbits w 28 26 = 2
def isAcfg (w : Word) : Bool := wbits w 31 29 = 3 && wbits w 28 26 = 1

/-- VALUE of the ASR word with a SEL, 0 when the table has none (R275). -/
def Slot.asr (x : Slot) (sel : Nat) : Nat :=
  match ((List.range 7).map fun i => x.word 5 0 (i + 1)).find? fun w => isAsr w && wbits w 25 25 = sel with
  | some w => wbits w 15 0
  | none => 0

/-- The orders of an array table, with their indices. -/
def Slot.orders (x : Slot) : List (Nat × Order) :=
  (List.range 7).filterMap fun i => (arrayOrder (x.word 5 0 (i + 1))).map fun o => (i + 1, o)

/-- Code 0b1nnn names queue endpoint nnn. -/
def isQueueCode (c : Nat) : Bool := 8 ≤ c

/-- Whether endpoint q is bound in the direction. -/
def boundAs (qs : SMap Queue) (q : Nat) (ingress : Bool) : Bool :=
  (SMap.get {} qs q).bound && (SMap.get {} qs q).ingress == ingress

/-- The checks of R275, R276 and R281 on an order of a table with configuration c. -/
def orderOk (c : ArrayCfg) (qs : SMap Queue) (w : Word) (o : Order) : Bool :=
  let srcOk (s f : Nat) : Bool := s = 0 || (8 ≤ s && plainPanel f && boundAs qs (s - 8) true)
  (match o.op with
  | .mma =>
    (srcOk o.asrc c.afmt || (o.asrc = 1 && plainPanel c.afmt)) && srcOk o.bsrc c.bfmt && wbits w 9 8 ≤ 1 &&
      wbits w 6 0 = 0
  | .mlt =>
    (srcOk o.asrc c.afmt || (o.asrc = 1 && plainPanel c.afmt)) && o.bsrc = 0 && o.out = 0 && wbits w 3 0 = 0 &&
      [8, 16, 32].contains (fmtBits c.afmt) && sideBytes c.afmt = 0 && o.koff % kPanel c.afmt = 0 &&
      o.koff + kPanel c.afmt ≤ 64
  | .mst =>
    o.asrc = 0 && o.bsrc = 0 && !o.clr && !o.fin && wbits w 7 0 = 0 && (o.wid ≠ 0 || c.accm = 0 || c.ofmt = 0)) &&
  (o.out ≤ 1 || (8 ≤ o.out && boundAs qs (o.out - 8) false))

/-- The check on index i of an array table (R281). ORND and OSAT of an ACFG with raw OFMT are accepted at any value.
DESIGN CHOICE (notes/assumptions/100.md). -/
def arrayWordOk (m : SMap Word) (qs : SMap Queue) (i : Nat) : Bool :=
  let w := tableWord m 5 0 i
  let c := arrayCfg (tableWord m 5 0 0)
  if i = 0 then
    isAcfg w && wbits w 4 0 = 0 && formatsOk c.afmt c.bfmt c.accm && c.ofmt ≤ 2 && (c.accm = 0 || c.ofmt = 0) && c.ornd ≤ 5
  else if w = 0x60000000#32 then true
  else if isAsr w then
    wbits w 24 16 = 0 &&
      !(List.range i).any fun j => isAsr (tableWord m 5 0 j) && wbits (tableWord m 5 0 j) 25 25 = wbits w 25 25
  else
    match arrayOrder w with
    | some o => orderOk c qs w o
    | none => false

/-! Class 4: queue endpoints (R250). -/

def isQcfg (w : Word) : Bool := wbits w 31 29 = 4 && wbits w 28 27 = 1
def isQxf (w : Word) : Bool := wbits w 31 29 = 4 && wbits w 28 27 = 2

/-- The check on index i of a queue endpoint's table. SAT of a QXF whose XF takes no saturation is accepted at any value.
DESIGN CHOICE (notes/assumptions/100.md). -/
def queueWordOk (m : SMap Word) (q i : Nat) : Bool :=
  let w := tableWord m 6 q i
  if i = 0 then
    isQcfg w && wbits w 14 0 = 0 && (if wbit w 26 then wbits w 25 22 ≠ 0 else wbits w 25 22 = 1)
  else
    w = 0 ||
      (isQxf w && wbits w 21 0 = 0 && [0, 8, 9, 0xA, 0xB, 0xC, 0xD].contains (wbits w 26 23) &&
        !wbit (tableWord m 6 q 0) 26)

/-! A whole table. -/

/-- The check on one position of a table that a load leaves as `m` (R159). -/
def wordOk (m : SMap Word) (qs : SMap Queue) (kind unit idx : Nat) : Bool :=
  let w := tableWord m kind unit idx
  if kind = 0 then w = 0 || agWordOk w
  else if kind = 1 then laneWordOk w (tableWord m 1 unit (1 - idx)) && groupWordsAgree m unit idx
  else if kind ≤ 4 then boxWordOk kind unit w
  else if kind = 5 then arrayWordOk m qs idx
  else queueWordOk m unit idx

/-- The first malformed position of an instance's table. -/
def firstBad (m : SMap Word) (qs : SMap Queue) (kind unit : Nat) : Option Nat :=
  (List.range (kindCapacity kind)).find? fun i => !wordOk m qs kind unit i

/-! Configuration blocks (R247). -/

/-- The records of a block, from the word after word 0; nothing where the list ends early. -/
def cfgRecords : Nat → List Word → Option (List CfgRecord)
  | 0, _ => some []
  | _ + 1, [] => none
  | n + 1, d :: ws =>
    let c := wbits d 19 12 + 1
    let l := wbits d 11 6
    if ws.length < c * l then none
    else
      match cfgRecords n (ws.drop (c * l)) with
      | some r => some (⟨wbits d 31 28, wbits d 27 20, c, l, wbits d 5 0 = 0, ws.take (c * l)⟩ :: r)
      | none => none

/-- The instances that a record fills. -/
def CfgRecord.units (r : CfgRecord) : List Nat := (List.range r.count).map fun i => r.first + i

/-- Word j of the record's i-th instance. -/
def CfgRecord.wordAt (r : CfgRecord) (i j : Nat) : Word := r.words.getD (i * r.len + j) 0

/-- The tables with a record's words written. -/
def CfgRecord.write (m : SMap Word) (r : CfgRecord) : SMap Word :=
  (List.range r.count).foldl (fun a i =>
    (List.range r.len).foldl (fun b j => SMap.put 0 b (wordKey r.kind (r.first + i) j) (r.wordAt i j)) a) m

/-- Whether a record's descriptor is one that no load accepts (R248). -/
def CfgRecord.badHead (r : CfgRecord) (kinds : List Nat) : Bool :=
  !kinds.contains r.kind || r.len = 0 || kindCapacity r.kind < r.len || kindUnits r.kind < r.first + r.count || !r.zero

/-- The first offending position of a record, in load order, by its kind, instance and index: its descriptor, an
instance that an earlier record has named, a zero word, which stands for no engine's word, or a word that the checks of
its table refuse in the tables `m` as they would stand (R159). -/
def CfgRecord.bad (r : CfgRecord) (m : SMap Word) (qs : SMap Queue) (kinds : List Nat) (seen : List (Nat × Nat)) :
    Option (Nat × Nat × Nat) :=
  if r.badHead kinds then some (r.kind % 8, r.first % 256, 0)
  else
    match r.units.find? fun u => seen.contains (r.kind, u) with
    | some u => some (r.kind, u, 0)
    | none =>
      match (List.range (r.count * r.len)).find? fun n =>
          r.words.getD n 0 = 0 || !wordOk m qs r.kind (r.first + n / r.len) (n % r.len) with
      | some n => some (r.kind, r.first + n / r.len, n % r.len)
      | none =>
        r.units.findSome? fun u => (firstBad m qs r.kind u).map fun i => (r.kind, u, i)

/-- The first offending position of a block's records. -/
def cfgFirstBad (m : SMap Word) (qs : SMap Queue) (kinds : List Nat) (seen : List (Nat × Nat)) :
    List CfgRecord → Option (Nat × Nat × Nat)
  | [] => none
  | r :: rest =>
    match r.bad m qs kinds seen with
    | some b => some b
    | none => cfgFirstBad m qs kinds (seen ++ r.units.map fun u => (r.kind, u)) rest

/-- Validates records against tables `m` (R159, R248): the tables as they will stand, or the offending word. -/
def cfgCheck (m : SMap Word) (qs : SMap Queue) (kinds : List Nat) (rs : List CfgRecord) :
    (SMap Word) ⊕ (Nat × Nat × Nat) :=
  let m1 := (rs.filter fun r => !r.badHead kinds).foldl (fun a r => r.write a) m
  match cfgFirstBad m1 qs kinds [] rs with
  | some b => .inr b
  | none => .inl m1

/-- TCAUSE.ARG of a malformed word (R350). -/
def malformedArg (b : Nat × Nat × Nat) : Nat := b.1 % 8 + b.2.1 % 256 * 8 + b.2.2 % 32 * 2048

end Sys2Proof.Machine
end

