-- ==== Sys2Proof/Machine/LaneAlu.lean ====
section
/-!
DEFINITION. What a lane operation computes (R261 to R263): integer and FP32 results, activations, conversions, and the
exponential by an enclosure between two fractions.
-/

namespace Sys2Proof.Machine

/-! Formats by code (R57). -/

/-- The floating-point format of a single-element code. -/
def fmtOf (code : Nat) : Option Fmt :=
  match code with
  | 0 => some fp32 | 1 => some bf16 | 2 => some fp16 | 3 => some e4m3 | 4 => some e5m2 | 5 => some e3m2
  | 6 => some e2m3 | 7 => some e2m1
  | _ => none

/-- The range of an integer format (R59). -/
def intRange (code : Nat) : Int × Int :=
  if code = 8 then (-128, 127) else if code = 9 then (0, 255) else if code = 0x0A then (-8, 7) else (0, 15)

/-- The integer that the low `w` bits hold in two's complement. -/
def signedOf (v w : Nat) : Int := if v % 2 ^ w < 2 ^ (w - 1) then (v % 2 ^ w : Nat) else ((v % 2 ^ w : Nat) : Int) - 2 ^ w

/-- The exact value of an element of code 0x00 to 0x0B or 0x15 (R58, R59). -/
def elementValue (code v : Nat) : XR :=
  match fmtOf code with
  | some f => f.value (v % 2 ^ fmtBits code)
  | none =>
    if code = 8 then .ofInt (signedOf v 8) else if code = 9 then .ofNat (v % 256)
    else if code = 0x0A then .ofInt (signedOf v 4) else if code = 0x0B then .ofNat (v % 16)
    else fp32.value (v % 2 ^ 32)

/-! The exponential (R262). -/

/-- Fractional bits of the enclosure. -/
def expBits : Nat := 512

/-- Partial sum of e^f for f = x / 2^expBits below 1, each term rounded down: `term` is the n-th term. -/
def expSum (x : Nat) : Nat → Nat → Nat → Nat → Nat
  | 0, _, _, acc => acc
  | k + 1, n, term, acc => expSum x k (n + 1) (term * x / 2 ^ expBits / (n + 1)) (acc + term)

/-- Bounds of e^f: the truncated terms lose less than 1,024 in the last place. -/
def expFrac (x : Nat) : Nat × Nat := let s := expSum x 130 0 (2 ^ expBits) 0; (s, s + 1024)

/-- Bounds multiplied `q` times by bounds of e. -/
def expPow : Nat → Nat × Nat → Nat × Nat
  | 0, b => b
  | q + 1, b =>
    let e := expFrac (2 ^ expBits)
    expPow q (b.1 * e.1 / 2 ^ expBits, b.2 * e.2 / 2 ^ expBits + 1)

/-- Bounds of e^a, in units of 2^-expBits, for a = ±num/den with num/den at most 256. -/
def expBounds (neg : Bool) (num den : Nat) : Nat × Nat :=
  let x := num * 2 ^ expBits / den
  let b := expPow (x / 2 ^ expBits) (expFrac (x % 2 ^ expBits))
  if neg then (2 ^ (2 * expBits) / b.2, 2 ^ (2 * expBits) / b.1 + 1) else b

/-- A number for each rounding mode and draw. -/
def Rmode.index : Rmode → Nat
  | .rne => 0
  | .rtz => 1
  | .rup => 2
  | .rdn => 3
  | .raz => 4
  | .sr d => 5 + d

/-- fexp (R262). Far from zero every mode rounds as at the value put in the place of e^a. -/
def expX (a : Nat) (mode : Rmode) : Nat × Dword :=
  match fp32.value a with
  | .nan s => (fp32.signed s nan32, 0)
  | .inf s => (if s then 0 else 0x7F800000, 0)
  | .fin neg num den =>
    if num = 0 then (0x3F800000, 0)
    else
      let r :=
        if 256 * den < num then
          roundFmt (if neg then .mk false 1 (2 ^ 300) else .mk false (2 ^ 300 + 1) (2 ^ 100)) fp32 mode false
        else
          let b := expBounds neg num den
          let lo := roundFmt (.mk false (2 * b.1 + 1) (2 ^ (expBits + 1))) fp32 mode false
          let hi := roundFmt (.mk false (2 * b.2 - 1) (2 ^ (expBits + 1))) fp32 mode false
          if lo = hi then lo
          else ((Config.expUndecided (BitVec.ofNat 32 a) mode.index).toNat, lo.2)
      (r.1, r.2 ||| flInexact)

/-! FP32 lane operations. -/

def faddL (a b : Nat) (m : Rmode) : Nat × Dword := addX (fp32.value a) (fp32.value b) m
/-- A subtraction adds the negated operand; a NaN keeps its own sign (R190). -/
def fsubL (a b : Nat) (m : Rmode) : Nat × Dword :=
  let y := fp32.value b
  addX (fp32.value a) (if y.isNan then y else y.neg) m
def fmulL (a b : Nat) (m : Rmode) : Nat × Dword := mulX (fp32.value a) (fp32.value b) m
def frcpL (a : Nat) (m : Rmode) : Nat × Dword := divX (.fin false 1 1) (fp32.value a) m

/-- frsq (R262). -/
def frsqL (a : Nat) (m : Rmode) : Nat × Dword :=
  match fp32.value a with
  | .nan s => (fp32.signed s nan32, 0)
  | .inf s => if s then (nan32, flInvalid) else (0, 0)
  | .fin s n d =>
    if n = 0 then (fp32.signed s 0x7F800000, 0)
    else if s then (nan32, flInvalid)
    else roundFmt (sqrtFrac d n) fp32 m false

/-- ldexp (R262). Beyond ±400 every finite operand rounds alike. The canonical NaN takes the sign of the NaN operand, as R190
has it. DESIGN CHOICE (notes/assumptions/114.md). -/
def ldexpL (a b : Nat) (m : Rmode) : Nat × Dword :=
  match fp32.value a with
  | .fin s n d =>
    if n = 0 then (fp32.signed s 0, 0)
    else roundFmt ((XR.fin s n d).scale (max (-400) (min 400 (signedOf b 32)))) fp32 m false
  | .nan s => (fp32.signed s nan32, 0)
  | .inf s => (fp32.signed s 0x7F800000, 0)

/-- Chains a step after an earlier one, keeping the flags of both. -/
def thenF (r : Nat × Dword) (f : Nat → Nat × Dword) : Nat × Dword := ((f r.1).1, r.2 ||| (f r.1).2)

/-- −a: the sign bit inverted. -/
def fnegL (a : Nat) : Nat := (a + 2 ^ 31) % 2 ^ 32

/-- sigm_f (R262). -/
def sigmL (a : Nat) (m : Rmode) : Nat × Dword :=
  thenF (expX (fnegL a) .rne) fun e => thenF (faddL 0x3F800000 e .rne) fun d => frcpL d m

/-- lane_act (R262). -/
def reluL (a : Nat) : Nat × Dword :=
  let x := fp32.value a
  (if x.isNan then nan32 else if XR.zero.lt x then a else 0, 0)
def lreluL (a b : Nat) (m : Rmode) : Nat × Dword :=
  let x := fp32.value a
  if x.isNan || !x.lt XR.zero then (a, 0) else fmulL a b m
def fclampL (a b : Nat) : Nat × Dword :=
  thenF (minmaxX true a (b % 2 ^ 31 + 2 ^ 31)) fun x => minmaxX false x (b % 2 ^ 31)
def siluL (a : Nat) (m : Rmode) : Nat × Dword := thenF (sigmL a .rne) fun x => fmulL a x m
def geluL (a : Nat) (m : Rmode) : Nat × Dword :=
  thenF (fmulL 0x3FD9DB23 a .rne) fun x => thenF (sigmL x .rne) fun y => fmulL a y m
def tanhL (a : Nat) (m : Rmode) : Nat × Dword :=
  thenF (fmulL 0x40000000 a .rne) fun x =>
    thenF (sigmL x .rne) fun y => thenF (fmulL 0x40000000 y .rne) fun z => fsubL z 0x3F800000 m

/-! Conversions (R263). -/

/-- A rounding to a single-element format: the code, zero-extended. -/
def roundTo (x : XR) (fmt : Nat) (m : Rmode) (sat : Bool) : Nat × Dword :=
  match fmtOf fmt with
  | some f => roundFmt x f m sat
  | none =>
    let r := roundInt x (intRange fmt).1 (intRange fmt).2 m
    ((r.1 % (2 ^ fmtBits fmt : Nat)).toNat, r.2)

/-- dcv: exact, a NaN becomes canonical NaN. -/
def dcvL (a fmt : Nat) : Nat :=
  let x := elementValue fmt a
  if x.isNan then nan32 else (roundFmt x fp32 .rne false).1

def i2fL (a : Nat) (m : Rmode) : Nat × Dword := roundFmt (.ofInt (signedOf a 32)) fp32 m false
def f2iL (a : Nat) (m : Rmode) : Nat × Dword :=
  let r := roundInt (fp32.value a) (-2 ^ 31) (2 ^ 31 - 1) m
  ((r.1 % (2 ^ 32 : Nat)).toNat, r.2)

/-- The result of a lane operation on operands a and b with the accumulator l[LD] (R261 to R263, R265), and its flags.
Group operations and words that never fire give zero. -/
def laneAlu (op : LaneOp) (a b acc : Word) (fmt : Nat) (m : Rmode) (sat : Bool) : Word × Dword :=
  let int (w : Word) : Word × Dword := (w, 0)
  let fp (r : Nat × Dword) : Word × Dword := (BitVec.ofNat 32 r.1, r.2)
  let x := a.toNat
  let y := b.toNat
  let bit (c : Bool) : Word := if c then 1 else 0
  match op with
  | .iadd => int (a + b)
  | .isub => int (a - b)
  | .imul => int (a * b)
  | .and => int (a &&& b)
  | .or => int (a ||| b)
  | .xor => int (a ^^^ b)
  | .shl => int (a <<< (y % 32))
  | .shr => int (a >>> (y % 32))
  | .sra => int (a.sshiftRight (y % 32))
  | .imin => int (if a.sle b then a else b)
  | .imax => int (if b.sle a then a else b)
  | .ieq => int (bit (a == b))
  | .ilt => int (bit (a.slt b))
  | .fadd => fp (faddL x y m)
  | .fsub => fp (fsubL x y m)
  | .fmul => fp (fmulL x y m)
  | .fma => fp (fmaX (fp32.value x) (fp32.value y) (fp32.value acc.toNat) m)
  | .fmin => fp (minmaxX false x y)
  | .fmax => fp (minmaxX true x y)
  | .frcp => fp (frcpL x m)
  | .frsq => fp (frsqL x m)
  | .fexp => fp (expX x m)
  | .relu => fp (reluL x)
  | .lrelu => fp (lreluL x y m)
  | .sigm => fp (sigmL x m)
  | .silu => fp (siluL x m)
  | .gelu => fp (geluL x m)
  | .tanh => fp (tanhL x m)
  | .fclamp => fp (fclampL x y)
  | .cvt => fp (roundTo (fp32.value x) fmt m sat)
  | .dcv => fp (dcvL x fmt, 0)
  | .i2f => fp (i2fL x m)
  | .f2i => fp (f2iL x m)
  | .ldexp => fp (ldexpL x y m)
  | .radd => fp (faddL acc.toNat x m)
  | .rmax => fp (minmaxX true acc.toNat x)
  | .rmin => fp (minmaxX false acc.toNat x)
  | .riadd => int (acc + a)
  | .mov => int a
  | .idle | .gsum | .gmax | .mxq | .tbq | .ecfq | .gpack | .konst => int 0

end Sys2Proof.Machine
end

