-- ==== Sys2Proof/Machine/Blocks.lean ====
section
/-!
DEFINITION. Blocks of elements: packing (R60), block formats and their quantisation (R62 to R67, R82, R83), the panels of
the array with their side parts and neutral padding (R70, R71, R274, R277), composites (R68, R69), and accumulation
(R86, R87).
-/

namespace Sys2Proof.Machine

/-! Packing (R60). -/

/-- The number that codes of `w` bits form, lowest first. -/
def packNat (w : Nat) : List Nat → Nat
  | [] => 0
  | c :: r => c % 2 ^ w + 2 ^ w * packNat w r

/-- Codes of `w` bits as 32-bit words. -/
def packWords (w : Nat) (cs : List Nat) : List Word :=
  let v := packNat w cs
  (List.range ((w * cs.length + 31) / 32)).map fun i => BitVec.ofNat 32 (v / 2 ^ (32 * i))

/-- `n` codes of `w` bits from bit `at_` of a number. -/
def unpackNat (v w at_ : Nat) : Nat → List Nat
  | 0 => []
  | n + 1 => v / 2 ^ at_ % 2 ^ w :: unpackNat v w (at_ + w) n

/-- The codes of `w` bits that bytes hold. -/
def unpackBytes (w : Nat) (bs : List Byte) : List Nat := unpackNat (leNat bs) w 0 (8 * bs.length / w)

/-! Quantising a block (R82, R83). -/

/-- emax of an element format of a block. -/
def blockEmax (ef : Nat) : Int := if ef = 3 then 8 else if ef = 4 then 15 else if ef = 5 then 4 else if ef = 8 then 0 else 2

/-- floor(log2 |x|) of a finite non-zero value. -/
def XR.log2 : XR → Int
  | .fin _ n d => floorLog2 n d
  | _ => 0

/-- mx_quantise (R82): scale, element codes, flags; element j rounds with the j-th mode. -/
def mxQuantise (xs : List Word) (ef : Nat) (modes : List Rmode) (sat : Bool) : Nat × List Nat × Dword :=
  let vs := xs.map fun x => fp32.value x.toNat
  let zeros := xs.map fun _ => 0
  if vs.any XR.isNan then (0xFF, zeros, flInvalid)
  else if vs.any XR.isInf && !sat then (0xFF, zeros, flInvalid)
  else
    let fl0 := flagIf (vs.any XR.isInf) flSaturated
    let ys := vs.map fun v => match v with
      | .inf s => fp32.value (fp32.signed s 0x7F7FFFFF)
      | y => y
    let lgs := (ys.filter fun y => !y.isZero).map XR.log2
    match lgs with
    | [] => (0, zeros, fl0)
    | l :: ls =>
      let se := max (ls.foldl max l - blockEmax ef) (-127)
      let rs := (ys.zip modes).map fun c =>
        let v := c.1.scale (-se)
        if ef = 8 then
          let r := roundInt (v.scale 6) (-128) 127 c.2
          ((r.1 % 256).toNat, r.2)
        else
          let r := roundTo v ef c.2 true
          (r.1, r.2 ||| flagIf (r.2 &&& flOverflow != 0) flInexact)
      let fl := rs.foldl (fun (a : Dword) r => a ||| r.2) 0#64
      ((se + 127).toNat, rs.map fun r => r.1, fl0 ||| (fl &&& (flInexact ||| flUnderflow)))

/-- Element format of a TB tag (R64): TB8 is FMT 0x12, TB6 is FMT 0x13. -/
def tbElement (fmt tag : Nat) : Nat :=
  if fmt = 0x12 then (if tag = 0 then 3 else if tag = 1 then 4 else 8)
  else (if tag = 0 then 5 else if tag = 1 then 6 else 7)

/-- The tag that R83 selects. -/
def tbTag (fmt policy : Nat) (xs : List Word) : Nat :=
  let vs := xs.map fun x => fp32.value x.toNat
  if vs.all XR.isZero then 3
  else if policy ≠ 3 then policy
  else if vs.any fun v => v.isNan || v.isInf then 0
  else
    let lgs := (vs.filter fun y => !y.isZero).map XR.log2
    let hi := lgs.foldl max (lgs.headD 0)
    let lo := lgs.foldl min (lgs.headD 0)
    if fmt = 0x12 then (if 16 ≤ hi - lo then 1 else 0) else (if 5 ≤ hi - lo then 0 else 1)

/-- tbq (R83): the header, element codes and flags. -/
def tbQuantise (fmt policy : Nat) (xs : List Word) (modes : List Rmode) (sat : Bool) : Nat × List Nat × Dword :=
  let tag := tbTag fmt policy xs
  if tag = 3 then (3 * 256, xs.map fun _ => 0, 0)
  else
    let r := mxQuantise xs (tbElement fmt tag) modes sat
    (tag * 256 + r.1, r.2.1, r.2.2)

/-! ECF8 (R65 to R67). -/

/-- The most frequent value of a list of 4-bit fields, the smallest of those that tie. -/
def mostFrequent (es : List Nat) : Nat :=
  (List.range 16).foldl (fun best e => if es.count best < es.count e then e else best) 0

/-- `n` bits of a number, highest first. -/
def bitsDown (v : Nat) : Nat → List Bool
  | 0 => []
  | n + 1 => bitOf v n :: bitsDown v n

/-- The shortest token of an exponent field (R66). -/
def expToken (base e : Nat) : List Bool :=
  if e = base then [false]
  else if e + 1 = base then [true, false]
  else if e = base + 1 then [true, true, false]
  else if e + 2 = base then [true, true, true, false]
  else [true, true, true, true, false] ++ bitsDown e 4

/-- Bytes of a bit string, the first bit lowest, padded with zeros. -/
def bitBytes (bs : List Bool) : List Byte :=
  leBytes (bs.foldr (fun b a => (if b then 1 else 0) + 2 * a) 0) ((bs.length + 7) / 8)

/-- Encodes 32 E4M3 codes: the header and the payload (R67). -/
def ecfEncode (cs : List Nat) : Nat × List Byte :=
  let base := mostFrequent (cs.map fun c => c / 8 % 16)
  let pay := bitBytes (cs.flatMap fun c => [bitOf c 7] ++ expToken base (c / 8 % 16) ++ bitsDown c 3)
  if 32 ≤ pay.length then (2 ^ 15 + 31 * 16, cs.map fun c => BitVec.ofNat 8 c)
  else (base + (pay.length - 1) * 16, pay)

/-- Reads an exponent token: the field, when it is in range, and the rest of the bits. -/
def readExp (base : Nat) : List Bool → Option (Nat × List Bool)
  | false :: r => some (base, r)
  | true :: false :: r => if 1 ≤ base then some (base - 1, r) else none
  | true :: true :: false :: r => if base + 1 ≤ 15 then some (base + 1, r) else none
  | true :: true :: true :: false :: r => if 2 ≤ base then some (base - 2, r) else none
  | true :: true :: true :: true :: false :: a :: b :: c :: d :: r =>
    some ((if a then 8 else 0) + (if b then 4 else 0) + (if c then 2 else 0) + (if d then 1 else 0), r)
  | _ => none

/-- Reads `n` elements of a payload; what is left must be less than a byte of zeros (R66). -/
def ecfElements (base : Nat) : Nat → List Bool → Option (List Nat)
  | 0, bs => if bs.length < 8 && !bs.any id then some [] else none
  | n + 1, bs =>
    match bs with
    | [] => none
    | sg :: r =>
      match readExp base r with
      | some (e, a :: b :: c :: r2) =>
        let m := (if a then 4 else 0) + (if b then 2 else 0) + (if c then 1 else 0)
        (ecfElements base n r2).map fun l => ((if sg then 128 else 0) + e * 8 + m) :: l
      | _ => none

/-- The bits of bytes, lowest first. -/
def bytesBits (bs : List Byte) : List Bool := bs.flatMap fun b => (List.range 8).map fun i => b.getLsbD i

/-- Payload length that a header gives. -/
def ecfLen (h : Nat) : Nat := h / 16 % 32 + 1

/-- Decodes one block: 32 codes, and whether it is well formed (R66). -/
def ecfBlock (h : Nat) (pay : List Byte) : List Nat × Bool :=
  let bad := (List.replicate 32 0, false)
  if h / 512 % 64 ≠ 0 ∨ pay.length ≠ ecfLen h then bad
  else if bitOf h 15 then (if ecfLen h = 32 then (pay.map BitVec.toNat, true) else bad)
  else
    match ecfElements (h % 16) 32 (bytesBits pay) with
    | some l => (l, true)
    | none => bad

/-- Headers of an ECF8 side part. -/
def ecfHeaders (side : List Byte) : List Nat := unpackBytes 16 side

/-- Decodes the blocks of a panel: E4M3 bytes and flags. -/
def ecfPanel : List Nat → List Byte → List Byte × Dword
  | [], _ => ([], 0)
  | h :: hs, bs =>
    let b := ecfBlock h (bs.take (ecfLen h))
    let r := ecfPanel hs (bs.drop (ecfLen h))
    (b.1.map (fun c => BitVec.ofNat 8 c) ++ r.1, r.2 ||| if b.2 then 0 else flInvalid)

/-! Panels (R274, R277). -/

/-- Bytes that a panel takes from its stream, once that is known: an ECF8 panel's headers give it. -/
def panelSize (fmt : Nat) (bs : List Byte) : Option Nat :=
  if fmt = 0x14 then
    if bs.length < 256 then none
    else some (256 + (ecfHeaders (bs.take 256)).foldl (fun (a : Nat) h => a + ecfLen h) 0)
  else some (sideBytes fmt + elementBytes fmt)

/-- A complete panel as its latch holds it: an ECF8 panel decoded, any other as it came, with the flags of decoding. -/
def assemblePanel (fmt : Nat) (bs : List Byte) : List Byte × Dword :=
  if fmt = 0x14 then ecfPanel (ecfHeaders (bs.take 256)) (bs.drop 256) else (bs, 0)

/-- The side part of a panel that consists of neutral padding. -/
def neutralSide (fmt : Nat) : List Byte :=
  if fmt = 0x12 ∨ fmt = 0x13 then leBytes (packNat 10 (List.replicate 128 0x300)) 160
  else if 0x0C ≤ fmt ∧ fmt ≤ 0x11 then List.replicate (sideBytes fmt) 0x7F
  else if fmt = 0x16 ∨ fmt = 0x17 then List.replicate (sideBytes fmt) 0x44
  else []

/-- Whether the bits of an exponent token end before the token does. -/
def expCut (r : List Bool) : Bool :=
  (r.all id && r.length ≤ 4) || (r.take 5 = [true, true, true, true, false] && r.length < 9)

/-- The elements that stand complete in part of a payload, and whether that part is well formed as far as it goes. -/
def ecfPart (base : Nat) : Nat → List Bool → List Nat × Bool
  | 0, _ => ([], true)
  | _ + 1, [] => ([], true)
  | n + 1, sg :: r =>
    match readExp base r with
    | some (e, a :: b :: c :: r2) =>
      let m := (if a then 4 else 0) + (if b then 2 else 0) + (if c then 1 else 0)
      let l := ecfPart base n r2
      (((if sg then 128 else 0) + e * 8 + m) :: l.1, l.2)
    | some _ => ([], true)
    | none => ([], expCut r)

/-- A block whose payload EOS cuts short: the elements that came (R277), or an ill-formed one. -/
def ecfCutBlock (h : Nat) (part : List Byte) : List Nat × Bool :=
  let bad := (List.replicate 32 0, false)
  if part = [] then ([], true)
  else if h / 512 % 64 ≠ 0 then bad
  else if bitOf h 15 then (if ecfLen h = 32 then (part.map BitVec.toNat, true) else bad)
  else
    let l := ecfPart (h % 16) 32 (bytesBits part)
    if l.2 then (l.1, true) else bad

/-- Decodes the blocks of a panel that EOS cuts short, up to the block that it cuts. -/
def ecfCutPanel : List Nat → List Byte → List Byte × Dword
  | [], _ => ([], 0)
  | h :: hs, bs =>
    let code (b : List Nat × Bool) : List Byte × Dword :=
      (b.1.map (fun c => BitVec.ofNat 8 c), if b.2 then 0 else flInvalid)
    if ecfLen h ≤ bs.length then
      let b := code (ecfBlock h (bs.take (ecfLen h)))
      let r := ecfCutPanel hs (bs.drop (ecfLen h))
      (b.1 ++ r.1, r.2 ||| b.2)
    else code (ecfCutBlock h bs)

/-- Bits of a stored element. -/
def elemBits (fmt : Nat) : Nat := if fmt = 0x15 then 32 else fmtBits fmt

/-- Completes a part of a panel with neutral padding (R277): its bytes, flags, and how many of its elements came. An ECF8 panel
takes the headers that came whole, and the elements of their blocks that came. -/
def padPanel (fmt : Nat) (bs : List Byte) : List Byte × Dword × Nat :=
  if fmt = 0x14 then
    let r := ecfCutPanel (ecfHeaders (bs.take (min bs.length 256 / 2 * 2))) (bs.drop 256)
    (r.1 ++ List.replicate (4096 - r.1.length) 0, r.2, r.1.length)
  else
    let came := (8 * (bs.length - sideBytes fmt) + elemBits fmt - 1) / elemBits fmt
    let side := neutralSide fmt
    let n := sideBytes fmt
    -- a TB header that the data cut short is missing as a whole
    let have_ := if fmt = 0x12 ∨ fmt = 0x13 then min bs.length n else bs.length
    if fmt = 0x12 ∨ fmt = 0x13 then
      let k := 8 * have_ / 10
      let hs := if n ≤ bs.length then unpackNat (leNat (bs.take n)) 10 0 128
        else unpackNat (leNat (bs.take have_)) 10 0 k ++ List.replicate (128 - k) 0x300
      let all := leBytes (packNat 10 hs) 160 ++ bs.drop n
      (all ++ List.replicate (n + elementBytes fmt - all.length) 0, 0, came)
    else if bs.length < n then (bs ++ side.drop bs.length ++ List.replicate (elementBytes fmt) 0, 0, came)
    else (bs ++ List.replicate (n + elementBytes fmt - bs.length) 0, 0, came)

/-! Exact values in the array: multiples of 2^-149 (R85). -/

/-- A decoded value. -/
inductive Exact where
  | nan
  | inf (neg : Bool)
  | fin (v : Int)
  deriving DecidableEq, Repr

/-- An operand element: its value, the three terms of a BF16x3 composite (R68), and whether it is neutral padding (R277). -/
structure Elem where
  v : Exact
  hi : Int := 0
  mid : Int := 0
  lo : Int := 0
  pad : Bool := false
  deriving DecidableEq, Repr

def XR.exact : XR → Exact
  | .nan _ => .nan
  | .inf s => .inf s
  | .fin s n d => let m : Int := (n * 2 ^ 149 / d : Nat); .fin (if s then -m else m)

/-- The composite of an FP32 pattern, and whether the split loses bits, which raises inexact and no underflow (R68).
DESIGN CHOICE (notes/assumptions/107.md). -/
def split3 (c : Nat) : Elem × Bool :=
  let x := fp32.value c
  let rtz (y : Int) : Int :=
    match (bf16.value (roundFmt (XR.dyadic (decide (y < 0)) y.natAbs (-149)) bf16 .rtz false).1).exact with
    | .fin v => v
    | _ => 0
  match x.exact with
  | .fin v =>
    let hi := rtz v
    let mid := rtz (v - hi)
    let lo := rtz (v - hi - mid)
    ({ v := x.exact, hi := hi, mid := mid, lo := lo }, hi + mid + lo != v)
  | e => ({ v := e }, false)

/-- A row of an operand as blocks of 32 positions: elements and scale; no scale is NaN (R86). -/
structure BlockRow where
  els : List Elem
  scale : Option Int
  deriving DecidableEq, Repr

/-- Groups of 32, in order. -/
def chunks32 : Nat → List Elem → List (List Elem)
  | 0, _ => []
  | n + 1, l => if l = [] then [] else l.take 32 :: chunks32 n (l.drop 32)

/-- The value of one element of a block format or plain format. -/
def plainElem (fmt c : Nat) : Elem := { v := (elementValue fmt c).exact }

/-- An INT8 element of a block format: c × 2^-6 (R63, R64). -/
def int6Elem (c : Nat) : Elem := { v := ((elementValue 8 c).scale (-6)).exact }

/-- The element format inside an MX format. -/
def mxElement (fmt : Nat) : Nat :=
  if fmt = 0x0C then 3 else if fmt = 0x0D then 4 else if fmt = 0x0E then 5 else if fmt = 0x0F then 6
  else if fmt = 0x10 then 7 else 8

/-- Elements of a block under a scale code: a NaN scale makes every element NaN (R62). -/
def scaledBlock (scale : Nat) (els : List Elem) : BlockRow :=
  if scale = 0xFF then ⟨els.map fun e => { v := .nan, pad := e.pad }, some 0⟩ else ⟨els, some ((scale : Int) - 127)⟩

/-- The four positions of a 2:4 group, and whether its code is legal (R70, R71). -/
def sparseGroup (code : Nat) (a b : Elem) : List Elem × Bool :=
  let z : Elem := { v := .fin 0 }
  let p := code % 4
  let q := code / 4 % 4
  if q ≤ p then ([z, z, z, z], false)
  else ((List.range 4).map fun i => if i = p then a else if i = q then b else z, true)

/-- Groups of a sparse row: elements, and illegal groups. -/
def sparseRow : List Nat → List Elem → List Elem × Nat
  | c :: cs, a :: b :: r =>
    let g := sparseGroup c a b
    let x := sparseRow cs r
    (g.1 ++ x.1, x.2 + if g.2 then 0 else 1)
  | _, _ => ([], 0)

/-- Marks the elements of row m that did not come, where `came` elements of the panel did. -/
def markPads (fmt m : Nat) (came : Option Nat) (l : List Elem) : List Elem :=
  let first := m * (elementBytes fmt / 64 * 8 / elemBits fmt)
  l.zipIdx.map fun c => { c.1 with pad := came.any fun n => n ≤ first + c.2 }

/-- Row m of a panel of which `came` elements came, if not all, with illegal groups, and whether a composite lost bits. -/
def panelRow (fmt : Nat) (came : Option Nat) (side els : List Byte) (m : Nat) : List BlockRow × Nat × Bool :=
  let mark := markPads fmt m came
  let rowBytes := elementBytes fmt / 64
  let bytes := (els.drop (rowBytes * m)).take rowBytes
  let srow := (side.drop (sideBytes fmt / 64 * m)).take (sideBytes fmt / 64)
  let one (l : List Elem) : List BlockRow := (chunks32 4 l).map fun b => ⟨b, some 0⟩
  if fmt = 0x15 then
    let l := (unpackBytes 32 bytes).map split3
    (one (mark (l.map fun c => c.1)), 0, l.any fun c => c.2)
  else if fmt = 0x16 ∨ fmt = 0x17 then
    let l := (unpackBytes (fmtBits fmt) bytes).map (plainElem (if fmt = 0x16 then 3 else 1))
    let r := sparseRow (unpackBytes 4 srow) (mark l)
    (one r.1, r.2, false)
  else if fmt = 0x12 ∨ fmt = 0x13 then
    let w := if fmt = 0x12 then 8 else 6
    let cs := unpackBytes w bytes
    let hdr (b : Nat) : Nat := leNat side / 2 ^ (10 * (2 * m + b)) % 1024
    let blk (b : Nat) : BlockRow :=
      let tag := hdr b / 256
      let l := ((mark (cs.map fun c => if tag = 3 then { v := .fin 0 } else
        if tbElement fmt tag = 8 then int6Elem c else plainElem (tbElement fmt tag) c)).drop (32 * b)).take 32
      if tag = 3 then ⟨l, some 0⟩ else scaledBlock (hdr b % 256) l
    ([blk 0, blk 1], 0, false)
  else if 0x0C ≤ fmt ∧ fmt ≤ 0x11 then
    let e := mxElement fmt
    let l := mark ((unpackBytes (fmtBits fmt) bytes).map fun c => if e = 8 then int6Elem c else plainElem e c)
    (((chunks32 4 l).zip srow).map fun c => scaledBlock c.2.toNat c.1, 0, false)
  else (one (mark ((unpackBytes (fmtBits fmt) bytes).map (plainElem (if fmt = 0x14 then 3 else fmt)))), 0, false)

/-- The rows of a panel as it is held, its illegal groups, and the flags of its composites. -/
def panelRows (fmt : Nat) (came : Option Nat) (bs : List Byte) : List (List BlockRow) × Nat × Dword :=
  let side := if fmt = 0x14 then [] else bs.take (sideBytes fmt)
  let els := if fmt = 0x14 then bs else bs.drop (sideBytes fmt)
  let rs := (List.range 64).map fun m => panelRow fmt came side els m
  (rs.map fun r => r.1, rs.foldl (fun (a : Nat) r => a + r.2.1) 0, flagIf (rs.any fun r => r.2.2) flInexact)

/-! Accumulation (R86, R87). -/

def Exact.sgn : Exact → Bool
  | .inf s => s
  | .fin v => v < 0
  | .nan => false

def Exact.isZero : Exact → Bool
  | .fin v => v = 0
  | _ => false

/-- A product, in units of 2^-298. -/
def Exact.mul (a b : Exact) : Exact × Dword :=
  match a, b with
  | .nan, _ => (.nan, 0)
  | _, .nan => (.nan, 0)
  | .fin x, .fin y => (.fin (x * y), 0)
  | x, y => if x.isZero || y.isZero then (.nan, flInvalid) else (.inf (x.sgn ^^ y.sgn), 0)

/-- A sum. -/
def Exact.add (a b : Exact) : Exact × Dword :=
  match a, b with
  | .nan, _ => (.nan, 0)
  | _, .nan => (.nan, 0)
  | .fin x, .fin y => (.fin (x + y), 0)
  | .inf s, .inf t => if s = t then (.inf s, 0) else (.nan, flInvalid)
  | .inf s, .fin _ => (.inf s, 0)
  | .fin _, .inf s => (.inf s, 0)

/-- The product of two elements; of two composites the six products of R69. A padded position contributes +0 and no flag
(R277). -/
def Elem.mul (comp : Bool) (a b : Elem) : Exact × Dword :=
  if a.pad || b.pad then (.fin 0, 0) else
  match a.v, b.v with
  | .fin x, .fin y =>
    if comp then
      (.fin (a.hi * b.hi + a.hi * b.mid + a.mid * b.hi + a.hi * b.lo + a.lo * b.hi + a.mid * b.mid), 0)
    else (.fin (x * y), 0)
  | x, y => x.mul y

/-- One level of the tree: adjacent pairs. -/
def pairUp : List (Exact × Dword) → List (Exact × Dword)
  | a :: b :: r => let s := a.1.add b.1; (s.1, a.2 ||| b.2 ||| s.2) :: pairUp r
  | l => l

/-- The sum of a block's products by adjacent pairs, then a tree. -/
def treeSum (l : List (Exact × Dword)) : Exact × Dword :=
  let t := l ++ List.replicate (32 - l.length) (.fin 0, 0)
  (pairUp (pairUp (pairUp (pairUp (pairUp t))))).headD (.fin 0, 0)

/-- The block sum s of R86. -/
def blockSum (comp : Bool) (a b : BlockRow) : XR × Dword :=
  let t := treeSum ((a.els.zip b.els).map fun c => c.1.mul comp c.2)
  match a.scale, b.scale with
  | some x, some y =>
    (match t.1 with
    | .nan => .nan false
    | .inf s => .inf s
    | .fin v => .dyadic (decide (v < 0)) v.natAbs (x + y - 298), t.2)
  | _, _ => (.nan false, t.2)

/-- add_block (R86). Modes: 0 FP32, 1 INT32 wrapping, 2 INT32 saturating. -/
def addBlock (acc : Word) (s : XR) (mode : Nat) : Word × Dword :=
  if mode = 0 then
    let a := fp32.value acc.toNat
    if a.isNan || s.isNan then (0x7FC00000, 0)
    else if s.isZero then (acc, 0)
    else if a.addInvalid s then (0x7FC00000, flInvalid)
    else let r := roundFmt (a.add false s) fp32 .rne false; (BitVec.ofNat 32 r.1, r.2)
  else
    let v : Int := match s with
      | .fin neg n d => if neg then -((n / d : Nat) : Int) else ((n / d : Nat) : Int)
      | _ => 0
    let t := acc.toInt + v
    if mode = 1 then (BitVec.ofInt 32 t, 0)
    else let c := clampInt t (-2 ^ 31) (2 ^ 31 - 1); (BitVec.ofInt 32 c.1, flagIf c.2 flSaturated)

/-- accumulate (R86) of one row of A with one row of B. -/
def accumulate (comp : Bool) (mode : Nat) (acc : Word) (a b : List BlockRow) : Word × Dword :=
  (a.zip b).foldl (fun (r : Word × Dword) c =>
    let s := blockSum comp c.1 c.2
    let x := addBlock r.1 s.1 mode
    (x.1, r.2 ||| s.2 ||| x.2)) (acc, 0)

/-! The sum and the maximum of a block group (R266). -/

/-- gsum: the exact sum rounded once. -/
def groupSum (xs : List Word) (mode : Rmode) (sat : Bool) : Nat × Dword :=
  let vs := xs.map fun x => fp32.value x.toNat
  if vs.any XR.isNan then (nan32, 0)
  else
    match vs.filter XR.isInf with
    | [] =>
      (match vs with
      | [] => (0, 0)
      | v :: r => roundFmt (r.foldl (fun a b => a.add (isRdn mode) b) v) fp32 mode sat)
    | i :: r => if r.any fun j => j.sign != i.sign then (nan32, flInvalid) else roundFmt i fp32 mode sat

/-- gmax: the largest magnitude. -/
def groupMax (xs : List Word) : Nat :=
  let vs := xs.map fun x => fp32.value x.toNat
  if vs.any XR.isNan then nan32
  else xs.foldl (fun (a : Nat) x => max a (x.toNat % 2 ^ 31)) 0

end Sys2Proof.Machine
end

