-- ==== Sys2Proof/Machine/Translate.lean ====
section
/-!
DEFINITION. Virtual addresses: the windows of R91 and R92, alignment (R93), the table walk with lazy pages and the
frame pool (R333 to R343), and the invalidation of cached translations (R344, R345).
-/

namespace Sys2Proof.Machine

/-- A fabric address in HBM: [63:56] zero and SPACE 0 (R95). -/
def isHbm (fa : Nat) : Bool := fa < 2 ^ 56 && bitsOf fa 47 39 = 0

/-- The outcome of a walk: an address, a fault kind of R338 with its level, or a page that is not ready: its resolution is
under way or waits for its walker (R339, R341), or a module that holds a table is not up (R373). -/
inductive Walked where
  | ok (fa : Nat) (s : State)
  | fault (kind level : Nat) (s : State)
  | busy (s : State)

/-- Whether an address lies in memory of another device than `dev` whose module is not up (R372, R373). -/
def State.memOff (s : State) (dev fa : Nat) : Bool :=
  fa / 2 ^ 48 != dev && (s.device (fa / 2 ^ 48)).module != .up

/-- Page size of a leaf at a level, as a power of two (R333). -/
def pageBits (l : Nat) : Nat := if l = 1 then 33 else if l = 2 then 29 else if l = 3 then 21 else 16

/-- Alignment of the table of a level: the larger of its size and 256 bytes (R333). -/
def tableAlign (l : Nat) : Nat :=
  if l = 0 then 2 ^ 14 else if l = 1 then 2 ^ 15 else if l = 3 then 2 ^ 11 else 2 ^ 8

/-- A malformed descriptor (R334). -/
def descMalformed (d l : Nat) : Bool :=
  let ty := d % 4
  let next := bitsOf d 55 8 * 2 ^ 8
  let frame := bitsOf d 55 16 * 2 ^ 16
  if ty = 0 then false
  else if bitsOf d 63 56 ≠ 0 then true
  else if ty = 1 then
    l = 4 || bitsOf d 7 2 ≠ 0 || next % tableAlign (l + 1) ≠ 0 || bitsOf next 47 39 ≠ 0
  else if bitOf d 7 || bitsOf d 15 8 ≠ 0 then true
  else if ty = 2 then
    l = 0 || bitOf d 6 || frame % 2 ^ pageBits l ≠ 0 || bitsOf frame 47 39 ≠ 0
  else l ≤ 2 || bitsOf d 55 16 ≠ 0

/-- Permission of a page for an access kind and level (R337). -/
def allowed (d : Nat) (kind : WalkKind) (super : Bool) : Bool :=
  (super || !bitOf d 5) &&
  match kind with
  | .read => bitOf d 2
  | .write => bitOf d 3
  | .readWrite => bitOf d 2 && bitOf d 3
  | .fetch => bitOf d 4

/-- The result of taking a frame from the pool (R343); the pool waits while its memory's module is not up. -/
inductive Taken where
  | frame (fa : Nat) (s : State)
  | fault (kind : Nat) (s : State)
  | busy (s : State)

/-- Adds 1 to a saturating 32-bit count in memory (R342). -/
def State.bump32 (s : State) (a : Nat) : State :=
  s.writeBytes a (leBytes (min (s.readNat a 4 + 1) 0xFFFFFFFF) 4)

/-- Steps 1 to 4 of R343 for a ring: `ring`, `n`, and the addresses of its HEAD, and of DRYS and BADS. -/
def takeLoop (p : Partition) (s : State) (ring n headA pool size : Nat) : Nat → Taken
  | 0 => .fault 5 (s.bump32 (pool + 0x38))
  | fuel + 1 =>
    let head := s.readNat headA 8
    let tail := s.readNat (headA + 8) 8
    if head = tail then .fault 5 (s.bump32 (pool + 0x38))
    else
      let entry := ring + 8 * (head % n)
      if !(isHbm entry && p.ownsHbm entry 8) then .fault 4 s
      else
        let s1 := s.writeBytes headA (leBytes (head + 1) 8)
        let fa := s.readNat entry 8
        if fa % size ≠ 0 || !isHbm fa || !p.ownsHbm fa size then
          takeLoop p (s1.bump32 (pool + 0x3C)) ring n headA pool size fuel
        else .frame fa s1

/-- A walker of device `dev` takes a frame of the page's size (R343); FPOOL.BLOCK 0 faults DRY without a count. -/
def takeFrame (s : State) (dev part : Nat) (big : Bool) : Taken :=
  let p := s.partition part
  let pool := bitsOf p.fpool.toNat 55 6 * 64
  if pool = 0 then .fault 5 s
  else if !(isHbm pool && p.ownsHbm pool 64) then .fault 4 s
  else if s.memOff dev pool || s.memOff dev (s.readNat (if big then pool + 8 else pool) 8) then .busy s
  else
    let ring := s.readNat (if big then pool + 8 else pool) 8
    let n := s.readNat (if big then pool + 0x14 else pool + 0x10) 4
    let headA := if big then pool + 0x28 else pool + 0x18
    if !((List.range 18).any fun i => n = 2 ^ (i + 3)) || ring % 64 ≠ 0 then .fault 3 s
    else takeLoop p s ring n headA pool (if big then 2 ^ 21 else 2 ^ 16)
      (s.readNat (headA + 8) 8 + 2 ^ 64 - s.readNat headA 8 + 1)

/-- Sets a walk mark; table wins over leaf (R344). -/
def State.markWalk (s : State) (sec : Nat) (table : Bool) : State :=
  if table then s.setMark sec .table
  else if s.mark sec = .table then s else s.setMark sec .leaf

/-- The levels below and including `l`, with the lowest and highest VA bit each indexes (R333). -/
def walkLevels : List (Nat × Nat × Nat) := [(0, 45, 55), (1, 33, 44), (2, 29, 32), (3, 21, 28), (4, 16, 20)]

/-- Keeps the newest `n` entries of a cache that pass `f`, and every entry that does not. -/
def keepNewest {α : Type} (f : α → Bool) (n : Nat) : List α → List α
  | [] => []
  | e :: r => if f e then (if n = 0 then keepNewest f 0 r else e :: keepNewest f (n - 1) r) else e :: keepNewest f n r

/-- A descriptor as the quad's walker sees it: from its cache of table descriptors, else from memory (R339). -/
def State.readDesc (s : State) (part quad da : Nat) : Nat :=
  match s.walkCache.find? (fun e => e.part = part && e.quad = quad && e.da = da) with
  | some e => e.desc.toNat
  | none => s.readNat da 8

/-- Caches a table descriptor: 32 entries a quad (R339). -/
def State.cacheTable (s : State) (part quad da d : Nat) : State :=
  let others := s.walkCache.filter fun e => !(e.part = part && e.quad = quad && e.da = da)
  { s with walkCache := keepNewest (fun e => e.quad = quad) 32 (⟨part, quad, da, BitVec.ofNat 64 d⟩ :: others) }

/-- Caches a leaf translation in the tile's L1 (192 entries) and the die's L2 (8,192 entries in 1,024 sets of 8, picked by
the page's number) (R339). L1 owners are 2*tile, L2 owners are 2*die + 1. DESIGN CHOICE (notes/assumptions/93.md). -/
def State.cacheLeaf (s : State) (part tile level vpage frame perms sec : Nat) : State :=
  let e1 : TlbEntry := ⟨part, 2 * tile, level, vpage, frame, BitVec.ofNat 4 perms, sec⟩
  let e2 : TlbEntry := ⟨part, 2 * dieKey tile + 1, level, vpage, frame, BitVec.ofNat 4 perms, sec⟩
  let l1 := keepNewest (fun e => e.owner = 2 * tile) 192 (e1 :: s.tlb)
  let set := fun (e : TlbEntry) => e.owner = 2 * dieKey tile + 1 && e.vpage % 1024 = vpage % 1024
  { s with tlb := keepNewest set 8 (e2 :: l1) }

/-- A walk comes to a lazy page while resolutions take time: steps 1 and 2 of R341, BUSY is set and a frame taken, where the
quad has fewer than eight walks under way and no earlier request; else the request waits in order (R339). -/
def State.lazyBegin (s : State) (q : WalkRequest) (d l : Nat) : Walked :=
  let quad := quadKey q.tile
  let ahead := (s.walkQueue.find? fun v => quadKey v.tile = quad).any fun v => !(v.part = q.part && v.da = q.da)
  if 8 ≤ (s.walks.filter fun w => w.quad = quad).length || ahead then
    if s.walkQueue.any fun v => quadKey v.tile = quad && v.part = q.part && v.da = q.da then .busy s
    else .busy { s with walkQueue := s.walkQueue ++ [q] }
  else
    match takeFrame s (tileDev q.tile) q.part (l = 3) with
    | .busy s1 => .busy s1
    | .fault k s1 => .fault k l (s1.markWalk (sectorOf q.da) false)
    | .frame fa s1 =>
      let s2 := (s1.writeBytes q.da (leBytes (d + 2 ^ 6) 8)).markWalk (sectorOf q.da) false
      .busy { s2 with walks := s2.walks ++ [⟨q.part, quad, q.da, d, l, fa⟩]
                      walkQueue := s2.walkQueue.filter fun v => !(quadKey v.tile = quad && v.part = q.part && v.da = q.da) }

/-- The walk of R336 from a list of remaining levels; `t` is the table's fabric address. A cinch walk (R374) is
`dry` = true: it writes nothing and reports a lazy page, or a table on another device, as kind 8. -/
def walkFrom (part tile : Nat) (va : Nat) (kind : WalkKind) (super dry : Bool) :
    List (Nat × Nat × Nat) → Nat → State → Walked
  | [], _, s => .fault 3 4 s
  | (l, lo, hi) :: rest, t, s =>
    let p := s.partition part
    let quad := quadKey tile
    let da := t + 8 * bitsOf va hi lo
    if !(isHbm da && p.ownsHbm da 8) then .fault 4 l s
    else if dry && da / 2 ^ 48 != tileDev tile then .fault 8 l s
    else if !dry && s.memOff (tileDev tile) da then .busy s
    else if s.sector (sectorOf da) = .poisoned then .fault 7 l s
    else
      let d := if dry then s.readNat da 8 else s.readDesc part quad da
      if descMalformed d l then .fault 3 l s
      else if d % 4 = 0 then .fault 1 l s
      else if d % 4 = 1 then
        walkFrom part tile va kind super dry rest (bitsOf d 55 8 * 2 ^ 8)
          (if dry then s else (s.cacheTable part quad da d).markWalk (sectorOf da) true)
      else if d % 4 = 3 && dry then .fault 8 l s
      else if d % 4 = 3 && bitOf d 6 then .busy s
      else if d % 4 = 3 && s.slowWalks then s.lazyBegin ⟨part, tile, va, super, kind, da⟩ d l
      else
        let resolved : Taken :=
          if d % 4 = 3 then
            match takeFrame s (tileDev tile) part (l = 3) with
            | .frame fa s1 =>
              .frame fa ((s1.scrub fa (2 ^ pageBits l)).writeBytes da (leBytes (fa + bitsOf d 5 2 * 4 + 2) 8))
            | x => x
          else .frame (bitsOf d 55 16 * 2 ^ 16) s
        match resolved with
        | .busy s1 => .busy s1
        | .fault k s1 => .fault k l (if dry then s1 else s1.markWalk (sectorOf da) false)
        | .frame fa s1 =>
          let s2 := if dry then s1 else s1.markWalk (sectorOf da) false
          if !(p.ownsHbm fa (2 ^ pageBits l)) then .fault 4 l s2
          else if !allowed d kind super then .fault 2 l s2
          else
            .ok (fa + va % 2 ^ pageBits l)
              (if dry then s2
               else s2.cacheLeaf part tile l (va / 2 ^ pageBits l) fa (bitsOf d 5 2) (sectorOf da))

/-- A cached leaf translation of the tile's L1 or its die's L2 (R339). -/
def State.tlbFind (s : State) (part tile va : Nat) : Option TlbEntry :=
  s.tlb.find? fun e =>
    e.part = part && (e.owner = 2 * tile || e.owner = 2 * dieKey tile + 1) && e.vpage = va / 2 ^ pageBits e.level

/-- Translation of a 56-bit virtual address for a tile, partition and level (R336 to R339). A cached translation that does
not allow the access is no answer: a fault always comes from a walk. -/
def translate (s : State) (part tile : Nat) (super : Bool) (va : Nat) (kind : WalkKind) : Walked :=
  let walked : Walked :=
    let root := bitsOf (s.partition part).ptRoot.toNat 55 14 * 2 ^ 14
    if root = 0 then .fault 6 0 s
    else
      match walkFrom part tile va kind super false walkLevels root s with
      | .fault k l s1 => .fault k l (if k = 4 then s1.fenceViolation (tileDev tile) else s1)
      | x => x
  match s.tlbFind part tile va with
  | some e => if allowed (e.perms.toNat * 4) kind super then .ok (e.frame + va % 2 ^ pageBits e.level) s else walked
  | none => walked

/-! A resolution of a lazy page that takes time (R341, R346): walkFrom begins it. -/

/-- Steps 3 and 4 of R341: the frame is zero and empty, and the descriptor names it. -/
def State.lazyDone (s : State) (w : LazyWalk) : State :=
  let s1 := (s.scrub w.frame (2 ^ pageBits w.level)).writeBytes w.da (leBytes (w.frame + bitsOf w.desc 5 2 * 4 + 2) 8)
  { s1.markWalk (sectorOf w.da) false with walks := s1.walks.filter fun v => v.da != w.da }

/-- A waiting request of a quad is walked again (R339): it begins, or leaves the queue with a page that it need not wait for;
its access finds a fault by its own walk. -/
def State.startWalk (s : State) (q : WalkRequest) : State :=
  let gone (x : State) : State := { x with walkQueue := x.walkQueue.erase q }
  match translate s q.part q.tile q.super q.va q.kind with
  | .busy s1 => if s1.walks.any fun w => w.da = q.da then gone s1 else s1
  | _ => gone s

/-- A walker ends a resolution, and its quad's next request begins (R339, R341). It waits while the memory of the page or of
the descriptor is not up. -/
def State.lazyEnd (s : State) (da : Nat) : State :=
  match s.walks.find? fun w => w.da = da with
  | none => s
  | some w =>
    if s.memOff (w.quad / 224) w.da || s.memOff (w.quad / 224) w.frame then s
    else
      let s1 := s.lazyDone w
      (s1.walkQueue.filter fun q => quadKey q.tile = w.quad).foldl State.startWalk s1

/-- A power-fail trap on a device: its walkers write their descriptors back as lazy, without BUSY (R346). -/
def State.lazyBack (s : State) (dev : Nat) : State :=
  let s1 := (s.walks.filter fun w => w.quad / 224 = dev).foldl (fun x w => x.writeBytes w.da (leBytes w.desc 8)) s
  { s1 with walks := s1.walks.filter fun w => w.quad / 224 != dev
            walkQueue := s1.walkQueue.filter fun q => tileDev q.tile != dev }

/-- Another reset of a device: its walkers complete their resolutions, as at a kill (R346); those of other devices whose
descriptors lie on it end with its memory. -/
def State.lazyReset (s : State) (dev : Nat) : State :=
  let s1 := (s.walks.filter fun w => w.quad / 224 = dev).foldl State.lazyDone s
  { s1 with walks := s1.walks.filter fun w => w.da / 2 ^ 48 != dev
            walkQueue := s1.walkQueue.filter fun q => tileDev q.tile != dev }

/-- Accesses of some slots are withdrawn, and so are the walks that wait for them (R346). -/
def State.dropWalks (s : State) (part : Nat) (keys : List Nat) : State :=
  { s with walkQueue := s.walkQueue.filter fun q => !(q.part = part && keys.any fun k => keyTile k = q.tile) }

/-- The partition that owns an HBM sector. -/
def State.ownerOf (s : State) (sec : Nat) : Option Nat :=
  (s.partitions.find? fun c => c.2.ownsHbm (sec * 64) 64).map fun c => c.1

/-- Drops the cached translations that a write to a marked sector invalidates, and clears the mark (R344). The partition
is the one that owns the sector. -/
def State.invalidate (s : State) (sec : Nat) : State :=
  match s.mark sec with
  | .clear => s
  | .leaf => { s.setMark sec .clear with tlb := s.tlb.filter (fun e => e.sector != sec) }
  | .table =>
    let keeps (part : Nat) : Bool := match s.ownerOf sec with | some p => part != p | none => false
    { s.setMark sec .clear with
      tlb := s.tlb.filter (fun e => keeps e.part)
      walkCache := s.walkCache.filter (fun e => keeps e.part) }

/-- A write by any agent but a walker: the invalidation of R344 comes before it (R345). -/
def State.storeBytes (s : State) (a : Nat) (bs : List Byte) : State :=
  (s.invalidate (sectorOf a)).writeBytes a bs

/-- Marked sectors that meet bytes [a, a + n). -/
def State.markedIn (s : State) (a n : Nat) : List Nat :=
  (s.marks.map fun c => c.1).filter fun k => a / 64 ≤ k && k * 64 < a + n

/-- The same for bytes of several sectors. -/
def State.storeRange (s : State) (a : Nat) (bs : List Byte) : State :=
  ((s.markedIn a bs.length).foldl State.invalidate s).writeBytes a bs

/-! Accesses already translated (R345). -/

/-- Whether an access that is on its way with an address lies in a page of a translation that a write to sector `sec`
would drop. -/
def State.mapped (s : State) (sec addr : Nat) : Bool :=
  match s.mark sec with
  | .clear => false
  | .leaf => s.tlb.any fun e => e.sector = sec && e.frame ≤ addr && addr < e.frame + 2 ^ pageBits e.level
  | .table => addr < 2 ^ 60 && match s.ownerOf sec with | some p => (s.partition p).ownsHbm addr 1 | none => true

/-- Whether bytes that a thread's combining buffer or a slot's write combiners gather are for a place that `f` picks. -/
def Thread.gathers (t : Thread) (f : Nat → Bool) : Bool := t.cb.any fun e => f e.sector
def Slot.gathers (x : Slot) (f : Nat → Bool) : Bool := x.ags.any fun g => g.2.combSector.any f

/-- Whether a write to a sector has to wait: its descriptor is being resolved (R341), or an access translated through an
entry that the write drops has not performed (R345). `mine` says which flights are the write itself or behind it. Of several
writes to marked sectors each performs after its own invalidation and waits for no other (R346).
DEDUCED (notes/assumptions/103.md). -/
def State.inUse (s : State) (sec : Nat) (mine : Flight → Bool) : Bool :=
  let plain (k : Nat) : Bool := s.mark k = .clear && s.mapped sec (k * 64)
  (s.walks.any fun w => sectorOf w.da = sec) ||
    (s.mark sec != .clear &&
      ((s.flits.any fun v => !mine v && v.flit.asker.isSome && (v.flit.written.all fun k => s.mark k = .clear) &&
          s.mapped sec v.flit.addr) ||
        (s.invocations.any fun i => plain (sectorOf i.target)) ||
        (s.threads.any fun c => c.2.any fun t => t.gathers plain) ||
        (s.slots.any fun c => c.2.any fun x => x.gathers plain) ||
        s.images.any fun c => c.2.any fun im =>
          (im.threads.any fun d => d.2.any fun t => t.gathers plain) || im.slots.any fun d => d.2.any fun x => x.gathers plain))

/-- The same for bytes of several sectors. -/
def State.rangeInUse (s : State) (a n : Nat) : Bool := (s.walks.any fun w => a / 64 ≤ w.da / 64 && w.da / 64 * 64 < a + n) ||
  (s.markedIn a n).any fun k => s.inUse k fun _ => false

/-- A place that an access reaches: its address in the store of bytes, and its home scope (R100). -/
structure Place where
  addr : Nat
  home : Nat
  deriving DecidableEq, Repr

/-- The outcome of address checks and translation for an access (R207). -/
inductive Reached where
  | at (p : Place) (s : State)
  /-- cause and TCAUSE.ARG (R347, R350) -/
  | fault (c : Cause) (arg : Nat) (s : State)
  /-- the page is not ready (R339, R341) -/
  | busy (s : State)

/-- Bytes [off, off + n) of a scratchpad share that a bound link queue of the slot holds (R92, R107). -/
def Slot.touchesQueue (x : Slot) (off n : Nat) : Bool :=
  x.queues.any fun c =>
    c.2.bound && decide (off < (c.2.base.toNat + c.2.dm1.toNat + 1) * 4096) && decide (c.2.base.toNat * 4096 < off + n)

/-- The tile of a position of a region (R31). -/
def Region.tileAt (r : Region) (part rx ry : Nat) : Nat :=
  match r.origins[part]? with
  | some o => planeTile o.dev (o.ox + rx) (o.oy + ry)
  | none => 0

/-- The thread key of a position of a region. -/
def Region.keyAt (r : Region) (part rx ry : Nat) : Nat := r.tileAt part rx ry * 4 + r.slot

/-- The place of offset `off` of a share that is made of units of `size` bytes. A share is given the lowest units that are
free: R325 asks for free bytes, not for bytes in one piece. DEDUCED (notes/assumptions/46.md). -/
def unitPlace (units : List Nat) (size off : Nat) : Nat := (units[off / size]?).getD (off / size) * size + off % size

/-- Where offset `off` of a region's share on a tile, and of its allocation in a quad, lies. -/
def Region.spadAt (r : Region) (tile off : Nat) : Nat :=
  spadAddr tile (unitPlace (SMap.get [] r.spadUnits tile) (2 ^ 14) off)
def Region.vaultAt (r : Region) (quad off : Nat) : Nat :=
  vaultAddr quad (unitPlace (SMap.get [] r.vaultUnits quad) (2 ^ 16) off)

/-- Home scope by places (R100). -/
def homeScope (own target : Nat) (vault : Bool) : Nat :=
  if tileDev own ≠ tileDev target then 3
  else if tileDie own ≠ tileDie target then 2
  else if own ≠ target || vault then 1 else 0

/-- The window access of a region (R91, R92): the place of offset `off`, `n` bytes, at position (part, rx, ry). -/
def windowPlace (s : State) (r : Region) (own : Nat) (vault : Bool) (part rx ry off n : Nat) : Option Place :=
  if r.w ≤ rx || r.h ≤ ry || r.parts ≤ part then none
  else
    let tile := r.tileAt part rx ry
    if vault then
      if r.vaultBytes < off + n then none
      else some ⟨r.vaultAt (quadKey tile) off, homeScope own tile true⟩
    else if r.spadBytes < off + n || (s.slot (tile * 4 + r.slot)).touchesQueue off n then none
    else some ⟨r.spadAt tile off, homeScope own tile false⟩

/-- The decode of R91, the window checks of R92, the alignment of R93 and translation, in the order of R207, for an
access of `n` bytes aligned to `al` by an agent at position (part, rx, ry) of region `r`. -/
def reach (s : State) (r : Region) (super : Bool) (part rx ry : Nat) (va : Dword) (n al : Nat) (kind : WalkKind) :
    Reached :=
  let v := va.toNat
  let own := r.tileAt part rx ry
  let top := v / 2 ^ 56
  if top = 0 then
    if v % al ≠ 0 then .fault .alignment 0 s
    else
      match translate s r.launch.part own super v kind with
      | .ok fa s1 => .at ⟨fa, if fa / 2 ^ 48 ≠ tileDev own then 3 else 2⟩ s1
      | .fault k l s1 => .fault .translation (k + 16 * l) s1
      | .busy s1 => .busy s1
  else
    let place : Option Place :=
      if top = 0xF0 then
        if bitsOf v 55 19 ≠ 0 then none else windowPlace s r own false part rx ry (v % 2 ^ 19) n
      else if top = 0xF1 then
        if bitsOf v 31 19 ≠ 0 then none
        else windowPlace s r own false (bitsOf v 55 48) (bitsOf v 39 32) (bitsOf v 47 40) (v % 2 ^ 19) n
      else if top = 0xF2 then
        if bitsOf v 55 21 ≠ 0 then none else windowPlace s r own true part rx ry (v % 2 ^ 21) n
      else if top = 0xF3 then
        if bitsOf v 31 21 ≠ 0 then none
        else windowPlace s r own true (bitsOf v 55 48) (bitsOf v 39 32) (bitsOf v 47 40) (v % 2 ^ 21) n
      else none
    match place with
    | none => .fault .address 0 s
    | some p => if v % al ≠ 0 then .fault .alignment 0 s else .at p s

end Sys2Proof.Machine
end

