-- ==== Sys2Proof/Machine/Route.lean ====
section
/-!
DEFINITION. The torus (R393 to R395, R399, R402): cabling of the ports, the dimension-order route between two devices,
whether the lane groups along it carry control flits, pooled data or one binding, and which flit comes to its end next.
-/

namespace Sys2Proof.Machine

/-! Coordinates and cabling (R393). Directions: 0 X+, 1 X-, 2 Y+, 3 Y-, 4 Z+, 5 Z-. Port p leaves in direction p/2. -/

/-- Coordinate of a device in dimension 0, 1 or 2, and the length of that ring. -/
def devCoord (dev dim : Nat) : Nat := if dim = 0 then dev % 8 else if dim = 1 then dev / 8 % 8 else dev / 64
def ringLen (dim : Nat) : Nat := if dim = 2 then 4 else 8

/-- What one step in a dimension adds to DEV. -/
def devStride (dim : Nat) : Nat := if dim = 0 then 1 else if dim = 1 then 8 else 64

/-- The device next to `dev` in a direction. -/
def devNext (dev dir : Nat) : Nat :=
  let dim := dir / 2
  let c := devCoord dev dim
  let n := ringLen dim
  let c1 := if dir % 2 = 0 then (c + 1) % n else (c + n - 1) % n
  dev - c * devStride dim + c1 * devStride dim

/-- The device and port at the other end of a port's cable. -/
def portPartner (dev port : Nat) : Nat × Nat :=
  (devNext dev (port / 2), (port / 2 / 2 * 2 + (1 - port / 2 % 2)) * 2 + port % 2)

/-! Routes (R394). -/

/-- The direction of the next hop: X, then Y, then Z, by the shorter way, and the + way when the two are equal. -/
def hopDir (a b : Nat) : Option Nat :=
  ([0, 1, 2]).findSome? fun dim =>
    let n := ringLen dim
    let f := (devCoord b dim + n - devCoord a dim) % n
    if f = 0 then none else if f ≤ n - f then some (2 * dim) else some (2 * dim + 1)

/-- The hops from one device to another, as device and direction. -/
def routeHops : Nat → Nat → Nat → List (Nat × Nat)
  | 0, _, _ => []
  | fuel + 1, a, b =>
    match hopDir a b with
    | none => []
    | some d => (a, d) :: routeHops fuel (devNext a d) b

def route (a b : Nat) : List (Nat × Nat) := routeHops 12 a b

/-! Lane groups. -/

def Device.lanes (d : Device) (port g : Nat) : LaneGroup := SMap.get {} d.groups (port * 8 + g)
def Device.setLanes (d : Device) (port g : Nat) (v : LaneGroup) : Device :=
  { d with groups := SMap.put {} d.groups (port * 8 + g) v }
def Device.isDown (d : Device) (port : Nat) : Bool := SMap.get false d.portDown port

/-- The port of a direction that traffic takes: the one of FA[12], or the other when that one is down (R402). -/
def Device.portFor (d : Device) (dir sel : Nat) : Option Nat :=
  if !d.isDown (2 * dir + sel) then some (2 * dir + sel)
  else if !d.isDown (2 * dir + (1 - sel)) then some (2 * dir + (1 - sel)) else none

/-- Changes a lane group. A port keeps the time since which none of its groups is up; what a group that is not up has sent is
sent again (R402). -/
def State.setGroup (s : State) (dev port g : Nat) (f : LaneGroup → LaneGroup) : State :=
  let d := (s.device dev).setLanes port g (f ((s.device dev).lanes port g))
  let up := (List.range 8).any fun k => (d.lanes port k).state = .up
  let since := SMap.get 0 d.portSince port
  let s1 := s.setDevice dev
    { d with portSince := SMap.put 0 d.portSince port (if up then 0 else if since = 0 then s.now + 1 else since) }
  if (d.lanes port g).state = .up then s1
  else
    let mine (v : Flight) : Bool := v.dev = dev && v.sent.any fun n => n.1 = 8 * port + g
    { s1 with flits := s1.flits.map fun v => if mine v then { v with sent := none } else v }

/-- What the far end of a port's cable states in IDENT, as 12 * DEV + port: R393's partner, unless the cable leads elsewhere
(R410). -/
def State.stated (s : State) (dev port : Nat) : Nat :=
  let n := SMap.get 0 s.cables (12 * dev + port)
  let p := portPartner dev port
  if n = 0 then 12 * p.1 + p.2 else n - 1

/-- The partner that a port has stated to it. -/
def State.setCable (s : State) (dev port partner : Nat) : State :=
  let p := portPartner dev port
  { s with cables := SMap.put 0 s.cables (12 * dev + port) (if partner = 12 * p.1 + p.2 then 0 else partner + 1) }

/-- Whether a port is down, with Tack's report of it (R402, R410). -/
def State.setPort (s : State) (dev port : Nat) (down : Bool) (r : Option LinkReport) : State :=
  let d := s.device dev
  s.setDevice dev { d with portDown := SMap.put false d.portDown port down, linkReports := SMap.put none d.linkReports port r }

def State.portUp (s : State) (dev port : Nat) : State := s.setPort dev port false none
def State.portFails (s : State) (dev port : Nat) : State := s.setPort dev port true (some .down)
def State.wrongPartner (s : State) (dev port partner : Nat) : State := s.setPort dev port true (some (.wrongPartner partner))

/-- Whether each hop of a route carries control flits (lane group 0), or pooled data (an unbound data group). -/
def State.routeOpen (s : State) (a b sel : Nat) (data : Bool) : Bool :=
  (route a b).all fun h =>
    match (s.device h.1).portFor h.2 sel with
    | none => false
    | some p =>
      if data then (List.range 7).any fun g =>
        let l := (s.device h.1).lanes p (g + 1)
        l.state = .up && l.binding = none
      else ((s.device h.1).lanes p 0).state = .up

/-- The port and lane group of a direction that carry a binding. -/
def Device.boundGroup (d : Device) (dir bid : Nat) : Option (Nat × Nat) :=
  ([2 * dir, 2 * dir + 1]).findSome? fun p =>
    ((List.range 6).find? fun g => (d.lanes p (g + 1)).binding = some bid).map fun g => (p, g + 1)

/-- Whether a binding's lane group is up on every hop (R399). -/
def State.bindingUp (s : State) (a b bid : Nat) : Bool :=
  (route a b).all fun h =>
    match (s.device h.1).boundGroup h.2 bid with
    | some (p, g) => ((s.device h.1).lanes p g).state = .up
    | none => false

/-- A port and lane group of a direction that are free for a binding (R399). -/
def Device.freeGroup (d : Device) (dir : Nat) : Option (Nat × Nat) :=
  ([2 * dir, 2 * dir + 1]).findSome? fun p =>
    ((List.range 6).find? fun g => (d.lanes p (g + 1)).binding = none && (d.lanes p (g + 1)).state = .up &&
      !d.isDown p).map fun g => (p, g + 1)

/-- An entry of a port's filter tables: direction 0 out, 1 in (R400). -/
def State.setFilter (s : State) (dev port dir vc v : Nat) : State :=
  let d := s.device dev
  s.setDevice dev { d with filters := SMap.put 0 d.filters ((2 * port + dir) * 16 + vc) v }

/-- A route that leaves by a port of one device and enters the next one has the entry on both sides of the cable. -/
def State.filterHop (s : State) (dev port vc v : Nat) : State :=
  let p := portPartner dev port
  (s.setFilter dev port 0 vc v).setFilter p.1 p.2 1 vc v

/-- Takes a lane group for a binding on each hop of its route, with filter-table entries `v` (R399, R400); nothing where a
hop has none free. -/
def State.bindRoute (s : State) (bid v : Nat) : List (Nat × Nat) → Option State
  | [] => some s
  | (dev, dir) :: r =>
    let d := s.device dev
    match d.freeGroup dir with
    | some (p, g) =>
      ((s.setDevice dev (d.setLanes p g { d.lanes p g with binding := some bid })).filterHop dev p (8 + g) v).bindRoute bid v r
    | none => none

/-- The name of the k-th binding between parts of launch `n` before its egress endpoint has a place (R327). -/
def linkId (n k : Nat) : Nat := 2 ^ 60 + n * 2 ^ 20 + k

/-- Whether a name stands for a binding of launch `n`. -/
def linkOf (n b : Nat) : Bool := b / 2 ^ 20 = 2 ^ 40 + n

/-- Takes a lane group on every hop for each binding of a launch between its parts, whose devices are given in order
(R251, R327); nothing where one cannot be given. -/
def State.holdLinks (s : State) (n : Nat) (devs : List Nat) : Nat → List (Nat × Nat) → Option State
  | _, [] => some s
  | k, (a, b) :: r =>
    (s.bindRoute (linkId n k) 0 (route (devs.getD a 0) (devs.getD b 0))).bind fun x => x.holdLinks n devs (k + 1) r

/-- The lane groups held under one name on the hops of a route take another, with its filter-table entries (R399, R400). -/
def State.nameLink (s : State) (old new v : Nat) : List (Nat × Nat) → State
  | [] => s
  | (dev, dir) :: r =>
    let d := s.device dev
    match d.boundGroup dir old with
    | some (p, g) =>
      ((s.setDevice dev (d.setLanes p g { d.lanes p g with binding := some new })).filterHop dev p (8 + g) v).nameLink old new v r
    | none => s.nameLink old new v r

/-- Gives back the lane groups of the bindings of some egress endpoints. -/
def State.unbindRoutes (s : State) (mine : Nat → Bool) : State :=
  { s with devices := s.devices.map fun c =>
      (c.1, { c.2 with groups := c.2.groups.filterMap fun g =>
        match g.2.binding with
        | some b =>
          if mine b then
            let l := { g.2 with binding := none }
            if l = {} then none else some (g.1, l)
          else some g
        | none => some g }) }

/-- The offset in its share of a byte of a tile's scratchpad. -/
def State.shareOffset (s : State) (tile off : Nat) : Nat :=
  ((List.range 4).findSome? fun i =>
    match (s.thread (tile * 4 + i)).bind fun t => s.region t.rid with
    | some r =>
      (List.range (r.spadBytes / 2 ^ 14)).findSome? fun k =>
        let b := unitPlace (SMap.get [] r.spadUnits tile) (2 ^ 14) (k * 2 ^ 14)
        if b ≤ off ∧ off < b + 2 ^ 14 then some (k * 2 ^ 14 + (off - b)) else none
    | none => none).getD off

/-- The port of a sector: the channel of an HBM stack (R95), the sub-bank of a vault (R99), or the bank of a scratchpad
(R98). -/
def State.portOf (s : State) (sec : Nat) : Nat :=
  let a := sec * 64
  if a < 2 ^ 60 then a / 2 ^ 36 * 32 + (bitsOf a 14 10 ^^^ bitsOf a 19 15)
  else if a < 2 ^ 61 then 2 ^ 40 + (a - 2 ^ 60) / 2 ^ 21 * 16 + bitsOf a 9 6
  else
    let tile := (a - 2 ^ 61) / 2 ^ 19
    let o := s.shareOffset tile (a % 2 ^ 19)
    2 ^ 41 + tile * 32 + (bitsOf o 10 6 ^^^ bitsOf o 15 11)

/-- Sectors of the slot that a group of an ingress is written into. -/
def slotSectors (key : Nat) (r : Region) (e : Queue) (seq : Nat) : List Nat :=
  let base := r.spadAt (keyTile key) ((e.base.toNat + seq % (e.dm1.toNat + 1)) * 4096)
  (List.range 64).map fun i => sectorOf base + i

/-! Which flit comes to its end next (R395). -/

/-- Whether a filling write waits at a full sector of its target (R104). -/
def State.fillWaits (s : State) (f : Flit) : Bool :=
  match f with
  | .pooledStore _ _ _ true _ _ => f.sectors.any fun k => s.sector k = .full
  | _ => false

/-- Whether flit `f` may not pass an earlier flit `e`: they share source, destination and channel. A filling write that
waits at its sector lets later stores to other sectors past. DEDUCED (notes/assumptions/65.md). -/
def State.holdsBack (s : State) (e f : Flit) : Bool :=
  e.src = f.src && e.dst = f.dst && e.vc = f.vc &&
    (!s.fillWaits e || f.sectors = [] || f.sectors.any fun k => e.sectors.contains k)

/-- The pooled route of a data flit. -/
def Flit.pooledKey (f : Flit) : Nat := 2 * (256 * f.src + f.dst) + (f.vc - 3)
def State.pooledAt (s : State) (k : Nat) : PooledRoute := SMap.get {} s.pooled k
def State.setPooled (s : State) (k : Nat) (r : PooledRoute) : State := { s with pooled := SMap.put {} s.pooled k r }

/-- Sectors that the group in progress of a route has written. -/
def PooledRoute.sectors (r : PooledRoute) : List Nat := r.flits.flatMap fun c => c.1.sectors

/-- Whether a group that wrote a sector has not been checked (R134). -/
def State.unchecked (s : State) (sec : Nat) : Bool := s.pooled.any fun c => c.2.sectors.contains sec

/-- Ports whose intake from fabric routes a failed group holds, since they have too few free replay-table entries (R352). -/
def State.heldPorts (s : State) : List Nat :=
  (s.pooled.flatMap fun c => if c.2.held then c.2.sectors.map s.portOf else []) ++
    s.slots.flatMap fun c => match c.2, (s.thread c.1).bind fun t => s.region t.rid with
      | some x, some r => x.queues.flatMap fun e => if e.2.held then (slotSectors c.1 r e.2 e.2.groups).map s.portOf else []
      | _, _ => []

/-- Whether a data flit must wait: its route's group is complete and not checked, or a failure at its port waits for free
replay-table entries, which replays alone may bring (R352). -/
def State.intakeHeld (s : State) (f : Flit) : Bool :=
  match f with
  | .pooledStore _ _ _ _ _ again =>
    8 ≤ (s.pooledAt f.pooledKey).flits.length || (s.pooledAt f.pooledKey).held ||
      (!again && f.sectors.any fun k => s.heldPorts.contains (s.portOf k))
  | .pooledReply _ _ _ _ _ _ _ _ _ _ => 8 ≤ (s.pooledAt f.pooledKey).flits.length
  | _ => false

/-- Whether a load, an atomic or the read of a stream meets a sector that a group in progress has written: no operand is
fed from a group before its check. -/
def State.readWaits (s : State) (f : Flit) : Bool :=
  match f with
  | .loadReq _ _ fa _ _ | .atomicReq _ _ fa _ _ _ _ | .pooledReadReq _ _ _ _ fa _ _ => s.unchecked (sectorOf fa)
  | _ => false

/-- Whether a flit is at its end: it has reached its device, which is up, and waits neither at its sector nor for a check
or for translations that it makes void (R104, R134, R345, R352). -/
def State.canArrive (s : State) (v : Flight) : Bool :=
  v.dev = v.flit.dst && (s.device v.dev).module = .up && !s.fillWaits v.flit && !s.intakeHeld v.flit &&
    !s.readWaits v.flit && v.flit.written.all fun k => !s.inUse k fun w => w = v || s.holdsBack v.flit w.flit

/-- The first flight of a list that `pick` chooses and that may arrive, with the others; `front` holds those before it. -/
def State.nextFlit (s : State) (pick : Flit → Bool) (front : List Flight) :
    List Flight → Option (Flight × List Flight)
  | [] => none
  | v :: r =>
    if pick v.flit && s.canArrive v && front.all fun e => !s.holdsBack e.flit v.flit then some (v, front ++ r)
    else s.nextFlit pick (front ++ [v]) r

/-- Whether the memory that a flit asks for belongs to the partition that asks: the check at a memory's port, which a
graph that has ended meets when its memory has a new owner (R316). -/
def State.admits (s : State) (v : Flight) (n : Nat) : Bool :=
  match v.part with
  | none => true
  | some p =>
    let a := v.flit.addr
    if a < 2 ^ 60 then (s.partition p).ownsHbm a n
    else if a < 2 ^ 61 then (s.partition p).quads.contains ((a - 2 ^ 60) / 2 ^ 21)
    else (s.partition p).quads.contains (quadKey ((a - 2 ^ 61) / 2 ^ 19))

/-- Bytes that a flit asks a memory for. -/
def Flit.reach (f : Flit) : Nat :=
  match f with
  | .loadReq _ _ _ n _ | .atomicReq _ _ _ n _ _ _ | .pooledReadReq _ _ _ _ _ n _ => n
  | .pooledStore _ _ bs _ _ _ => 64 * bs.length
  | _ => 64

/-- The next flit of a kind arrives, and `act` says what it does. One that asks for memory of another partition performs
nothing and is a fence violation (R316). DESIGN CHOICE (notes/assumptions/3.md). -/
def State.arrive (s : State) (pick : Flit → Bool) (act : State → Flit → State) : State :=
  match s.nextFlit pick [] s.flits with
  | some (v, rest) =>
    let s1 := { s with flits := rest }
    if s.admits v v.flit.reach then act s1 v.flit else s1.fenceViolation v.dev
  | none => s

end Sys2Proof.Machine
end

