-- ==== Sys2Proof/Machine/Ops.lean ====
section
/-!
DEFINITION. The shared operations of control threads: issue and completion of an instruction with its energy charge
and the loop step, taken transfers, waiting; tags and completions; taking a trap or a fault and returning from one;
and the end of a graph with its completion record.
-/

namespace Sys2Proof.Machine

/-! Energy (R363 to R367). -/

/-- Reset weight of an energy class, and STW as entry 16 (R363, R364). -/
def resetWeight (k : Nat) : Nat :=
  ([1024, 3072, 2048, 4096, 8192, 16384, 65536, 16384, 2048, 2048, 1024, 1024, 63488, 128, 512, 1310720, 29184] :
    List Nat).getD k 0

/-- The weight in force on a device (R364). -/
def Device.weight (d : Device) (k : Nat) : Nat := (SMap.get none d.weights k).getD (resetWeight k)

/-- Adds a charge to the energy counter V, saturating at 2^64 - 1 (R367). -/
def Thread.charge (t : Thread) (w : Nat) : Thread :=
  { t with energy := BitVec.ofNat 64 (min (t.energy.toNat + w) (2 ^ 64 - 1)) }

/-- Charges the class weight of the instruction at PC, once for each issue (R365). -/
def Thread.chargeIssue (t : Thread) (d : Device) (cls : Nat) : Thread :=
  if t.charged then t else { t.charge (d.weight cls) with charged := true }

/-! Completion of an instruction. -/

/-- loop_step of R196 for a completed word at `at_`, over the stack from its top. -/
def Thread.loopStep (t : Thread) (at_ : Dword) : List LoopEntry → Thread
  | [] => { t with loops := [] }
  | e :: r =>
    if at_ = e.stop then
      if 1 < e.left.toNat then
        { t with loops := { e with left := e.left - 1, idx := e.idx + 1 } :: r, pc := e.start }.writeG e.reg (e.idx + 1)
      else t.loopStep at_ r
    else { t with loops := e :: r }

/-- The thread after an instruction of `len` bytes at its PC has completed without a taken transfer: the PC moves on
and the loop stack steps at the instruction's last word (R152, R196). -/
def Thread.complete (t : Thread) (len : Nat) : Thread :=
  { t with pc := t.pc + BitVec.ofNat 64 len, wait := .none, charged := false }.loopStep
    (t.pc + BitVec.ofNat 64 (len - 4)) t.loops

/-- A taken transfer to `target`: no loop step (R196, R197). -/
def Thread.jump (t : Thread) (target : Dword) : Thread :=
  { t with pc := target, wait := .none, charged := false }

/-- A transfer target inside the thread's stream (R145). -/
def Thread.inStream (t : Thread) (target : Dword) : Bool :=
  target.toNat % 4 = 0 && target.toNat < 4 * t.words

/-- Runs a meaning for the issuing thread; without one there is nothing to issue. -/
def onThread (s : State) (f : Thread → Res State) : Res State :=
  match s.thread s.cur with
  | some t => f t
  | none => .fault .noIssuer

/-- The device of the issuing thread. -/
def State.curDevice (s : State) : Device := s.device (keyDev s.cur)

/-- The issuing thread's instruction, of energy class `cls` and `len` bytes, has completed and left the thread as `t`. -/
def retire (s : State) (t : Thread) (cls len : Nat) : Res State :=
  .next (s.setThread s.cur ((t.chargeIssue s.curDevice cls).complete len))

/-- The same for a taken transfer. -/
def transfer (s : State) (t : Thread) (cls : Nat) (target : Dword) : Res State :=
  .next (s.setThread s.cur ((t.chargeIssue s.curDevice cls).jump target))

/-- The thread waits at its instruction, which is issued again later; nothing is performed (R41).
DEDUCED (notes/assumptions/14.md). -/
def hold (s : State) (t : Thread) (cls : Nat) : Res State :=
  .next { s.setThread s.cur { t.chargeIssue s.curDevice cls with wait := .issue } with idle := true }

/-- The thread waits at an instruction that has not issued yet: nothing is charged. -/
def stall (s : State) (t : Thread) : Res State :=
  .next { s.setThread s.cur { t with wait := .issue } with idle := true }

/-- An A-format instruction under its guard: a false guard changes nothing but the PC and charges nothing (R149). -/
def guarded (s : State) (g : Guard) (f : Thread → Res State) : Res State :=
  onThread s fun t =>
    if t.guardOn g then f t else .next (s.setThread s.cur (t.complete 4))

/-! Numeric flags (R89, R90, R186). -/

/-- ORs flag bits into FLAGS[6:0]. -/
def Thread.raise (t : Thread) (fl : Dword) : Thread := { t with flags := t.flags ||| (fl &&& 0x7F#64) }

/-- POISONRD (R89). -/
def poisonRd : Dword := 0x40

/-- Adds to BADSPARSE, saturating at 0xFFFF, and sets SPARSEBAD when the count is not zero (R71, R90). -/
def Thread.addBadSparse (t : Thread) (n : Nat) : Thread :=
  if n = 0 then t
  else
    let c := min ((t.flags >>> 16).toNat % 65536 + n) 65535
    { t with flags := (t.flags &&& 0xFFFFFFFF0000FFFF#64) ||| BitVec.ofNat 64 (c * 65536) ||| 0x20#64 }

/-! Tags (R108, R109, R201). -/

/-- An operation that names tag `n` issues: the bit clears, the hidden count rises. -/
def Thread.countTag (t : Thread) (n : BitVec 6) : Thread :=
  { t with tags := t.tags &&& ~~~(1#64 <<< n.toNat),
           tagCount := SMap.put 0 t.tagCount n.toNat (SMap.get 0 t.tagCount n.toNat + 1) }

/-- The count of tag `n` stands at 0xFFFF, so an issue that names it waits. -/
def Thread.tagFull (t : Thread) (n : BitVec 6) : Bool := 65535 ≤ SMap.get 0 t.tagCount n.toNat

/-- A completion for tag `n`: the count falls, and at zero the bit is set; a bit that goes from 0 to 1 ends a WFI. -/
def Thread.completeTag (t : Thread) (n : BitVec 6) : Thread :=
  let c := SMap.get 0 t.tagCount n.toNat - 1
  let t1 := { t with tagCount := SMap.put 0 t.tagCount n.toNat c }
  if c = 0 then
    { t1 with tags := t.tags ||| (1#64 <<< n.toNat),
              status := if t.status = .wfi ∧ t.tags.getLsbD n.toNat = false then .running else t.status }
  else t1

/-- The registers still awaited once access `id` has written register `r`: no longer those of earlier accesses, whose
results come too late (R161, R222). -/
def landed (r id : Nat) : List (Nat × Nat) → List (Nat × Nat)
  | [] => []
  | c :: l => if c = (r, id) then l else if c.1 = r then landed r id l else c :: landed r id l

/-- The late result of access `id` reaches its register, unless a later write has taken precedence (R161, R222). -/
def Thread.land (t : Thread) (id : Nat) (r : Reg) (v : Dword) : Thread :=
  if t.pending.contains (r.toNat, id) then
    { t with g := if r = 0 then t.g else SMap.put 0 t.g r.toNat v, pending := landed r.toNat id t.pending }
  else t

/-- Access `i` has performed. -/
def Thread.close (t : Thread) (i : Nat) : Thread :=
  { t with outstanding := t.outstanding.filter (fun j => j != i), fstores := t.fstores.filter (fun j => j != i)
           acquiring := t.acquiring.filter (fun j => j != i), places := t.places.filter (fun c => c.1 != i) }

/-- The thread after an access that it waited for has performed: it goes on, past the instruction when it waited at it. -/
def Thread.served (t : Thread) (a : Access) : Thread :=
  if a.late then { t with wait := .none } else t.complete 4

/-- An access on another device that the thread waits for has performed (R209, R398). -/
def Thread.homecoming (t : Thread) (i : Nat) : Thread :=
  match t.wait with
  | .away a => if a.id = i then t.served a else t
  | _ => t

/-- Applies a completion to a thread's live state or to its saved image (R360). -/
def Thread.apply (t : Thread) (u : Update) : Thread :=
  let t1 := (t.raise u.flags).addBadSparse u.badSparse
  let t2 := u.regs.foldl (fun x c => x.land u.id c.1 c.2) t1
  let t3 := if u.performed then (t2.close u.id).homecoming u.id else t2
  match u.tag with
  | some n => t3.completeTag n
  | none => t3

/-- A completion for a thread named by key and CTX_ID: applied at once while the context is resident, else queued for
its image (R90, R142, R360). A completion for a context that has ended is dropped. -/
def State.deliver (s : State) (u : Update) : State :=
  match s.thread u.key with
  | some t =>
    if t.ctxId = u.ctx then s.setThread u.key (t.apply u) else { s with updates := s.updates ++ [u] }
  | none => { s with updates := s.updates ++ [u] }

/-! Trap causes and records (R347, R350, R351). -/

def Cause.code : Cause → Nat
  | .illegal => 0x01 | .fetch => 0x02 | .privileged => 0x03 | .malformed => 0x04 | .binding => 0x05 | .domain => 0x06
  | .program => 0x08 | .breakpoint => 0x09
  | .address => 0x10 | .alignment => 0x11 | .translation => 0x12 | .poison => 0x13

/-- TCAUSE[31:0]. -/
def tcause (c : Cause) (ag : Nat) (stream : Bool) (arg : Nat) : BitVec 32 :=
  BitVec.ofNat 32 (c.code + ag * 2 ^ 8 + (if stream then 2 ^ 11 else 0) + arg % 2 ^ 16 * 2 ^ 16)

/-- A record with every field zero but the cause. -/
def FaultRec.blank (cause : BitVec 32) : FaultRec := ⟨cause, 0, 0, 0, 0, 0, 0, 0, 0, 0, 0, 0, 0⟩

/-! The graph and its threads. -/

/-- Every position (part, rx, ry) of a region. -/
def Region.positions (r : Region) : List (Nat × Nat × Nat) :=
  (List.range r.parts).flatMap fun part =>
    (List.range r.h).flatMap fun y => (List.range r.w).map fun x => (part, x, y)

def Region.keys (r : Region) : List Nat := r.positions.map fun c => r.keyAt c.1 c.2.1 c.2.2

/-- A position of a region as one number, and the name of a thread: its region and its position. -/
def posKey (part rx ry : Nat) : Nat := (part * 32 + ry) * 32 + rx
def threadName (rid part rx ry : Nat) : Nat := rid * 2 ^ 20 + posKey part rx ry
def Thread.name (t : Thread) : Nat := threadName t.rid t.part t.rx t.ry

/-- Key of a byte of a position's scratchpad share in an image, and of the vault allocation of one of the region's quads, which
is named by its place among them. -/
def shareKey (pos off : Nat) : Nat := pos * 2 ^ 19 + off
def vaultKey (part qx qy off : Nat) : Nat := 2 ^ 60 + ((part * 32 + qy) * 32 + qx) * 2 ^ 21 + off

/-- The memory of a region in its units: first byte in the store of bytes, first key in the image, and length. -/
def Region.spadShares (r : Region) : List (Nat × Nat × Nat) :=
  r.positions.flatMap fun c => (List.range (r.spadBytes / 2 ^ 14)).map fun k =>
    (r.spadAt (r.tileAt c.1 c.2.1 c.2.2) (k * 2 ^ 14), shareKey (posKey c.1 c.2.1 c.2.2) (k * 2 ^ 14), 2 ^ 14)
def Region.vaultShares (r : Region) : List (Nat × Nat × Nat) :=
  (r.origins.zipIdx).flatMap fun o =>
    (List.range ((o.1.oy + r.h - 1) / 2 - o.1.oy / 2 + 1)).flatMap fun qy =>
      (List.range ((o.1.ox + r.w - 1) / 2 - o.1.ox / 2 + 1)).flatMap fun qx =>
        (List.range (r.vaultBytes / 2 ^ 16)).map fun k =>
          (r.vaultAt (quadKey (planeTile o.1.dev ((o.1.ox / 2 + qx) * 2) ((o.1.oy / 2 + qy) * 2))) (k * 2 ^ 16),
            vaultKey o.2 qx qy (k * 2 ^ 16), 2 ^ 16)
def Region.shares (r : Region) : List (Nat × Nat × Nat) := r.spadShares ++ r.vaultShares

/-- The threads of a graph: live, or in its image while it is switched out. -/
def State.threadsOf (s : State) (rid : Nat) (r : Region) : List Thread :=
  match SMap.get none s.images rid with
  | some im => im.threads.filterMap (fun c => c.2)
  | none => r.keys.filterMap fun k => s.thread k

/-- The completion record (R44, R414). -/
def completionRecord (status detail : Nat) (ctx : Dword) (t0 t1 : Nat) (ts : List Thread) : List Byte :=
  let v := min (ts.foldl (fun (a : Nat) (t : Thread) => a + t.energy.toNat) 0) (2 ^ 64 - 1)
  let bad := min (ts.foldl (fun (a : Nat) (t : Thread) => a + (t.flags >>> 16).toNat % 65536) 0) 65535
  let fl := ts.foldl (fun (a : Dword) (t : Thread) => a ||| (t.flags &&& 0x7F#64)) 0#64
  leBytes status 4 ++ leBytes detail 4 ++ leBytes ctx.toNat 8 ++ leBytes t0 8 ++ leBytes t1 8 ++
    leBytes (v / 65536) 8 ++ leBytes (v % 65536) 2 ++ leBytes bad 2 ++ leBytes fl.toNat 1 ++ leBytes 0 19

/-- Whether a flit carries an access or a stream's data of a context. -/
def Flit.of (x : Flit) (ctx : Dword) : Bool :=
  match x with
  | .loadReq w _ _ _ _ | .atomicReq w _ _ _ _ _ _ | .storeAck w _ _ _ _ | .pooledStore w _ _ _ _ _ => w.ctx = ctx
  | .loadReply r | .atomicReply r => r.who.ctx = ctx
  | .invocation i => i.who.ctx = ctx
  | .invResult v => v.who.ctx = ctx
  | .pooledReadReq _ c _ _ _ _ _ | .pooledReply _ c _ _ _ _ _ _ _ _ => c = ctx
  | .launch _ _ _ | .sched _ _ _ | .bound _ => false

/-- Whether a flit is of a link queue of a context. -/
def Flit.binds (x : Flit) (ctx : Dword) : Bool := match x with | .bound b => b.ctx = ctx | _ => false

/-- Whether a write of a context is still on its way, which a host that finds DONE full must see (R139). -/
def State.writesTravel (s : State) (ctx : Dword) : Bool :=
  (s.flits.any fun v => v.flit.of ctx && match v.flit with
    | .pooledStore _ _ _ _ _ _ | .atomicReq _ _ _ _ _ _ _ | .invocation _ => true
    | _ => false) || s.invocations.any fun i => i.who.ctx = ctx

/-- Steps 1 to 3 of R43 for a launch: the record is written and DONE set full as one action, whatever the sector's
state was; the launcher's tag completes. A DRY fault keeps both pending, and so do writes of the graph
that are still on their way (R139), a page or memory that is not ready, and translations that the write makes void (R341,
R345, R373); any other fault counts under DONELOST (R47). -/
def State.writeDone (s : State) (d : PendingDone) : State :=
  let l := d.launch
  let bs := d.bytes
  let tagged (x : State) : State :=
    match l.launcher with
    | some (k, c) =>
      if bitOf l.tagByte 7 then
        x.deliver { key := k, ctx := c, tag := some (BitVec.ofNat 6 l.tagByte) }
      else x
    | none => x
  let lost (x : State) : State :=
    let v := x.device l.dev
    let p := v.pol l.part
    tagged (x.setDevice l.dev (v.setPol l.part { p with doneLost := min (p.doneLost + 1) 0xFFFFFFFF, lostCtx := d.ctx }))
  let later (x : State) (dry : Bool) : State := { x with doneRetry := x.doneRetry ++ [{ d with dry := dry }] }
  if s.writesTravel d.ctx then later s false
  else if l.done.toNat / 2 ^ 56 ≠ 0 ∨ l.done.toNat % 64 ≠ 0 then lost s
  else
    match translate s l.part (l.dev * 896) l.super l.done.toNat .write with
    | .ok fa s1 =>
      if s1.memOff l.dev fa || s1.inUse (sectorOf fa) (fun _ => false) then later s1 false
      else
        let s2 := (s1.storeBytes fa bs).setSector (sectorOf fa) .full
        tagged (match l.host with | some b => { s2 with msix := s2.msix ++ [(b, l.part)] } | none => s2)
    | .fault k _ s1 => if k = 5 then later s1 true else lost s1
    | .busy s1 => later s1 false

/-- Tiles of which no other graph holds a slot select no spine (R384). -/
def State.freeSpines (s : State) (rid : Nat) (keys : List Nat) : State :=
  keys.foldl (fun x k =>
    let tile := keyTile k
    if x.regions.all fun c => c.1 = rid || (match c.2 with
        | some r => r.state = .saved || r.keys.all fun j => keyTile j != tile
        | none => true) then
      let d := x.device (tileDev tile)
      x.setDevice (tileDev tile) { d with tileSpine := SMap.put 0 d.tileSpine (tileIndex tile) 0
                                          spineNext := SMap.put 0 d.spineNext (tileIndex tile) 0 }
    else x) s

/-- The keys of the slots that a region holds. -/
def Region.held (r : Region) : List Nat := if r.state = .saved then [] else r.keys

/-- What acts of a graph ends: its slots, threads, items and image go. A filling write of it that waits at its sector is
abandoned (R229). -/
def State.stopRegion (s : State) (rid : Nat) (r : Region) : State :=
  let s1 := r.held.foldl (fun x k =>
    let y := { (x.dropThread k).dropSlot k with parked := x.parked.filter (fun c => c.2 != k) }
    match SMap.get none y.staging (keyTile k) with
    | some st => if st.slot = keySlot k then { y with staging := SMap.put none y.staging (keyTile k) none } else y
    | none => y) (s.dropWalks r.launch.part r.held)
  let tn := (SMap.get [] s1.tnext r.launch.part).filter (fun c => c.1 / 2 ^ 20 != rid)
  { s1 with
    flits := s1.flits.filter fun v => !(v.flit.of r.ctxId && v.dev = v.flit.dst && s.fillWaits v.flit) && !v.flit.binds r.ctxId
    blockLoads := s1.blockLoads.filter fun b => b.ctx != r.ctxId
    images := SMap.put none s1.images rid none
    tnext := SMap.put [] s1.tnext r.launch.part tn
    updates := s1.updates.filter (fun u => u.ctx != r.ctxId) }

/-- Releases a region (R34, R43 step 4): what acts of it is gone, its scratchpad shares and vault allocations are scrubbed but
on a device whose memories are retained. Residency tags stay (R330). -/
def State.releaseRegion (s : State) (rid : Nat) (r : Region) (retained : Nat → Bool) : State :=
  let s1 := s.stopRegion rid r
  let s2 := if r.state = .saved then s1
    else (r.shares.filter fun c => !retained (addrDev c.1)).foldl (fun x c => x.scrub c.1 c.2.2) s1
  ((s2.unbindRoutes fun b => r.held.contains (b / 8) || linkOf r.launch.n b).freeSpines rid r.held).dropRegion rid

/-- A group member's record has been written; the group ends with its last member (R54). -/
def State.leaveGroup (s : State) (l : LaunchRec) : State :=
  if l.group = 0 then s
  else
    let k := l.part * 2 ^ 14 + l.group
    let g := SMap.get {} s.groups k
    let g1 := { g with ended := g.ended + 1 }
    { s with groups := SMap.put {} s.groups k (if g1.ended = g1.admitted.length then {} else g1) }

/-- Frees a region, on every device that it lies on. -/
def State.freeRegion (s : State) (rid : Nat) (r : Region) : State := s.releaseRegion rid r fun _ => false

/-- Step 4 of R43 for a graph that has ended. -/
def State.freeEnded (s : State) (rid : Nat) : State :=
  match s.region rid with
  | some r => if r.state = .ending then s.freeRegion rid r else s
  | none => s

/-- The record of a graph or of a launch is written, or waits; one of a graph that was admitted (`rid` is not 0) leaves its
group with its record, and its region is freed then, or at once where frames are missing (R43, R47, R54). -/
def State.settleDone (s : State) (d : PendingDone) : State :=
  let s1 := s.writeDone d
  match s1.doneRetry.drop s.doneRetry.length with
  | [] => if d.rid = 0 then s1 else (s1.freeEnded d.rid).leaveGroup d.launch
  | p :: _ => if p.dry then s1.freeEnded d.rid else s1

/-- The saddle unit beside an address (R112); vault and stack units keep separate entries for each partition.
DEDUCED (notes/assumptions/26.md). -/
def saddleUnit (a part : Nat) : Nat :=
  if a < 2 ^ 60 then 2 ^ 60 + (a / 2 ^ 36) * 16 + part
  else if a < 2 ^ 61 then 2 ^ 50 + (a - 2 ^ 60) / 2 ^ 21 * 16 + part
  else 2 ^ 40 + (a - 2 ^ 61) / 2 ^ 19

/-- A load of SDL_LOAD takes effect: all 16 words of the entry as one action (R315). -/
def State.loadEntry (s : State) (part : Nat) (c : Dword × List Word) : State :=
  { s with saddles := SMap.put [] s.saddles (saddleUnit (c.1.toNat / 64 * 64) part * 16 + c.1.toNat % 16) c.2 }

/-- The loads that threads of a graph have waiting take effect before the threads go. -/
def State.finishLoads (s : State) (rid : Nat) (r : Region) : State :=
  (s.threadsOf rid r).foldl (fun x t => t.priv.sdlWords.foldl (fun y c => y.loadEntry r.launch.part c) x) s

/-- Ends a region with its completion record: the graph acts no more, then DONE, tag, and the region is freed (R43). One that
is switched out holds no tiles. DEDUCED (notes/assumptions/104.md). -/
def State.endRegion (s : State) (rid : Nat) (r : Region) (bs : List Byte) (saveset : List Piece) : State :=
  if r.state = .ending then s
  else
    let s1 := (s.finishLoads rid r).stopRegion rid r
    let s2 := if r.state = .saved then s1.freeRegion rid r
      else s1.setRegion rid { r with state := .ending, gateTick := none, acks := [], leaving := false, lease := {} }
    s2.settleDone
      { rid := rid, launch := r.launch, bytes := bs, devs := r.origins.map fun o => o.dev, admission := r.admission
        saveset := saveset, ctx := r.ctxId }

/-- Ends a graph: completion record, DONE, tag, then the region is freed (R43, R52, R348). -/
def State.endGraph (s : State) (rid status detail : Nat) : State :=
  match s.region rid with
  | none => s
  | some r => s.endRegion rid r (completionRecord status detail r.ctxId r.tStart s.now (s.threadsOf rid r)) r.saveset

/-! Taking a trap or a fault (R348, R349). -/

/-- A terminal cause on the issuing thread: the graph ends with STATUS 4 and DETAIL the cause (R348).
DEDUCED (notes/assumptions/22.md). -/
def terminal (s : State) (c : Cause) (arg : Nat) : Res State :=
  onThread s fun t => .next (s.endGraph t.rid 4 (tcause c 0 false arg).toNat)

/-- The illegal-instruction trap (R148). -/
def illegal (s : State) : Res State := terminal s .illegal 0

/-! Context images (R318, R358). -/

/-- Bytes of the image of one tile, and the first byte behind the images of all tiles. -/
def Region.tileImage (r : Region) : Nat := 0x22000 + r.spadBytes
def Region.vaultImage (r : Region) : Nat := r.positions.length * r.tileImage

/-- 64 KiB frames that an image takes (R318): an image of each tile with its share, a segment of each quad, and the
region's record. -/
def Region.imageSize (r : Region) : Nat :=
  (r.vaultImage + r.vaultShares.length * 2 ^ 16 + 0x1000 + 0xFFFF) / 2 ^ 16

/-- The fabric address of a byte of the image. -/
def Region.imageAddr (r : Region) (off : Nat) : Nat := r.imageFrames.getD (off / 2 ^ 16) 0 + off % 2 ^ 16

/-- Takes frames from the pool until the image has `n`; a dry pool ends the attempt (R358). -/
def State.takeImageFrames (s : State) (rid n : Nat) : Nat → State × Bool
  | 0 => (s, true)
  | fuel + 1 =>
    match s.region rid with
    | none => (s, false)
    | some r =>
      if n ≤ r.imageFrames.length then (s, true)
      else
        match takeFrame s r.launch.dev r.launch.part false with
        | .fault _ s1 | .busy s1 => (s1, false)
        | .frame fa s1 => (s1.setRegion rid { r with imageFrames := r.imageFrames ++ [fa] }).takeImageFrames rid n fuel

/-- The 64 bytes of a fault record (R351). -/
def FaultRec.bytes (f : FaultRec) : List Byte :=
  leBytes f.cause.toNat 4 ++ leBytes f.acc.toNat 1 ++ leBytes f.slot.toNat 1 ++ leBytes 0 2 ++ leBytes f.ea.toNat 8 ++
    leBytes f.group.toNat 8 ++ leBytes f.done.toNat 8 ++ leBytes f.chunk.toNat 4 ++ leBytes f.pc.toNat 4 ++
    leBytes f.i0.toNat 4 ++ leBytes f.i1.toNat 4 ++ leBytes f.i2.toNat 4 ++ leBytes f.i3.toNat 4 ++
    leBytes f.i4.toNat 4 ++ leBytes 0 4

/-- Where a thread's record lies in the image of its tile: the scalar one in the header segment, that of a binding
context in the segment behind it. DESIGN CHOICE (notes/assumptions/25.md). -/
def ItemSource.recordOffset (i : ItemSource) : Nat :=
  match i with
  | .stream ag => 0x1E00 + 64 * ag.toNat
  | _ => 0xFC0

/-- The place in the image of the record of a thread of a position. -/
def Region.recordAddr (r : Region) (part rx ry : Nat) (src : ItemSource) : Nat :=
  r.imageAddr (((part * r.h + ry) * r.w + rx) * r.tileImage + src.recordOffset)

/-- The state and the region when the image has its frames, which are taken where it has none yet; none with a dry pool. -/
def State.framed (s : State) (rid : Nat) (r : Region) : Option (State × Region) :=
  match s.takeImageFrames rid r.imageSize (r.imageSize + 1) with
  | (s1, true) => (s1.region rid).map fun r1 => (s1, r1)
  | (_, false) => none

/-- Writes a record at offset `o` of an image that has its frames. The block that it lies in is written whole at the next
pre-emption. -/
def State.recordAt (s : State) (rid : Nat) (r : Region) (o : Nat) (f : FaultRec) : State :=
  (s.storeBytes (r.imageAddr o) f.bytes).setRegion rid { r with imageHashes := SMap.put 0 r.imageHashes (o / 4096) 0 }

/-- The scheduler writes a thread's record into its context image; a dry pool, or translations that the write makes void, leave
the record with the scheduler until it can (R345, R349, R351, R358). -/
def State.writeRecord (s : State) (rid part rx ry : Nat) (it : Item) : State :=
  match (s.region rid).bind (s.framed rid) with
  | some c =>
    let o := ((part * c.2.h + ry) * c.2.w + rx) * c.2.tileImage + it.src.recordOffset
    if c.1.rangeInUse (c.2.imageAddr o) 64 then s else c.1.recordAt rid c.2 o it.record
  | none => s

/-- Adds a trap item to a thread; the thread's first item joins the end of its partition's TNEXT list (R349). The record
of a fault goes into the context image (R351). -/
def State.addItem (s : State) (key : Nat) (t : Thread) (it : Item) : State :=
  let s0 := s.setThread key { t with items := t.items ++ [it] }
  let s1 := if it.src = .core then s0 else s0.writeRecord t.rid t.part t.rx t.ry it
  if t.items = [] then
    match s.region t.rid with
    | some r =>
      { s1 with tnext :=
        SMap.put [] s1.tnext r.launch.part (SMap.get [] s1.tnext r.launch.part ++ [(t.name, false)]) }
    | none => s1
  else s1

/-- A delivered cause of the control core: the thread, left as `t` with the saved PC in place, stops and an item is
queued for system software (R199, R349). -/
def takeCoreTrap (s : State) (t : Thread) (c : Cause) (code : BitVec 16) : Res State :=
  let tc := tcause c 0 false code.toNat
  .next (s.addItem s.cur { t with status := .stopped, wait := .none } ⟨.core, tc, FaultRec.blank tc⟩)

/-- ACC of a fault record (R351): kind of access, effective scope, stream mode. -/
def accField (kind : WalkKind) (scope mode : Nat) : BitVec 8 :=
  let k := match kind with | .read => 0 | .write => 1 | .readWrite => 2 | .fetch => 3
  BitVec.ofNat 8 (k + scope * 4 + mode * 16)

/-- A scalar fault at ag0 of thread `key`: ag0 writes the record and holds the access (R208, R349). -/
def State.scalarFault (s : State) (key : Nat) (t : Thread) (h : Held) (c : Cause) (arg : Nat) (kind : WalkKind)
    (scope : Nat) (ea group : Dword) (pc : Dword) : State :=
  let tc := tcause c 0 false arg
  let f : FaultRec :=
    { FaultRec.blank tc with
      acc := accField kind scope 0, slot := BitVec.ofNat 8 (keySlot key), ea := ea, group := group, pc := pc.setWidth 32 }
  s.addItem key { t with held := h } ⟨.scalar, tc, f⟩

/-- The TNEXT list of a partition after a thread's listed item has been resolved: the thread leaves it, and joins its
end again while it holds a further item (R349, R353). -/
def State.relist (s : State) (part name : Nat) (more : Bool) : State :=
  let others := (SMap.get [] s.tnext part).filter (fun c => c.1 != name)
  { s with tnext := SMap.put [] s.tnext part (if more then others ++ [(name, false)] else others) }

/-- A value that the manual leaves open: the next draw of an opaque constant, and the state after it.
DESIGN CHOICE (notes/assumptions/4.md). -/
def State.draw (s : State) : Dword × State := (Config.freeValue s.freeDraws, { s with freeDraws := s.freeDraws + 1 })

/-- The next `n` draws. -/
def State.drawMany (s : State) (n : Nat) : List Dword × State :=
  ((List.range n).map fun i => Config.freeValue (s.freeDraws + i), { s with freeDraws := s.freeDraws + n })

end Sys2Proof.Machine
end

