-- ==== Sys2Proof/Machine/Edges.lean ====
section
/-!
DEFINITION. The token buffers of a slot's datapath (R257, R288, R289), which boxes they join (R258, R269, R270), the
reserved slot and the iteration numbers (R294 to R296), and what every datapath event does about drains and switches
that end with it (R246, R249).
-/

namespace Sys2Proof.Machine

/-! Names of buffers: class*512 + unit. Ring nodes are the lane boxes 0 to 255 and the corners nw, ne, sw, se as 256 to
259; router ports north, east, south, west are nodes 260 to 263. -/

def edgeX (l : Nat) : Nat := l
def edgeY (l : Nat) : Nat := 512 + l
def edgeZ (l : Nat) : Nat := 1024 + l
def edgeEin (l : Nat) : Nat := 1536 + l
def edgeEout (l : Nat) : Nat := 2048 + l
/-- Written by a ring node for the following one, and for the preceding one. -/
def edgeFw (n : Nat) : Nat := 2560 + n
def edgeRv (n : Nat) : Nat := 3072 + n
/-- From a corner to the router port of its side, and back. -/
def edgeCornerOut (c : Nat) : Nat := 3584 + c
def edgeCornerIn (c : Nat) : Nat := 4096 + c
/-- Mesh link into a router port, and the die-to-die bridge ahead of it. -/
def edgeLink (p : Nat) : Nat := 4608 + p
def edgeBridge (p : Nat) : Nat := 5120 + p

/-- The arc of a lane, as 0 west, 1 north, 2 south, 3 east. -/
def laneArc (l : Nat) : Nat := l / 64

/-- The ring (R269): west, nw, north, ne, east, se, south, sw. -/
def ringNext (n : Nat) : Nat :=
  if n = 63 then 256 else if n = 256 then 64 else if n = 127 then 257 else if n = 257 then 192
  else if n = 255 then 259 else if n = 259 then 128 else if n = 191 then 258 else if n = 258 then 0 else n + 1

def ringPrev (n : Nat) : Nat :=
  if n = 256 then 63 else if n = 64 then 256 else if n = 257 then 127 else if n = 192 then 257
  else if n = 259 then 255 else if n = 128 then 259 else if n = 258 then 191 else if n = 0 then 258 else n - 1

/-- The router port of a corner's side, and the corner of a router port (R270). -/
def cornerPort (c : Nat) : Nat := if c = 0 then 3 else if c = 1 then 0 else if c = 2 then 2 else 1
def portCorner (p : Nat) : Nat := if p = 0 then 1 else if p = 1 then 3 else if p = 2 then 2 else 0

/-- The table kind and instance of a box node. -/
def nodeKind (n : Nat) : Nat := if n < 256 then 2 else if n < 260 then 3 else 4
def nodeUnit (n : Nat) : Nat := if n < 256 then n else if n < 260 then n - 256 else n - 260

/-- The buffer of input code `c` of a box node (R269, R270). -/
def boxInput (n c : Nat) : Nat :=
  if 260 ≤ n then (if c = 0 then edgeLink (n - 260) else edgeCornerOut (portCorner (n - 260)))
  else if c = 0 then edgeFw (ringPrev n)
  else if c = 1 then edgeRv (ringNext n)
  else if c = 2 then edgeZ n
  else if n < 256 then edgeEin n
  else edgeCornerIn (n - 256)

/-- Capacity of a buffer (R289). A buffer that the manual does not size holds 2 tokens.
DESIGN CHOICE (notes/assumptions/7.md). -/
def edgeCap (e : Nat) : Nat :=
  if edgeBridge 0 ≤ e then 64 else if (edgeCornerOut 0 ≤ e ∧ e < edgeCornerIn 0) ∨ edgeLink 0 ≤ e then 8 else 2

/-- The buffers that share the capacity of `e`: both inputs of a router port, a FIFO each (R289). -/
def edgePool (e : Nat) : List Nat :=
  if edgeBridge 0 ≤ e then [e]
  else if edgeLink 0 ≤ e then [e, edgeCornerOut (portCorner (e - edgeLink 0))]
  else if edgeCornerOut 0 ≤ e ∧ e < edgeCornerIn 0 then [e, edgeLink (cornerPort (e - edgeCornerOut 0))]
  else [e]

/-! Tokens. -/

def Slot.edge (x : Slot) (e : Nat) : List Token := SMap.get [] x.edges e
def Slot.setEdge (x : Slot) (e : Nat) (l : List Token) : Slot := { x with edges := SMap.put [] x.edges e l }
def Slot.pushEdge (x : Slot) (e : Nat) (t : Token) : Slot := x.setEdge e (x.edge e ++ [t])
def Slot.popEdge (x : Slot) (e : Nat) : Slot := x.setEdge e ((x.edge e).drop 1)
def Slot.headEdge (x : Slot) (e : Nat) : Option Token := (x.edge e).head?
def Slot.port (x : Slot) (p : Nat) : Port := SMap.get {} x.ports p
def Slot.setPort (x : Slot) (p : Nat) (v : Port) : Slot := { x with ports := SMap.put {} x.ports p v }
def Slot.engine (x : Slot) (e : Nat) : Engine := SMap.get {} x.engines e
def Slot.lane (x : Slot) (l : Nat) : Lane := SMap.get {} x.lanes l
def Slot.setLane (x : Slot) (l : Nat) (v : Lane) : Slot := { x with lanes := SMap.put {} x.lanes l v }
def Slot.box (x : Slot) (n : Nat) : Box := SMap.get {} x.boxes n
def Slot.setBox (x : Slot) (n : Nat) (v : Box) : Slot := { x with boxes := SMap.put {} x.boxes n v }
def Slot.ag (x : Slot) (a : Nat) : AgCtx := SMap.get {} x.ags a
def Slot.setAg (x : Slot) (a : Nat) (c : AgCtx) : Slot := { x with ags := SMap.put {} x.ags a c }
def Slot.entries (x : Slot) (p : Nat) : List SbEntry := SMap.get [] x.scoreboard p
def Slot.setEntries (x : Slot) (p : Nat) (l : List SbEntry) : Slot :=
  { x with scoreboard := SMap.put [] x.scoreboard p l }
def Slot.queue (x : Slot) (q : Nat) : Queue := SMap.get {} x.queues q
def Slot.setQueue (x : Slot) (q : Nat) (v : Queue) : Slot := { x with queues := SMap.put {} x.queues q v }

/-- The rule of the reserved slot (R296) for a buffer of capacity `cap` that holds `u` tokens. -/
def accepts (cap u : Nat) (oi iter : BitVec 16) : Bool := if iter = oi then u < cap else u + 1 < cap

/-- Tokens that stand in the capacity of buffer `e`. -/
def Slot.used (x : Slot) (e : Nat) : Nat := ((edgePool e).map fun d => (x.edge d).length).sum

/-- Whether buffer `e` accepts a token. -/
def Slot.room (x : Slot) (oi : BitVec 16) (e : Nat) (t : Token) : Bool := accepts (edgeCap e) (x.used e) oi t.iter

/-- Tokens at the end of a bridge go on into the router port while that has room. -/
def Slot.crossBridge (x : Slot) (oi : BitVec 16) (p : Nat) : Slot :=
  (x.edge (edgeBridge p)).foldl (fun (a : Slot × Bool) t =>
    if a.2 && a.1.room oi (edgeLink p) t then ((a.1.popEdge (edgeBridge p)).pushEdge (edgeLink p) t, true)
    else (a.1, false)) (x, true) |>.1

/-- The buffer that a token on a mesh link enters, over a bridge or not, and whether it has room. -/
def Slot.linkEntry (x : Slot) (p : Nat) (bridged : Bool) : Nat :=
  if bridged || x.edge (edgeBridge p) != [] then edgeBridge p else edgeLink p

def Token.isData (t : Token) : Bool := t.kind = .data

/-! Units without tokens: EMPTY of R242. -/

/-- Whether no instance of arc `a` (0 to 3) holds a token. -/
def Slot.arcEmpty (x : Slot) (a : Nat) : Bool :=
  let mine (n : Nat) : Bool := n < 256 && laneArc n = a
  (x.edges.all fun c => !(mine (c.1 % 512) && c.1 < edgeCornerOut 0)) &&
    x.boxes.all fun c => !(mine c.1 && c.2.hold.isSome)

/-- Whether the array holds no token, panel, or output not yet accepted. An EOS that it has taken and not answered is none.
DESIGN CHOICE (notes/assumptions/110.md). -/
def Slot.arrayEmpty (x : Slot) : Bool :=
  let bare (l : Latch) : Bool := l.fill = [] && l.full.all Option.isNone
  bare x.latchA && bare x.latchB && x.outs = [] && x.gather = []

/-- Whether no router port or corner box holds a token. -/
def Slot.routerEmpty (x : Slot) : Bool :=
  (x.edges.all fun c => c.1 < edgeCornerOut 0 && !(256 ≤ c.1 % 512)) &&
    x.boxes.all fun c => !(256 ≤ c.1 && c.2.hold.isSome)

def Slot.empty (x : Slot) : Bool := x.arcEmpty 0 && x.arcEmpty 1 && x.arcEmpty 2 && x.arcEmpty 3 && x.arrayEmpty &&
  x.routerEmpty

/-! Iterations (R294, R295). -/

/-- The counter of the thread's part. -/
def Region.oiOf (r : Region) (part : Nat) : BitVec 16 := SMap.get 0 r.oi part

/-- The part's counter has passed the ITER of the next wave. -/
def Port.behind (p : Port) (oi : BitVec 16) : Bool := 64 < (p.iter - oi).toNat

/-- A source that is about to emit: one that starts stamps its first wave with the part's counter, each later wave has
ITER one higher. One that starts again behind an EOS goes on from its last wave while that is in the window, so that ITER
never falls on an edge. DEDUCED (notes/assumptions/38.md). -/
def Port.start (p : Port) (oi : BitVec 16) : Port :=
  if p.active then p
  else
    { p with active := true, begun := true, sent := 0, marked := 0,
             iter := if p.begun ∧ p.behind oi = false then p.iter else oi }

/-- Whether the window of 64 iterations lets the source emit: it waits before it emits ITER = OI + 64 (R295). -/
def Port.inWindow (p : Port) (oi : BitVec 16) : Bool := p.iter != oi + 64

/-- The source after one token of a wave of `n`. -/
def Port.emitted (p : Port) (n : Nat) : Port :=
  if n ≤ p.sent + 1 then { p with sent := 0, iter := p.iter + 1 } else { p with sent := p.sent + 1 }

/-! What ends with a datapath event. -/

/-- The thread, region and slot that a datapath event acts in; a gated or absent slot takes no token (R368). -/
def State.inSlot (s : State) (key : Nat) (f : Thread → Region → Slot → State) : State :=
  match s.thread key with
  | none => s
  | some t =>
    match s.region t.rid with
    | none => s
    | some r => if r.acts s.now = true ∧ (s.device (keyDev key)).module = .up then f t r (s.slot key) else s

/-- The same while the region is gated too: replies still come in (R356). -/
def State.atSlot (s : State) (key : Nat) (f : Thread → Region → Slot → State) : State :=
  match s.thread key with
  | none => s
  | some t =>
    match s.region t.rid with
    | none => s
    | some r => if r.state = .resident ∨ r.state = .gated then f t r (s.slot key) else s

/-- Completes a tag of the slot's thread. -/
def State.completeAt (s : State) (key : Nat) (tag : BitVec 6) : State :=
  match s.thread key with
  | some t => s.deliver { key := key, ctx := t.ctxId, tag := some tag }
  | none => s

/-- Raises datapath flags in the slot's thread (R90). -/
def State.raiseAt (s : State) (key : Nat) (fl : Dword) (bad : Nat) : State :=
  match s.thread key with
  | some t => s.setThread key ((t.raise fl).addBadSparse bad)
  | none => s

/-- Charges datapath events to the slot's thread (R363, R365). No charge reaches a context from its gating on (R369). -/
def State.chargeAt (s : State) (key cls n : Nat) : State :=
  match s.thread key with
  | some t =>
    if (s.region t.rid).any fun r => r.acts s.now then s.setThread key (t.charge ((s.device (keyDev key)).weight cls * n)) else s
  | none => s

/-- Whether a drain is complete: every EOS accepted, and for drain.slot every unit empty (R246). -/
def Drain.done (d : Drain) (x : Slot) : Bool := d.left = 0 && (!d.whole || x.empty)

/-- Writes the slot back, completing the drains that have ended, the tags of armings whose outputs have been accepted
(R284), and a switch that every instance has made (R249). -/
def State.commit (s : State) (key : Nat) (x : Slot) : State :=
  let fin := x.drains.filter fun d => d.done x
  let armOver := x.arms.filter fun a => a.ended &&
    match arrayOrder (x.word 5 0 a.idx.toNat) with
    | some o => SMap.get [] x.outs o.out = []
    | none => true
  let x1 : Slot :=
    { x with drains := x.drains.filter (fun d => !d.done x), arms := x.arms.filter (fun a => !armOver.contains a) }
  let s1 := fin.foldl (fun y d => y.completeAt key d.tag) (s.setSlot key x1)
  let s2 := armOver.foldl (fun y a => match a.tag with | some t => y.completeAt key t | none => y) s1
  match x1.eocTag with
  | none => s2
  | some t =>
    if x1.eocLeft = [] then
      let s3 := s2.setSlot key { x1 with eocTag := none }
      { s3 with staging := SMap.put none s3.staging (keyTile key) none }.completeAt key t
    else s2

/-- A drain's EOS has been accepted by the first buffer downstream of its port (R246). -/
def Slot.accepted (x : Slot) (eos : Token) : Slot :=
  { x with drains := x.drains.map fun d =>
      if eos.kind = .eos ∧ d.id + 1 = eos.data.toNat then { d with left := d.left - 1 } else d }

/-- A marker as it leaves a source port: an EOS no longer carries its drain's number. -/
def marker (k : TokKind) (iter : BitVec 16) : Token := ⟨0, k, true, false, iter⟩

/-- Source ports of a slot (R238). -/
def sourcePorts : List Nat := [0x00, 0x01, 0x03, 0x08, 0x09, 0x0A, 0x0B, 0x0C, 0x0D, 0x0E, 0x0F, 0x18]

/-! The neighbour across a mesh link (R270, R293). -/

/-- Position next to (rx, ry) through router port p: north, east, south, west. Rows rise to the north: the lower left tile
of a quad is the one with the least x and y (R12). DEDUCED (notes/assumptions/82.md). -/
def Region.neighbour (r : Region) (rx ry p : Nat) : Option (Nat × Nat) :=
  if p = 0 then (if ry + 1 < r.h then some (rx, ry + 1) else none)
  else if p = 1 then (if rx + 1 < r.w then some (rx + 1, ry) else none)
  else if p = 2 then (if 0 < ry then some (rx, ry - 1) else none)
  else if 0 < rx then some (rx - 1, ry) else none

/-- The incoming ends of the mesh links of a part that cross the bridge from one die to another, as thread key and router
port: a bridge keeps one capacity for all routes of the slot that cross it in one direction (R289). The slot is that of one
region. DESIGN CHOICE (notes/assumptions/7.md). -/
def Region.bridgeEnds (r : Region) (part a b : Nat) : List (Nat × Nat) :=
  (r.positions.filter fun c => c.1 = part && dieKey (r.tileAt c.1 c.2.1 c.2.2) = b).flatMap fun c =>
    (([0, 1, 2, 3]).filter fun p => (r.neighbour c.2.1 c.2.2 p).any fun n => dieKey (r.tileAt part n.1 n.2) = a).map fun p =>
      (r.keyAt c.1 c.2.1 c.2.2, p)

/-- Tokens that stand in the capacity of a bridge. -/
def State.bridgeUsed (s : State) (ends : List (Nat × Nat)) : Nat :=
  (ends.map fun c => ((s.slot c.1).edge (edgeBridge c.2)).length).sum

/-- The port on the other side of a link. -/
def oppositePort (p : Nat) : Nat := (p + 2) % 4

end Sys2Proof.Machine
end

