-- ==== Sys2Proof/Machine/Operands.lean ====
section
/-!
DEFINITION. Operand forms of control-stream instructions: immediates with and without a LIM, base-plus-offset
addresses, scopes (R117, R150, R151), and the scalar integer results of R174, R175, R180 and R181.
-/

namespace Sys2Proof.Machine

/-- imm16 of an I-format word that stands alone (R150). -/
def immPlain (imm : BitVec 16) : Dword := sextD imm

/-- The 42-bit immediate of a LIM pair (R151). -/
def immWide (hi : BitVec 26) (lo : BitVec 16) : Dword := sextD (hi ++ lo)

/-- g[a] + off × 2^z, the address of an M-format word (R150, R156). -/
def Thread.ea {n : Nat} (t : Thread) (a : Reg) (off : BitVec n) (z : Nat) : Dword :=
  t.readG a + sextD off * BitVec.ofNat 64 (2 ^ z)

/-- The wider of two scopes (R117). -/
def widerScope (a b : Nat) : Nat := max a b

/-! Integer results. -/

/-- A Boolean as a register value. -/
def boolD (b : Bool) : Dword := if b then 1 else 0

/-- A shift amount: B mod 64 (R175). -/
def shiftAmt (b : Dword) : Nat := b.toNat % 64

/-- Number of leading zero bits among the low `n` bits. -/
def leadingZeros (a : Dword) : Nat → Nat
  | 0 => 0
  | n + 1 => if a.getLsbD n then 0 else leadingZeros a n + 1

/-- Number of trailing zero bits from bit 64 - n up. -/
def trailingZeros (a : Dword) : Nat → Nat
  | 0 => 0
  | n + 1 => if a.getLsbD (63 - n) then 0 else trailingZeros a n + 1

/-- Number of 1 bits among the low `n` bits. -/
def popCount (a : Dword) : Nat → Nat
  | 0 => 0
  | n + 1 => (if a.getLsbD n then 1 else 0) + popCount a n

/-- Byte i of A moved to byte 7 - i. -/
def byteSwap (a : Dword) : Dword :=
  (a.extractLsb' 0 8) ++ (a.extractLsb' 8 8) ++ (a.extractLsb' 16 8) ++ (a.extractLsb' 24 8) ++
    (a.extractLsb' 32 8) ++ (a.extractLsb' 40 8) ++ (a.extractLsb' 48 8) ++ (a.extractLsb' 56 8)

/-- div_i64 (R175): quotient and remainder. -/
def divI64 (a b : Dword) : Dword × Dword :=
  if b = 0 then (BitVec.allOnes 64, a)
  else if a.toInt = -2 ^ 63 ∧ b.toInt = -1 then (a, 0)
  else (BitVec.ofInt 64 (Int.tdiv a.toInt b.toInt), BitVec.ofInt 64 (Int.tmod a.toInt b.toInt))

/-- div_n64 (R175). -/
def divN64 (a b : Dword) : Dword × Dword :=
  if b = 0 then (BitVec.allOnes 64, a) else (BitVec.ofNat 64 (a.toNat / b.toNat), BitVec.ofNat 64 (a.toNat % b.toNat))

/-- mulh: high half of the signed product. -/
def mulHigh (a b : Dword) : Dword := BitVec.ofInt 64 (Int.fdiv (a.toInt * b.toInt) (2 ^ 64))

/-- mulhn: high half of the unsigned product. -/
def mulHighN (a b : Dword) : Dword := BitVec.ofNat 64 (a.toNat * b.toNat / 2 ^ 64)

/-- addr2 (R180). -/
def addr2Val (a b : Dword) (ps z : Nat) : Dword :=
  a + BitVec.ofNat 64 (((b.toNat / 2 ^ 32) * 2 ^ ps + b.toNat % 2 ^ 32) * 2 ^ z)

/-- Conditions of CMP (R181). -/
def cmpVal (cc : BitVec 3) (a b : Dword) : Bool :=
  match cc with
  | 0 => a == b
  | 1 => a != b
  | 2 => a.slt b
  | 3 => !a.slt b
  | 4 => a.ult b
  | 5 => !a.ult b
  | 6 => a &&& b != 0
  | _ => a &&& b == 0

/-- Conditions of CMPI (R182) in the codes of CMP. -/
def cmpiCode (cc : BitVec 2) : BitVec 3 :=
  match cc with
  | 0 => 0
  | 1 => 1
  | 2 => 2
  | _ => 4

/-- Shift operations of major 0x06 (R177). -/
def shiftVal (op : BitVec 2) (a : Dword) (n : Nat) : Dword :=
  match op with
  | 0 => a <<< n
  | 1 => a >>> n
  | 2 => a.sshiftRight n
  | _ => a.rotateLeft n

end Sys2Proof.Machine
end

