-- ==== Sys2Proof/Machine/Mem.lean ====
section
/-!
DEFINITION. Access instructions (R207 to R222): the checks and translation of an access, token order, the combining
buffer, the access itself under the sector states of R104, waiting at a sector, and the fault that ag0 takes. One
access is performed in one place for its first issue, for its service at a port and for its retry after a fault.
-/

namespace Sys2Proof.Machine

/-- An uncorrectable soft error in a sector of a memory of the domain: the sector is poisoned (R103). -/
def State.softError (s : State) (k : Nat) : State := if addrDev (k * 64) < 256 then s.setSector k .poisoned else s

/-- The permission that an access needs (R337). -/
def AccKind.walk : AccKind → WalkKind
  | .load | .lda | .sync | .fes => .read
  | .store | .sts | .fill | .clear | .flag => .write
  | .take | .amo _ | .invoke _ _ => .readWrite

/-- How an access acts on its token (R209). -/
def AccKind.writes : AccKind → Bool
  | .load | .lda | .sync | .fes => false
  | _ => true

/-- A release orders itself after every earlier access of its thread (R124). -/
def AccKind.releases : AccKind → Bool
  | .sts | .take | .fill | .clear => true
  | _ => false

/-- Accesses with a register result. -/
def AccKind.loads : AccKind → Bool
  | .load | .lda | .sync | .take | .fes | .amo _ => true
  | _ => false

/-- Accesses to a whole sector, aligned to 64 bytes. -/
def AccKind.wholeSector : AccKind → Bool
  | .clear | .fes | .flag | .invoke _ _ => true
  | _ => false

/-- Accesses of the full/empty group and flag sets (R210). -/
def AccKind.fe : AccKind → Bool
  | .sync | .take | .fill | .clear | .fes | .flag => true
  | _ => false

/-- Energy class of an access instruction at its effective scope (R363). -/
def AccKind.cls (k : AccKind) (eff : Nat) : Nat :=
  match k with
  | .amo _ | .invoke _ _ => 7
  | .flag => 8
  | _ => 3 + eff

/-- Bytes and alignment of an access. DEDUCED (notes/assumptions/20.md). -/
def Access.span (a : Access) : Nat := if a.kind.wholeSector then 64 else a.size

/-! Tokens (R121, R122, R137). -/

/-- Outstanding accesses, with or without fabric-scope stores. -/
def Thread.openIds (t : Thread) (stores : Bool) : List Nat :=
  if stores then t.outstanding else t.outstanding.filter fun i => !t.fstores.contains i

/-- Whether outstanding access `i` has one of the bytes [addr, addr + n); one whose place is not known counts. -/
def Thread.touches (t : Thread) (i addr n : Nat) : Bool :=
  !(t.places.any fun c => c.1 = i) || t.places.any fun c => c.1 = i && c.2.1 < addr + n && addr < c.2.1 + c.2.2

/-- The accesses that an access is ordered after at issue: those of its token, and all earlier ones behind a release
(R121, R124). -/
def Thread.orderAfter (t : Thread) (kind : AccKind) (k : BitVec 4) : List Nat :=
  let x := t.token k
  x.lw ++ (if kind.writes then x.rs else []) ++ if kind.releases then t.outstanding else []

/-- Entries of the combining buffer that an access may have to follow: those of its token, all of them for an STS (R135,
R136, R210). -/
def Thread.entriesAt (t : Thread) (kind : AccKind) (k : BitVec 4) : List Nat :=
  (t.cb.filter fun e => kind = .sts || (k != 0 && e.tok = k)).map fun e => e.id

/-- Whether entry `i`, which the buffer held at the issue of access `a`, is sent and performed before the access: every one
for an STS of device or fabric scope; one of its sector for a full/empty access, a flag set or an invocation; one with bytes
of it for an atomic or another write. A load takes its bytes by forwarding, and a store of fabric scope enters the buffer
(R135, R136, R210). -/
def Thread.goesFirst (t : Thread) (a : Access) (addr eff i : Nat) : Bool :=
  match a.kind with
  | .load | .lda => false
  | .store => eff ≠ 3 && t.touches i addr a.span
  | .sts => 2 ≤ eff || t.touches i addr a.span
  | k => if k.wholeSector || k.fe then t.touches i (addr / 64 * 64) 64 else t.touches i addr a.span

/-- Whether entry `i` is where a store of fabric scope merges (R101). -/
def Thread.mergesInto (t : Thread) (a : Access) (addr i : Nat) : Bool :=
  t.cb.any fun e => e.id = i && e.tok = a.k && e.sector = sectorOf addr

/-- Whether the link from access `i` to access `a` at `addr` counts: into and out of a fabric-scope store, only one
between accesses to the same bytes does, or that of an STS at device scope or wider (R136, R137). -/
def Thread.linkCounts (t : Thread) (a : Access) (addr eff i : Nat) : Bool :=
  t.touches i addr a.span || (a.kind = .sts && 2 ≤ eff) ||
    !((a.kind = .store && eff = 3) || t.fstores.contains i)

/-- Whether an access that is ordered after the accesses `l` has to wait. A load does not wait for a store that its own
thread's combining buffer still holds on the load's token: it takes the value by forwarding (R122, R135). -/
def Thread.blocked (t : Thread) (a : Access) (l : List Nat) : Bool :=
  let forwards (i : Nat) : Bool :=
    (a.kind = .load || a.kind = .lda) && t.cb.any fun e => e.id = i && e.tok = a.k && a.k != 0
  l.any fun i => !(a.late && i = a.id) && t.outstanding.contains i && !forwards i

/-- Whether the thread waits until the access has performed (R209). -/
def AccKind.waits : AccKind → Bool
  | .sync | .take | .fill | .flag => true
  | _ => false

/-- The access's action on its token; `id` is its identifier while it is outstanding. -/
def Thread.actToken (t : Thread) (k : BitVec 4) (writes : Bool) (id : Option Nat) : Thread :=
  if writes then t.setToken k ⟨id.toList, []⟩
  else t.setToken k { t.token k with rs := (t.token k).rs ++ id.toList }

/-- Gives an access that stays outstanding its identifier: an access that its thread has gone on past has one. -/
def Thread.open (t : Thread) (a : Access) (regs : List Nat) : Thread × Nat :=
  if a.late then (t, a.id)
  else
    ({ t.actToken a.k a.kind.writes (some t.nextId) with
        nextId := t.nextId + 1
        outstanding := t.outstanding ++ [t.nextId]
        acquiring := if a.kind = .lda then t.acquiring ++ [t.nextId] else t.acquiring
        pending := t.pending ++ (regs.filter (fun r => r != 0)).map fun r => (r, t.nextId) }, t.nextId)

/-- Registers that an access writes. -/
def Access.regs (a : Access) : List Nat :=
  match a.kind with
  | .invoke _ _ => [a.dst.toNat, a.dst.toNat + 1]
  | k => if k.loads then [a.dst.toNat] else []

/-- Where access `i` lies. -/
def Thread.placeAt (t : Thread) (i addr n : Nat) : Thread :=
  if t.places.contains (i, addr, n) then t else { t with places := t.places ++ [(i, addr, n)] }

/-- The access has performed, with a register result if it has one. -/
def Thread.finish (t : Thread) (a : Access) (v : Dword) : Thread :=
  let r := if a.kind.loads then [(a.dst, v)] else []
  if a.late then t.apply { key := 0, ctx := 0, id := a.id, regs := r, performed := true }
  else
    let t1 := t.actToken a.k a.kind.writes none
    if a.kind.loads then t1.writeG a.dst v else t1

/-! The combining buffer (R101, R135, R136). -/

/-- Bytes [addr, addr + n) as the thread's own entries on token k forward them; k0 never forwards. -/
def Thread.forward (t : Thread) (k : BitVec 4) (addr n : Nat) : List (Option Byte) :=
  (List.range n).map fun i =>
    if k = 0 then none
    else
      match t.cb.find? fun e => e.tok = k && e.sector = sectorOf addr with
      | some e => SMap.get none e.bytes ((addr + i) % 64)
      | none => none

/-- Memory with the masked bytes of one sector written, as one action. -/
def State.writeMasked (s : State) (sec : Nat) (bs : SMap (Option Byte)) : State :=
  bs.foldl (fun x c => match c.2 with
    | some b => x.setByte (sec * 64 + c.1) b
    | none => x) (s.invalidate sec)

/-- Sends one entry: performed at once on the thread's own device, unless its write must wait for translations (R345), else
in a pooled flit whose acknowledgement performs it (R398). A poisoned sector takes the bytes and raises POISONRD (R210). -/
def sendEntry (s : State) (key : Nat) (t : Thread) (e : CbEntry) : State × Thread :=
  let t1 := { t with cb := t.cb.filter fun x => x.id != e.id }
  if addrDev (e.sector * 64) = keyDev key then
    if (s.setThread key t1).inUse e.sector fun _ => false then (s, t)
    else (s.writeMasked e.sector e.bytes,
      t1.apply { key := key, ctx := t.ctxId, id := e.id, performed := true,
                 flags := if s.sector e.sector = .poisoned then poisonRd else 0 })
  else
    (s.send (.pooledStore ⟨key, t.ctxId, e.id⟩ e.sector [e.bytes] false false false),
      t1.charge ((s.device (keyDev key)).weight 15))

/-- Sends every entry that `f` picks. -/
def sendEntries (s : State) (key : Nat) (t : Thread) (f : CbEntry → Bool) : State × Thread :=
  (t.cb.filter f).foldl (fun x e => sendEntry x.1 key x.2 e) (s, t)

/-- Drains the whole buffer (R136). -/
def drainCb (s : State) (key : Nat) (t : Thread) : State × Thread := sendEntries s key t fun _ => true

/-- One outstanding access takes the place of another in every token (R101, R208). -/
def Thread.merged (t : Thread) (old new : Nat) : Thread :=
  let f (l : List Nat) : List Nat := l.map fun i => if i = old then new else i
  let g (a : Access) : Access := { a with after := f a.after, first := f a.first }
  { t.close old with tok := t.tok.map fun c => (c.1, ⟨f c.2.lw, f c.2.rs⟩)
                     pool := t.pool.map g
                     held := match t.held with | .access a => .access (g a) | h => h }

/-- Whether a store of fabric scope finds no place in the buffer: it opens an entry, none is free, and the oldest cannot be
sent yet (R101, R345). -/
def cbStuck (s : State) (key : Nat) (t : Thread) (a : Access) (addr : Nat) : Bool :=
  16 ≤ t.cb.length && !(t.cb.any fun e => e.tok = a.k && e.sector = sectorOf addr) &&
    match t.cb with
    | e :: _ => (sendEntry s key t e).2.cb.length = t.cb.length
    | [] => false

/-- An ordinary store whose effective scope is fabric: it merges into the entry of its sector and token or opens one,
and the oldest entry is sent when none is free (R101). A store that faulted before enters as it would have then (R208). -/
def enterCb (s : State) (key : Nat) (t : Thread) (a : Access) (addr : Nat) : State × Thread :=
  let put (m : SMap (Option Byte)) : SMap (Option Byte) :=
    (List.range a.size).foldl (fun x i =>
      SMap.put none x ((addr + i) % 64) (some (BitVec.ofNat 8 (a.d1.toNat / 2 ^ (8 * i))))) m
  match t.cb.find? fun e => e.tok = a.k && e.sector = sectorOf addr with
  | some e =>
    let t1 := if a.late then t.merged a.id e.id else t.actToken a.k true (some e.id)
    (s, { t1.placeAt e.id addr a.size with
          cb := t.cb.map fun x => if x.id = e.id then { x with bytes := put x.bytes } else x })
  | none =>
    let x := if t.cb.length < 16 then (s, t) else
      match t.cb with
      | e :: _ => sendEntry s key t e
      | [] => (s, t)
    let o := x.2.open a []
    (x.1, { o.1.placeAt o.2 addr a.size with
      cb := o.1.cb ++ [⟨o.2, sectorOf addr, put [], a.k, s.now⟩]
      fstores := if o.1.fstores.contains o.2 then o.1.fstores else o.1.fstores ++ [o.2] })

/-! Performing. -/

/-- The outcome of an access at its place. -/
inductive Performed where
  | done (s : State) (t : Thread)
  | waits
  | poison

/-- fadd of the read-modify-write node (R110): NaN and ∞ − ∞ give the canonical NaN (R86, R87). -/
def nodeFadd (a b : Nat) : Nat × Dword :=
  let x := fp32.value a
  let y := fp32.value b
  if x.isNan || y.isNan then (nan32, 0)
  else if x.addInvalid y then (nan32, flInvalid)
  else roundFmt (x.add false y) fp32 .rne false

/-- New value and flags of an atomic over `w` bits (R110, R219). -/
def amoNew (op : AmoOp) (w : Nat) (old a b : Dword) : Dword × Dword :=
  let m := BitVec.ofNat 64 (2 ^ w - 1)
  let o := old &&& m
  let x := a &&& m
  let y := b &&& m
  let sx (v : Dword) : Int := if w = 32 then (v.setWidth 32 : Word).toInt else v.toInt
  match op with
  | .swap => (x, 0)
  | .cas => (if o = x then y else o, 0)
  | .add => ((o + x) &&& m, 0)
  | .and => (o &&& x, 0)
  | .or => (o ||| x, 0)
  | .xor => (o ^^^ x, 0)
  | .min => (if sx o ≤ sx x then o else x, 0)
  | .max => (if sx x ≤ sx o then o else x, 0)
  | .minn => (if o.ule x then o else x, 0)
  | .maxn => (if x.ule o then o else x, 0)
  | .fadd => let r := nodeFadd o.toNat x.toNat; (BitVec.ofNat 64 r.1, r.2)

/-- The atomic at its node: the old value and the flags, POISONRD among them (R104, R219). -/
def State.amo (s : State) (op : AmoOp) (addr size : Nat) (a b : Dword) : State × Dword × Dword :=
  let old := BitVec.ofNat 64 (s.readNat addr size)
  let r := amoNew op (8 * size) old a b
  (s.storeBytes addr (leBytes r.1.toNat size), old,
    r.2 ||| (if s.sector (sectorOf addr) = .poisoned then poisonRd else 0))

/-- A value on its way to a register. With `deferReplies` it waits in the tile's reply edge buffer (R209, R356). -/
def answer (s : State) (key : Nat) (t : Thread) (a : Access) (v fl : Dword) : Performed :=
  if s.deferReplies && a.dst != 0 then
    let wait (x : State) (i : Nat) : State :=
      { x with replies := x.replies ++ [⟨⟨key, t.ctxId, i⟩, a.dst, v, false, fl, keyDev key, 0⟩] }
    if a.late then .done (wait s a.id) (t.close a.id)
    else
      let t1 := t.actToken a.k a.kind.writes none
      .done (wait s t.nextId)
        { t1 with nextId := t.nextId + 1, pending := t.pending ++ [(a.dst.toNat, t.nextId)] }
  else .done s ((t.finish a v).raise fl)

/-- Sends a request to another device: the access stays outstanding, its registers pending.
DEDUCED (notes/assumptions/18.md). -/
def request (s : State) (key : Nat) (t : Thread) (a : Access) (addr : Nat) (f : AccId → Flit) : Performed :=
  let o := t.open a a.regs
  .done (s.send (f ⟨key, t.ctxId, o.2⟩)) (if a.late then o.1 else o.1.placeAt o.2 addr a.span)

/-- The masked bytes of a store. -/
def Access.mask (a : Access) (addr : Nat) : SMap (Option Byte) :=
  (List.range a.size).foldl (fun x i =>
    SMap.put none x ((addr + i) % 64) (some (BitVec.ofNat 8 (a.d1.toNat / 2 ^ (8 * i))))) []

/-- A filling write or flag set goes to another device as a masked fill, and its thread waits for the acknowledgement
(R209, R398). -/
def fillAway (s : State) (key : Nat) (t : Thread) (a : Access) (addr : Nat) (m : SMap (Option Byte)) : Performed :=
  let o := t.open a []
  .done (s.send (.pooledStore ⟨key, t.ctxId, o.2⟩ (sectorOf addr) [m] true false false))
    { (if a.late then o.1 else o.1.placeAt o.2 addr a.span).charge ((s.device (keyDev key)).weight 15) with
      wait := .away { a with id := o.2 } }

/-- The code of a sector state (R102). -/
def SectorState.code : SectorState → Nat
  | .empty => 0 | .full => 1 | .poisoned => 2

/-- Performs access `a` of thread `key`, left so far as `t`, at place `p` with effective scope `eff` (R104, R209). -/
def perform (s : State) (key : Nat) (t : Thread) (a : Access) (p : Place) (eff part : Nat) : Performed :=
  let sec := sectorOf p.addr
  let st := s.sector sec
  let fl : Dword := if st = .poisoned then poisonRd else 0
  let remote := addrDev p.addr ≠ keyDev key
  let here : Dword := BitVec.ofNat 64 (s.readNat p.addr a.size)
  let bytes := leBytes a.d1.toNat a.size
  match a.kind with
  | .load | .lda =>
    let fwd := t.forward a.k p.addr a.size
    if remote ∧ fwd.any (fun b => b.isNone) then
      request s key t a p.addr fun w => .loadReq w a.dst p.addr a.size fwd
    else
      let bs := (fwd.zip (s.bytes p.addr a.size)).map fun c => c.1.getD c.2
      answer s key t a (BitVec.ofNat 64 (leNat bs)) (if fwd.any (fun b => b.isNone) then fl else 0)
  | .store =>
    if eff = 3 then let x := enterCb s key t a p.addr; .done x.1 x.2
    else .done (s.storeBytes p.addr bytes) ((t.finish a 0).raise fl)
  | .sts =>
    if remote then
      request s key (t.charge ((s.device (keyDev key)).weight 15)) a p.addr fun w =>
        .pooledStore w sec [a.mask p.addr] false false false
    else .done (s.storeBytes p.addr bytes) ((t.finish a 0).raise fl)
  | .sync =>
    match st with
    | .empty => .waits
    | .poisoned => .poison
    | .full => .done s (t.finish a here)
  | .take =>
    match st with
    | .empty => .waits
    | .poisoned => .poison
    | .full => .done (s.setSector sec .empty) (t.finish a here)
  | .fill =>
    if remote then fillAway s key t a p.addr (a.mask p.addr)
    else
      match st with
      | .full => .waits
      | _ => .done ((s.storeBytes p.addr bytes).setSector sec .full) (t.finish a 0)
  | .clear => .done ((s.invalidate sec).setSector sec .empty) (t.finish a 0)
  | .fes => answer s key t a (BitVec.ofNat 64 st.code) 0
  | .flag =>
    if remote then fillAway s key t a p.addr []
    else
      match st with
      | .full => .waits
      | _ => .done ((s.invalidate sec).setSector sec .full) (t.finish a 0)
  | .amo op =>
    if remote then request s key t a p.addr fun w => .atomicReq w a.dst p.addr a.size op a.d1 a.d2
    else
      let r := s.amo op p.addr a.size a.d1 a.d2
      answer r.1 key t a r.2.1 r.2.2
  | .invoke e tag =>
    let o := t.open a a.regs
    let inv : Invocation :=
      ⟨p.addr, saddleUnit p.addr part, e.toNat, ⟨key, t.ctxId, o.2⟩, a.dst, tag, a.d1, a.d2⟩
    let t1 := if a.late then o.1 else (o.1.placeAt o.2 p.addr 64).countTag tag
    if remote then .done (s.send (.invocation inv)) t1
    else .done { s with invocations := s.invocations ++ [inv] } t1

/-! Issue. -/

/-- The home scope that an address alone shows, for the record of an access that reached no place (R100). -/
def homeGuess (r : Region) (t : Thread) (va : Dword) : Nat :=
  let v := va.toNat
  let top := v / 2 ^ 56
  let rx := bitsOf v 39 32
  let ry := bitsOf v 47 40
  let part := bitsOf v 55 48
  if top = 0 then 2
  else if top = 0xF2 then 1
  else if (top = 0xF1 || top = 0xF3) && rx < r.w && ry < r.h && part < r.parts then
    homeScope (r.tileAt t.part t.rx t.ry) (r.tileAt part rx ry) (top = 0xF3)
  else 0

/-- GROUP of a poison record: the integrity group, or the sector's fabric address for a soft error (R351, R352). -/
def State.poisonGroup (s : State) (addr : Nat) : Dword :=
  match s.replays.find? fun e => e.sector = sectorOf addr with
  | some e =>
    (match e.who with
    | some w => BitVec.ofNat 64 (e.seq % 2 ^ 32 + keyDev w.key * 2 ^ 48)
    | none => BitVec.ofNat 64 (e.seq % 2 ^ 32 + e.q.toNat * 2 ^ 32 + 2 ^ 35 +
        keyDev ((SMap.get {} (s.slot e.key).queues e.q.toNat).peerKey) * 2 ^ 48))
  | none => if addr < 2 ^ 60 then BitVec.ofNat 64 (sectorOf addr * 64) else 0

/-- A first issue gets the thread past its instruction: the access has its identifier, its registers are awaited, and its
tag counts it. -/
def State.passIssue (s : State) (key : Nat) (t : Thread) (a : Access) (eff : Nat) : Thread × Nat :=
  let o := t.open a a.regs
  if a.late then o
  else
    let t1 := match a.kind with | .invoke _ tag => o.1.countTag tag | _ => o.1
    ((t1.chargeIssue (s.device (keyDev key)) (a.kind.cls eff)).complete 4, o.2)

/-- ag0 takes the fault of an access: it holds the access, the item is queued, and a first issue goes on past the
instruction with its result registers pending (R208, R349). -/
def State.faultAccess (s : State) (key : Nat) (t : Thread) (a : Access) (c : Cause) (arg scope : Nat) (group : Dword) :
    State :=
  let o := s.passIssue key t a scope
  let a1 : Access := { a with id := o.2, late := true }
  s.scalarFault key o.1 (.access a1) c arg a.kind.walk scope a.va group a.pc

/-- Full/empty loads, clearing writes and state reads act at their target at once, so their way there must be open and
the target's module up (R402); what travels as a flit waits on the fabric. -/
def AccKind.direct (k : AccKind) : Bool :=
  match k with
  | .sync | .take | .clear | .fes => true
  | _ => false

/-- Whether a memory can be reached directly: it is on the thread's device, or up behind an open route. -/
def State.wayOpen (s : State) (key addr : Nat) : Bool :=
  addrDev addr = keyDev key ||
    ((s.device (addrDev addr)).module = .up && s.routeOpen (keyDev key) (addrDev addr) (bitsOf addr 12 12) false)

/-- What an attempt at an access comes to. -/
inductive Attempt where
  /-- performed, or sent on its way -/
  | done (s : State) (t : Thread) (eff : Nat)
  /-- ordered after accesses that have not performed, or kept by ag0 for its turn -/
  | behind (s : State) (t : Thread) (a : Access) (p : Place) (eff : Nat)
  /-- an STS has sent the combining buffer, whose entries have not all performed: its thread waits with it (R136, R215) -/
  | drains (s : State) (t : Thread)
  /-- its page or its way is not ready -/
  | busy (s : State) (t : Thread)
  /-- it waits for its sector -/
  | waits (s : State) (t : Thread) (sec eff : Nat)
  | fault (s : State) (t : Thread) (c : Cause) (arg scope : Nat) (group : Dword)

/-- Access `a` meets its place: entries of the combining buffer that must go first are sent, and it performs unless an
access that it is ordered after has not, or a group that wrote the sector has not been checked (R122, R124, R134, R135,
R210, R215).
DEDUCED (notes/assumptions/13.md). -/
def State.attempt (s : State) (key : Nat) (t : Thread) (r : Region) (a : Access) : Attempt :=
  match reach s r t.super t.part t.rx t.ry a.va a.span a.span a.kind.walk with
  | .busy s1 => .busy s1 t
  | .fault c arg s1 => .fault s1 t c arg (max a.sc.toNat (homeGuess r t a.va)) 0
  | .at p s1 =>
    let eff := max a.sc.toNat p.home
    if (a.kind.direct = true ∧ s1.wayOpen key p.addr = false) ∨
        (a.kind.loads = true ∧ s1.unchecked (sectorOf p.addr) = true) ∨
        (a.kind.writes = true ∧ s1.inUse (sectorOf p.addr) (fun _ => false) = true) then .busy s1 t
    else
      let buffered := a.kind = .store && eff = 3
      let first := a.first.filter (t.goesFirst a p.addr eff)
      let mine := a.after.filter fun i => t.linkCounts a p.addr eff i && !(buffered && t.mergesInto a p.addr i)
      let x := sendEntries s1 key t fun e => first.contains e.id
      let keeps := s.holdAccesses && !a.late && !a.kind.waits && !buffered
      if a.kind = .sts ∧ 2 ≤ eff ∧ (first.any x.2.outstanding.contains) = true then .drains x.1 x.2
      else if keeps || x.2.blocked a (mine ++ first) then .behind x.1 x.2 { a with first := first } p eff
      else if buffered && cbStuck x.1 key x.2 a p.addr then .busy x.1 x.2
      else
        match perform x.1 key x.2 a p eff r.launch.part with
        | .done s2 t2 => .done s2 t2 eff
        | .waits => .waits x.1 x.2 (sectorOf p.addr) eff
        | .poison => .fault x.1 x.2 .poison 0 eff (x.1.poisonGroup p.addr)

/-- An access parks at its sector's port; a full list of 64 turns it away (R211). -/
def State.parkAt (s : State) (key : Nat) (t : Thread) (a : Access) (sec : Nat) : State :=
  let port := s.portOf sec
  if (s.parked.filter fun c => s.portOf c.1 = port).length < 64 then
    { s.setThread key { t with wait := .parked a } with parked := s.parked ++ [(sec, key)] }
  else s.setThread key { t with wait := .unparked a }

/-- ag0 has an access that its thread goes on past: it joins those that ag0 keeps, or stays among them (R209, R215). -/
def Thread.pooled (t : Thread) (a : Access) : Thread :=
  { t with pool := if t.pool.any fun b => b.id = a.id then t.pool.map fun b => if b.id = a.id then a else b
                   else t.pool ++ [a] }

/-- The same for an access whose place is known. -/
def Thread.keep (t : Thread) (a : Access) (p : Place) (eff : Nat) : Thread :=
  let fab := a.kind = .store && eff = 3 && !t.fstores.contains a.id
  { (t.placeAt a.id p.addr a.span).pooled a with fstores := if fab then t.fstores ++ [a.id] else t.fstores }

/-- Accesses of a thread that have left the combining buffer, and values on their way to it: at most 32 (R356). -/
def State.ag0Full (s : State) (key : Nat) (t : Thread) : Bool :=
  32 ≤ (t.outstanding.filter fun i => t.cb.all fun e => e.id != i).length +
    (s.replies.filter fun r => r.who.key = key).length

/-- The region of a thread. -/
def onRegion (s : State) (t : Thread) (f : Region → Res State) : Res State :=
  match s.region t.rid with
  | some r => f r
  | none => .fault .noIssuer

/-- The thread that an STS leaves: the event of R136 has occurred. -/
def Thread.afterSts (t : Thread) (a : Access) (eff : Nat) : Thread :=
  { t with synced := t.synced || (a.kind = .sts && 2 ≤ eff) }

/-- ag0 keeps an access that is ordered after others, and its thread goes on. -/
def State.putBehind (s : State) (key : Nat) (t : Thread) (a : Access) (p : Place) (eff : Nat) : Thread :=
  let o := s.passIssue key t a eff
  (o.1.afterSts a eff).keep { a with id := o.2, late := true } p eff

/-- The same for one whose page, way or sector is not ready; its scope is what its address shows. -/
def State.putBusy (s : State) (key : Nat) (t : Thread) (a : Access) (eff : Nat) : Thread :=
  let o := s.passIssue key t a eff
  o.1.pooled { a with id := o.2, late := true }

/-- The scope that an access shows before it has reached its place. -/
def Access.guess (a : Access) (r : Region) (t : Thread) : Nat := max a.sc.toNat (homeGuess r t a.va)

/-- Issues an access instruction of the current thread. The thread waits while ag0 holds a fault, while an acquire load
is outstanding, while its tag is full, and while 32 accesses are outstanding; then it goes on, or waits until the access
has performed, as its kind says (R208, R209, R356). An access whose page, way or sector is not ready stays with ag0, and so
does one that is ordered after others. -/
def issueAccess (s : State) (t : Thread) (a : Access) : Res State :=
  onRegion s t fun r =>
    let full := match a.kind with | .invoke _ tag => t.tagFull tag | _ => false
    if t.held ≠ .none ∨ t.acquiring ≠ [] ∨ full = true ∨ s.ag0Full s.cur t = true then stall s t
    else
      let paid (t1 : Thread) (eff : Nat) : Thread := t1.chargeIssue s.curDevice (a.kind.cls eff)
      match s.attempt s.cur t r a with
      | .done s1 t1 eff =>
        (match t1.wait with
        | .away _ => .next { s1.setThread s.cur (paid t1 eff) with idle := true }
        | _ => .next (s1.setThread s.cur ((paid (t1.afterSts a eff) eff).complete 4)))
      | .behind s1 t1 a1 p eff =>
        if a.kind.waits then .next { s1.setThread s.cur { t1 with wait := .unparked a1 } with idle := true }
        else .next (s1.setThread s.cur (s1.putBehind s.cur t1 a1 p eff))
      | .drains s1 t1 => .next { s1.setThread s.cur { t1 with wait := .unparked a } with idle := true }
      | .busy s1 t1 =>
        if a.kind.waits then stall s1 t1
        else if a.kind = .sts ∧ a.first ≠ [] then .next { s1.setThread s.cur { t1 with wait := .unparked a } with idle := true }
        else .next (s1.setThread s.cur (s1.putBusy s.cur t1 a (a.guess r t)))
      | .waits s1 t1 sec eff => .next { s1.parkAt s.cur (paid t1 eff) a sec with idle := true }
      | .fault s1 t1 c arg scope group => .next (s1.faultAccess s.cur t1 a c arg scope group)

/-- The access that an instruction makes, its operands captured at issue. -/
def mkAccess (t : Thread) (kind : AccKind) (va : Dword) (size : Nat) (sc : Scope) (k : BitVec 4) (d : Reg) : Access :=
  ⟨kind, va, size, sc, k, d, t.readG d, t.readG (d + 1), t.pc, 0, false, t.orderAfter kind k, t.entriesAt kind k⟩

/-- An M-format access: `z` scales the offset, `size` bytes are moved. -/
def memOp {n : Nat} (s : State) (kind : AccKind) (d a : Reg) (k : BitVec 4) (sc : Scope) (off : BitVec n)
    (z size : Nat) : Res State :=
  onThread s fun t => issueAccess s t (mkAccess t kind (t.ea a off z) size sc k d)

/-! Loads and stores (R212). -/

/-- ld.b (R212). -/
def execLdB (d a : Reg) (k : BitVec 4) (sc : Scope) (off : BitVec 10) (s : State) : Res State :=
  memOp s .load d a k sc off 0 1
/-- ld.h (R212). -/
def execLdH (d a : Reg) (k : BitVec 4) (sc : Scope) (off : BitVec 10) (s : State) : Res State :=
  memOp s .load d a k sc off 1 2
/-- ld.w (R212). -/
def execLdW (d a : Reg) (k : BitVec 4) (sc : Scope) (off : BitVec 10) (s : State) : Res State :=
  memOp s .load d a k sc off 2 4
/-- ld.d (R212). -/
def execLdD (d a : Reg) (k : BitVec 4) (sc : Scope) (off : BitVec 10) (s : State) : Res State :=
  memOp s .load d a k sc off 3 8
/-- st.b (R212). -/
def execStB (d a : Reg) (k : BitVec 4) (sc : Scope) (off : BitVec 10) (s : State) : Res State :=
  memOp s .store d a k sc off 0 1
/-- st.h (R212). -/
def execStH (d a : Reg) (k : BitVec 4) (sc : Scope) (off : BitVec 10) (s : State) : Res State :=
  memOp s .store d a k sc off 1 2
/-- st.w (R212). -/
def execStW (d a : Reg) (k : BitVec 4) (sc : Scope) (off : BitVec 10) (s : State) : Res State :=
  memOp s .store d a k sc off 2 4
/-- st.d (R212). -/
def execStD (d a : Reg) (k : BitVec 4) (sc : Scope) (off : BitVec 10) (s : State) : Res State :=
  memOp s .store d a k sc off 3 8

/-- sts (R215). -/
def execSts (d a : Reg) (k : BitVec 4) (sc : Scope) (z : BitVec 2) (off : BitVec 8) (s : State) : Res State :=
  memOp s .sts d a k sc off z.toNat (2 ^ z.toNat)
/-- lda (R214). -/
def execLda (d a : Reg) (k : BitVec 4) (sc : Scope) (z : BitVec 2) (off : BitVec 8) (s : State) : Res State :=
  memOp s .lda d a k sc off z.toNat (2 ^ z.toNat)

/-! The full/empty group (R216, R217). -/

/-- ldw.sync (R217). -/
def execLdwSync (d a : Reg) (k : BitVec 4) (sc : Scope) (z : BitVec 2) (off : BitVec 5) (s : State) : Res State :=
  memOp s .sync d a k sc off z.toNat (2 ^ z.toNat)
/-- ldw.take (R217). -/
def execLdwTake (d a : Reg) (k : BitVec 4) (sc : Scope) (z : BitVec 2) (off : BitVec 5) (s : State) : Res State :=
  memOp s .take d a k sc off z.toNat (2 ^ z.toNat)
/-- stw.fill (R217). -/
def execStwFill (d a : Reg) (k : BitVec 4) (sc : Scope) (z : BitVec 2) (off : BitVec 5) (s : State) : Res State :=
  memOp s .fill d a k sc off z.toNat (2 ^ z.toNat)
/-- stw.clear (R217). -/
def execStwClear (a : Reg) (k : BitVec 4) (sc : Scope) (off : BitVec 7) (s : State) : Res State :=
  memOp s .clear 0 a k sc off 6 64
/-- fes (R217). -/
def execFes (d a : Reg) (k : BitVec 4) (sc : Scope) (off : BitVec 7) (s : State) : Res State :=
  memOp s .fes d a k sc off 6 64

/-! Atomics (R218, R219). -/

/-- An atomic of size code `sz` (0: 4 bytes, 1: 8 bytes). -/
def amoOp (s : State) (op : AmoOp) (d a : Reg) (k : BitVec 4) (sc : Scope) (sz : BitVec 1) (off : BitVec 5) :
    Res State :=
  memOp s (.amo op) d a k sc off (2 + sz.toNat) (4 * 2 ^ sz.toNat)

/-- amo.swap (R219). -/
def execAmoSwap (d a : Reg) (k : BitVec 4) (sc : Scope) (sz : BitVec 1) (off : BitVec 5) (s : State) : Res State :=
  amoOp s .swap d a k sc sz off
/-- amo.cas (R219): expected value g[d], new value g[d+1]. -/
def execAmoCas (d a : Reg) (k : BitVec 4) (sc : Scope) (sz : BitVec 1) (off : BitVec 5) (s : State) : Res State :=
  amoOp s .cas d a k sc sz off
/-- amo.add (R219). -/
def execAmoAdd (d a : Reg) (k : BitVec 4) (sc : Scope) (sz : BitVec 1) (off : BitVec 5) (s : State) : Res State :=
  amoOp s .add d a k sc sz off
/-- amo.and (R219). -/
def execAmoAnd (d a : Reg) (k : BitVec 4) (sc : Scope) (sz : BitVec 1) (off : BitVec 5) (s : State) : Res State :=
  amoOp s .and d a k sc sz off
/-- amo.or (R219). -/
def execAmoOr (d a : Reg) (k : BitVec 4) (sc : Scope) (sz : BitVec 1) (off : BitVec 5) (s : State) : Res State :=
  amoOp s .or d a k sc sz off
/-- amo.xor (R219). -/
def execAmoXor (d a : Reg) (k : BitVec 4) (sc : Scope) (sz : BitVec 1) (off : BitVec 5) (s : State) : Res State :=
  amoOp s .xor d a k sc sz off
/-- amo.min (R219). -/
def execAmoMin (d a : Reg) (k : BitVec 4) (sc : Scope) (sz : BitVec 1) (off : BitVec 5) (s : State) : Res State :=
  amoOp s .min d a k sc sz off
/-- amo.max (R219). -/
def execAmoMax (d a : Reg) (k : BitVec 4) (sc : Scope) (sz : BitVec 1) (off : BitVec 5) (s : State) : Res State :=
  amoOp s .max d a k sc sz off
/-- amo.minn (R219). -/
def execAmoMinn (d a : Reg) (k : BitVec 4) (sc : Scope) (sz : BitVec 1) (off : BitVec 5) (s : State) : Res State :=
  amoOp s .minn d a k sc sz off
/-- amo.maxn (R219). -/
def execAmoMaxn (d a : Reg) (k : BitVec 4) (sc : Scope) (sz : BitVec 1) (off : BitVec 5) (s : State) : Res State :=
  amoOp s .maxn d a k sc sz off
/-- amo.fadd (R219): 32-bit FP32 add under RNE. -/
def execAmoFadd (d a : Reg) (k : BitVec 4) (sc : Scope) (off : BitVec 5) (s : State) : Res State :=
  amoOp s .fadd d a k sc 0 off

/-- invoke (R221): the token goes to the saddle unit at the target, and the tag counts it (R222). -/
def execInvoke (d a : Reg) (k : BitVec 4) (sc : Scope) (e : BitVec 4) (tag : BitVec 6) (s : State) : Res State :=
  onThread s fun t => issueAccess s t (mkAccess t (.invoke e tag) (t.readG a) 64 sc k d)

/-! Waiting accesses (R211). -/

/-- Whether a thread's accesses go on: its region holds its tiles and is not gated, and its module is up (R356, R368). -/
def State.goesOn (s : State) (key : Nat) (t : Thread) : Bool :=
  (s.device (keyDev key)).module = .up &&
    match s.region t.rid with
    | some r => r.acts s.now
    | none => false

/-- Whether a thread can take a scalar item: it holds no other one, and none of the control core (R349). -/
def Thread.itemFree (t : Thread) : Bool :=
  t.held = .none && t.items.all fun i => match i.src with | .stream _ => true | _ => false

/-- Tries again an access that ag0 has: one that a waiting thread has at a port, one that it kept, or one that it holds
after a fault. Whatever keeps it from performing now leaves it with ag0, and a second fault waits while one is held
(R105, R208, R211). -/
def State.tryAgain (s : State) (key : Nat) (t : Thread) (a : Access) : State :=
  match s.region t.rid with
  | none => s
  | some r =>
    -- charged again only where pre-emption withdrew it (R365)
    let paid (t1 : Thread) (eff : Nat) : Thread :=
      if a.late then t1 else t1.chargeIssue (s.device (keyDev key)) (a.kind.cls eff)
    let stay (s1 : State) (t1 : Thread) (a1 : Access) : State := s1.setThread key { t1 with wait := .unparked a1 }
    let back (s1 : State) (t1 : Thread) : State :=
      if a.kind.waits then stay s1 t1 a
      else s1.setThread key (s1.putBusy key t1 a (a.guess r t1))
    let gone (t1 : Thread) : Thread :=
      if a.late then { t1 with pool := t1.pool.filter fun b => b.id != a.id } else t1
    match s.attempt key t r a with
    | .done s1 t1 eff =>
      (match t1.wait with
      | .away _ => s1.setThread key (paid t1 eff)
      | _ =>
        let t2 := paid (gone (t1.afterSts a eff)) eff
        s1.setThread key (if a.late && !a.kind.waits then t2 else t2.served a))
    | .behind s1 t1 a1 p eff =>
      if a.kind.waits then stay s1 t1 a1 else s1.setThread key (s1.putBehind key t1 a1 p eff)
    | .drains s1 t1 => stay s1 (gone t1) a
    | .busy s1 t1 => back s1 t1
    | .waits s1 t1 sec eff => s1.parkAt key (paid t1 eff) a sec
    | .fault s1 t1 c arg scope group =>
      if t1.itemFree then s1.faultAccess key (gone t1) a c arg scope group else back s1 t1

/-- Tries again the access that a waiting thread has at a port: served, parked, or faulting (R105, R208). -/
def State.retryWaiting (s : State) (key : Nat) (t : Thread) (a : Access) : State :=
  { s with parked := s.parked.filter fun c => c.2 != key }.tryAgain key { t with wait := .none } a

/-- Whether a parked access can be granted now: the sector's state lets it act, or its poison makes it trap (R104). -/
def AccKind.grantable (k : AccKind) (st : SectorState) : Bool :=
  match k with
  | .sync | .take => st ≠ .empty
  | .fill | .flag => st ≠ .full
  | _ => true

/-- PARKED_ACCESS_SERVE (R211): the first parked access of the sector that its state lets act, in grant order. -/
def execParkedAccessServe (sector : Nat) (s : State) : Res State :=
  .next <|
    match s.parked.find? (fun c => c.1 = sector &&
      match s.thread c.2 with
      | some t => (match t.wait with | .parked a => a.kind.grantable (s.sector sector) | _ => false)
      | none => false) with
    | some c =>
      match s.thread c.2 with
      | some t => (match t.wait with | .parked a => if s.goesOn c.2 t then s.retryWaiting c.2 t a else s | _ => s)
      | none => s
    | none => s

/-- PARKED_ACCESS_RETRY (R211): an access that found the list full is sent again. -/
def execParkedAccessRetry (key : Nat) (s : State) : Res State :=
  .next <|
    match s.thread key with
    | some t =>
      (match t.wait with
      | .unparked a => if s.goesOn key t then s.retryWaiting key t a else s
      | _ => s)
    | none => s

/-- ag0 issues a held access again after ERET (R208, R353): the access as it was first issued. -/
def State.retryHeld (s : State) (key : Nat) (t : Thread) (a : Access) : State :=
  s.tryAgain key { t with held := .none } a

/-- An access that ag0 keeps has its turn (R122, R123). -/
def State.poolTurn (s : State) (key id : Nat) : State :=
  match s.thread key with
  | some t =>
    (match t.pool.find? fun a => a.id = id with
    | some a => if s.goesOn key t then s.tryAgain key t a else s
    | none => s)
  | none => s

/-! Sends and replies. -/

/-- Sends the entries of a thread's buffer that `f` picks, while its region is not gated (R136, R356). -/
def State.sendFrom (s : State) (key : Nat) (f : CbEntry → Bool) : State :=
  match s.thread key with
  | some t => if s.goesOn key t then let x := sendEntries s key t f; x.1.setThread key x.2 else s
  | none => s

/-- COMBINING_BUFFER_SEND (R136): one entry of a thread's buffer is sent. -/
def execCombiningBufferSend (key n : Nat) (s : State) : Res State :=
  .next <|
    match (s.thread key).bind fun t => t.cb[n]? with
    | some e => s.sendFrom key fun x => x.id = e.id
    | none => s

/-- ACCESS_REPLY (R209): the oldest value in the tile's reply edge buffer for a thread reaches its register. -/
def execAccessReply (key : Nat) (s : State) : Res State :=
  .next <|
    match s.replies.find? fun r => r.who.key = key with
    | some r =>
      ({ s with replies := s.replies.erase r }).deliver
        { key := r.who.key, ctx := r.who.ctx, id := r.who.id, regs := [(r.dst, r.value)], flags := r.flags,
          performed := true }
    | none => s

end Sys2Proof.Machine
end

