-- ==== Sys2Proof/Machine/Saddle.lean ====
section
/-!
DEFINITION. Saddle units (R112 to R114, R221, R222, R268): one subgraph on one sector as a single action, and the
return of its result token.
-/

namespace Sys2Proof.Machine

/-- A KONST word as an operand: signed for an integer operation, else the high bits of an FP32 pattern (R267). -/
def konstValue (w : Word) (int : Bool) : Word := if int then (w.extractLsb' 0 23).signExtend 32 else w <<< 9

/-- A subgraph in progress: l0 to l3, words to write to the sector, flags. -/
structure SaddleRun where
  regs : List Word
  writes : SMap (Option Word)
  flags : Dword
  deriving DecidableEq, Repr

/-- The value of an operand source. X and Y read the sector's words as they were, since the writes land at the end.
Source 0b010 reads the other word of its pair of the table, that of index i xor 1 (DESIGN CHOICE, notes/assumptions/113.md);
where that holds no constant the manual gives no value. -/
def saddleSource (ws mem : List Word) (free : Word) (r : SaddleRun) (i : Nat) (f : LaneWord) (src : Nat) : Word :=
  if src = 0 then mem.getD (f.fmt % 16) 0
  else if src = 1 then mem.getD ((f.fmt + 1) % 16) 0
  else if src = 2 then
    let k := ws.getD (i + 1 - 2 * (i % 2)) 0
    if isKonst k then konstValue k f.op.isInt else free
  else if src = 3 then 0
  else r.regs.getD (src - 4) 0

/-- One firing: the registers and writes after it, and the result that NXT tests. -/
def saddleFire (ws mem : List Word) (free : Word) (r : SaddleRun) (i : Nat) (f : LaneWord) : SaddleRun × Word :=
  let v := laneAlu f.op (saddleSource ws mem free r i f f.sa) (saddleSource ws mem free r i f f.sb)
    (r.regs.getD f.ld 0) 0 (Rmode.of f.rnd 0) false
  ({ regs := if f.wl then r.regs.set f.ld v.1 else r.regs
     writes := if f.wz then SMap.put none r.writes (f.fmt % 16) (some v.1) else r.writes
     flags := r.flags ||| v.2 }, v.1)

/-- Runs the words from index i on (R268); nothing when more than 16 firings would be needed. -/
def saddleSteps (ws mem : List Word) (free : Word) : Nat → Nat → Nat → SaddleRun → Option SaddleRun
  | 0, _, _, _ => none
  | fuel + 1, i, fired, r =>
    match ws[i]? with
    | none => some r
    | some w =>
      if isKonst w then saddleSteps ws mem free fuel (i + 1) fired r
      else
        match laneWord w with
        | none => some r
        | some f =>
          if fired = 16 then none
          else
            let x := saddleFire ws mem free r i f
            if f.nxt = 3 then some x.1
            else if (f.nxt = 1 ∧ x.2 ≠ 0) ∨ (f.nxt = 2 ∧ x.2 = 0) then saddleSteps ws mem free fuel 0 (fired + 1) x.1
            else saddleSteps ws mem free fuel (i + 1) (fired + 1) x.1

/-- The subgraph of an entry on a sector's words. -/
def saddleRun (ws mem : List Word) (free : Word) (a0 a1 : Dword) : Option SaddleRun :=
  saddleSteps ws mem free 300 0 0
    ⟨[a0.setWidth 32, (a0 >>> 32).setWidth 32, a1.setWidth 32, (a1 >>> 32).setWidth 32], [], 0⟩

/-- The 32-bit words of a sector. -/
def State.sectorWords (s : State) (a : Nat) : List Word :=
  (List.range 16).map fun i => BitVec.ofNat 32 (s.readNat (a + 4 * i) 4)

/-- Entries that an issuer may use: those of its slot at a scratchpad unit, all 16 elsewhere (R112). -/
def Invocation.owned (v : Invocation) : Bool := 2 ^ 50 ≤ v.unitKey || v.entry / 4 = keySlot v.who.key

/-- A saddle unit performs one invocation (R114, R222, R268). The access has performed here; the result token, and the
flags of the firings, come to the issuer later (R228). A subgraph with STATUS 0x02 has written nothing and raises no flags:
the manual does not say whether those of its firings reach the issuer. DESIGN CHOICE (notes/assumptions/92.md). -/
def State.runInvocation (s : State) (v : Invocation) : State :=
  let ws := SMap.get [] s.saddles (v.unitKey * 16 + v.entry)
  let res (x : State) (value : Dword) (status : Nat) (fl : Dword) : State :=
    let r : InvResult := ⟨v.who, v.dst, v.tag, value, status, fl, v.target⟩
    let x1 := x.deliver { key := v.who.key, ctx := v.who.ctx, id := v.who.id, performed := true }
    if addrDev v.target = keyDev v.who.key then { x1 with results := x1.results ++ [r] } else x1.send (.invResult r)
  if ws = [] ∨ v.owned = false then res s 0 1 0
  else
    let d := s.draw
    match saddleRun ws (s.sectorWords v.target) (d.1.setWidth 32) v.arg0 v.arg1 with
    | none => res d.2 0 2 0
    | some r =>
      let s1 := r.writes.foldl (fun x c =>
        match c.2 with
        | some w => x.writeBytes (v.target + 4 * c.1) (leBytes w.toNat 4)
        | none => x) (if r.writes = [] then d.2 else d.2.invalidate (sectorOf v.target))
      let value : Dword := r.regs.getD 1 0 ++ r.regs.getD 0 0
      if s.sector (sectorOf v.target) = .poisoned then res s1 value 3 (r.flags ||| poisonRd)
      else res s1 value 0 r.flags

/-- Whether an invocation can run: its module is up, and no translation that its write makes void is in use (R345). -/
def State.canRun (s : State) (v : Invocation) : Bool :=
  (s.device (addrDev v.target)).module = .up &&
    !({ s with invocations := s.invocations.erase v }).inUse (sectorOf v.target) fun _ => false

/-- SADDLE_RUN (R114): the oldest invocation that has reached its unit and can run does so. -/
def execSaddleRun (s : State) : Res State :=
  .next <|
    match s.invocations.find? s.canRun with
    | some v => ({ s with invocations := s.invocations.erase v }).runInvocation v
    | none => s

/-- A result token is delivered: value and status registers, each unless a later instruction has written it, then the
tag's completion (R222). -/
def State.takeResult (s : State) (v : InvResult) : State :=
  s.deliver
    { key := v.who.key, ctx := v.who.ctx, id := v.who.id, flags := v.flags, tag := some v.tag,
      regs := [(v.dst, v.value), (v.dst + 1, BitVec.ofNat 64 v.status)] }

def isInvResult (f : Flit) : Bool := match f with | .invResult _ => true | _ => false

/-- INVOCATION_RESULT (R222, R397): the oldest result of a unit on the issuer's device is delivered, or one that comes
over the fabric. -/
def execInvocationResult (s : State) : Res State :=
  .next <|
    match s.results with
    | v :: r => ({ s with results := r }).takeResult v
    | [] => s.arrive isInvResult fun x f => match f with | .invResult v => x.takeResult v | _ => x

end Sys2Proof.Machine
end

