-- ==== Sys2Proof/Machine/Collar.lean ====
section
/-!
DEFINITION. The collar at work: which lanes feed and drain an outer edge (R258, R270, R304), the distributors with their
padding (R294, R298), lanes and block groups (R260, R264 to R266), and switch boxes, corner boxes and router ports
(R270 to R272, R300).
-/

namespace Sys2Proof.Machine

/-! Box words and outer edges. -/

/-- The word of a box node. -/
def Slot.boxOf (x : Slot) (n : Nat) : Option BoxWord := boxWord (x.word (nodeKind n) (nodeUnit n) 0)

def Slot.boxInputs (x : Slot) (n : Nat) : List Nat := match x.boxOf n with | some f => f.inputs | none => []
def Slot.boxOutputs (x : Slot) (n : Nat) : Nat := match x.boxOf n with | some f => f.outputs | none => 0

/-- What the external edge of a lane box joins: 0 to 3 the arc, 8 + q the queue endpoint q (R270). -/
def Slot.outside (x : Slot) (n : Nat) : Nat :=
  match x.boxOf n with
  | some f => if f.qm then 8 + (n - 192) / 8 else laneArc n
  | none => laneArc n

/-- The arc that holds the lanes of an outside. -/
def outsideArc (c : Nat) : Nat := if 8 ≤ c then 3 else c

/-- The lanes of an arc. -/
def arcLanes (a : Nat) : List Nat := (List.range 64).map fun i => 64 * a + i

/-- Some lane box of the arc has not switched yet (R249). -/
def Slot.arcSwitching (x : Slot) (a : Nat) : Bool := x.eocTag.isSome && x.eocLeft.any fun n => n < 256 && laneArc n = a

/-- Lanes that take tokens from outside c (R304). While the arc switches, the lanes of a port or of the array's result
are those that still run their old words; no end-of-context marker comes out of a link queue (R300). -/
def Slot.readers (x : Slot) (c : Nat) : List Nat :=
  (arcLanes (outsideArc c)).filter fun n =>
    x.outside n = c && (x.boxInputs n).contains 3 &&
      (decide (8 ≤ c) || !x.arcSwitching (outsideArc c) || x.eocLeft.contains n)

/-- An end-of-context marker has not passed the outer edge to outside c yet. -/
def Slot.outSwitching (x : Slot) (c : Nat) : Bool :=
  x.arcSwitching (outsideArc c) ||
    (arcLanes (outsideArc c)).any fun n => x.outside n = c && (x.edge (edgeEout n)).any fun t => t.kind = .eoc

/-- Lanes whose E-out edges a consumer takes from (R258). -/
def Slot.writers (x : Slot) (c : Nat) : List Nat :=
  let w (n : Nat) : Bool := x.outside n = c && bitOf (x.boxOutputs n) 4
  if x.outSwitching c then
    (arcLanes (outsideArc c)).filter fun n => (w n && x.eocLeft.contains n) || x.edge (edgeEout n) != []
  else (arcLanes (outsideArc c)).filter w

/-! Distributors (R258, R294, R298, R304). Sources are named by their outside: port w, port n, the array's result,
port ei, and ingress q as 8 + q. -/

/-- Key of a source's numbering in Slot.ports. -/
def sourceKey (c : Nat) : Nat := if c = 2 then 0x30 else if 8 ≤ c then 0x40 + (c - 8) else c

/-- The token at `taken` of an ingress slot. -/
def Queue.slotToken (q : Queue) (g : Group) : Token :=
  ⟨BitVec.ofNat 32 (field g.bytes q.taken 4), .data, true, g.poison, 0⟩

/-- The token that a taker of ingress q finds at its head; a slot goes whole to one taker (R277). -/
def Slot.ingressHead (x : Slot) (q : Nat) (who : SlotTaker) : Option Token :=
  match (x.queue q).slots with
  | some g :: _ => if (x.queue q).taker = .none ∨ (x.queue q).taker = who then some ((x.queue q).slotToken g) else none
  | _ => none

/-- Takes 4 bytes of the head slot of ingress q, which becomes empty when all 4 KiB are taken (R252). -/
def Slot.takeIngress (x : Slot) (q : Nat) (who : SlotTaker) : Slot :=
  let e := x.queue q
  if 4096 ≤ e.taken + 4 then x.setQueue q { e with slots := e.slots.drop 1, taken := 0, taker := .none }
  else x.setQueue q { e with taken := e.taken + 4, taker := who }

/-- The token at the head of a source. -/
def Slot.sourceHead (x : Slot) (c : Nat) : Option Token :=
  if c = 2 then (SMap.get [] x.outs 1).head?
  else if 8 ≤ c then
    match (x.port (sourceKey c)).buf with
    | m :: _ => some m
    | [] => x.ingressHead (c - 8) .lanes
  else (x.port c).buf.head?

def Slot.popSource (x : Slot) (c : Nat) : Slot :=
  if c = 2 then { x with outs := SMap.put [] x.outs 1 ((SMap.get [] x.outs 1).drop 1) }
  else if 8 ≤ c ∧ (x.port (sourceKey c)).buf = [] then x.takeIngress (c - 8) .lanes
  else x.setPort (sourceKey c) { x.port (sourceKey c) with buf := (x.port (sourceKey c)).buf.drop 1 }

/-- Writes a source's numbering, keeping its buffer. -/
def Slot.setSource (x : Slot) (c : Nat) (p : Port) : Slot :=
  x.setPort (sourceKey c) { p with buf := (x.port (sourceKey c)).buf }

/-- Value of Port.marked after an end-of-context marker: the next token waits until the arc has switched. -/
def markedSwitch : Nat := 1000

/-- The numbering of a source that is about to emit; nothing while it waits for its arc to switch. -/
def Slot.sourcePort (x : Slot) (oi : BitVec 16) (c : Nat) : Option Port :=
  let p := (x.port (sourceKey c)).start oi
  if p.marked = markedSwitch then
    if x.arcSwitching (outsideArc c) then none else some { p with marked := 0 }
  else some p

/-- A distributor hands the data token at its source's head to the lane whose turn it is. -/
def Slot.distribute (x : Slot) (oi : BitVec 16) (c : Nat) : Option Slot :=
  match x.sourceHead c, x.sourcePort oi c with
  | some t, some p =>
    let ls := x.readers c
    (match ls[p.sent % ls.length]? with
    | some l =>
      let u := { t with iter := p.iter }
      if t.isData && p.inWindow oi && x.room oi (edgeEin l) u then
        some (((x.popSource c).setSource c (p.emitted ls.length)).pushEdge (edgeEin l) u)
      else none
    | none => none)
  | _, _ => none

/-- A distributor at EOS or EOC: it completes the wave in progress with V = 0 tokens, then gives the marker to each lane
in turn, and the marker leaves its source (R298, R249). EOS out of a link queue waits until a lane reads it. -/
def Slot.distributeMarker (x : Slot) (oi : BitVec 16) (c : Nat) : Option Slot :=
  match x.sourceHead c, x.sourcePort oi c with
  | some m, some p =>
    let ls := x.readers c
    let finish (y : Slot) : Slot :=
      ((y.popSource c).setSource c
        { p with sent := 0, marked := if m.kind = .eoc then markedSwitch else 0
                 active := m.kind = .eoc && (x.port (sourceKey c)).active }).accepted m
    if m.isData || (decide (8 ≤ c) && ls = []) then none
    else if p.sent ≠ 0 then
      match ls[p.sent]? with
      | some l =>
        let u : Token := ⟨0, .data, false, false, p.iter⟩
        if p.inWindow oi && x.room oi (edgeEin l) u then
          some ((x.setSource c (p.emitted ls.length)).pushEdge (edgeEin l) u)
        else none
      | none => some (x.setSource c { p with sent := 0 })
    else
      match ls.find? fun l => p.marked ≤ l with
      | none => some (finish x)
      | some l =>
        let u := marker m.kind p.iter
        if p.inWindow oi && x.room oi (edgeEin l) u then
          let y := x.pushEdge (edgeEin l) u
          if ls.any fun k => l < k then some (y.setSource c { p with marked := l + 1 }) else some (finish y)
        else none
  | _, _ => none

/-- Sources of an arc's E-in edges. -/
def arcSources (a : Nat) : List Nat := if a = 3 then 3 :: (List.range 8).map fun q => 8 + q else [a]

/-! Consumers of E-out edges (R258). -/

/-- The next token that a consumer takes from outside c, and the slot without it: data in cyclic order, passing over
edges that hold a marker, and a marker once every edge holds it. Behind a marker the order begins with the first lane again.
DESIGN CHOICE (notes/assumptions/111.md). -/
def Slot.takeOut (x : Slot) (c : Nat) : Option (Token × Slot) :=
  let ls := x.writers c
  let at_ (n : Nat) : Slot := { x with takeNext := SMap.put 0 x.takeNext c n }
  let allHold (k : TokKind) : Bool := ls.all fun l => (x.headEdge (edgeEout l)).any fun t => t.kind = k
  match ls with
  | [] => none
  | l0 :: _ =>
    if allHold .eos ∨ allHold .eoc then
      (x.headEdge (edgeEout l0)).map fun m => (m, ls.foldl (fun y l => y.popEdge (edgeEout l)) (at_ 0))
    else
      let turn := SMap.get 0 x.takeNext c
      let rot := ls.filter (fun l => turn ≤ l) ++ ls.filter fun l => l < turn
      match rot.find? fun l => (x.headEdge (edgeEout l)).all Token.isData with
      | some l => (x.headEdge (edgeEout l)).map fun t => (t, (at_ (l + 1)).popEdge (edgeEout l))
      | none => none

/-! Switch boxes (R269 to R272, R300). -/

/-- Buffers of the slot that output mask m of node n names. -/
def boxEdges (n m : Nat) : List Nat :=
  if n < 256 then
    (if bitOf m 0 then [edgeX n] else []) ++ (if bitOf m 1 then [edgeY n] else []) ++
      (if bitOf m 2 then [edgeFw n] else []) ++ (if bitOf m 3 then [edgeRv n] else []) ++
      (if bitOf m 4 then [edgeEout n] else [])
  else if n < 260 then
    (if bitOf m 2 then [edgeFw n] else []) ++ (if bitOf m 3 then [edgeRv n] else []) ++
      (if bitOf m 4 then [edgeCornerOut (n - 256)] else [])
  else if bitOf m 4 then [edgeCornerIn (portCorner (n - 260))] else []

/-- A router port whose mask names the mesh link. -/
def linkOut (n m : Nat) : Bool := decide (260 ≤ n) && bitOf m 2

/-- Room in a buffer that node n writes. A box that has switched does not pass the marker on its outer edge. -/
def Slot.boxRoom (x : Slot) (oi : BitVec 16) (n e : Nat) (t : Token) : Bool :=
  x.room oi e t &&
    !(e = edgeEout n && n < 256 && x.eocTag.isSome && !x.eocLeft.contains n && x.outSwitching (x.outside n))

/-- A firing of a box: the slot after it, and a token for the mesh link. -/
abbrev BoxFired := Option (Slot × Option Token)

/-- Copies a token to every output of a mask, if all of them have room. -/
def Slot.emitBox (x : Slot) (oi : BitVec 16) (link : Token → Bool) (n m : Nat) (t : Token) : BoxFired :=
  if ((boxEdges n m).all fun e => x.boxRoom oi n e t) && (!linkOut n m || link t) then
    some ((boxEdges n m).foldl (fun y e => y.pushEdge e t) x, if linkOut n m then some t else none)
  else none

/-- Takes the head of an input. -/
def Slot.popInput (x : Slot) (n c : Nat) : Slot := x.popEdge (boxInput n c)
def Slot.headInput (x : Slot) (n c : Nat) : Option Token := x.headEdge (boxInput n c)

/-- One path of route or pair: data and EOS pass. -/
def Slot.firePath (x : Slot) (oi : BitVec 16) (link : Token → Bool) (n i m : Nat) : BoxFired :=
  match x.headInput n i with
  | some t => if t.kind = .eoc then none else (x.emitBox oi link n m t).map fun r => (r.1.popInput n i, r.2)
  | none => none

/-- A control token's test (R271, R272). -/
def Token.test (t : Token) (bit : Nat) : Bool := t.v && t.data.getLsbD bit

/-- An input that the operation takes next holds a marker: data tokens on its other inputs are discarded, and EOS goes
on once every input holds it (R260, R272, R300). -/
def Slot.drainBox (x : Slot) (oi : BitVec 16) (n : Nat) (f : BoxWord) (b : Box) (kind : TokKind) : BoxFired :=
  let data := f.inputs.filter fun i => (x.headInput n i).any Token.isData
  if data ≠ [] then some (data.foldl (fun y i => y.popInput n i) x, none)
  else if kind = .eos ∧ (f.inputs.all fun i => (x.headInput n i).any fun t => t.kind = .eos) = true then
    match x.headInput n f.ia with
    | some m =>
      (x.emitBox oi (fun _ => false) n f.outputs m).map fun r =>
        ((f.inputs.foldl (fun y i => y.popInput n i) r.1).setBox n
          { b with left := 0, looping := false, hold := none }, none)
    | none => none
  else none

/-- A data token that a control token governs goes to the outputs that it chose, or is discarded. -/
def Slot.fireGoverned (x : Slot) (oi : BitVec 16) (n : Nat) (f : BoxWord) (b : Box) : BoxFired :=
  let i := if f.op = .omerge ∧ b.sel = false then f.ib else f.ia
  let m := match f.op with
    | .steer => if b.sel then f.out0 else f.out1
    | .filter => if b.sel then f.out0 else 0
    | _ => f.out0
  match x.headInput n i with
  | none => none
  | some t =>
    if t.isData then
      (x.emitBox oi (fun _ => false) n m { t with v := t.v && b.selV }).map fun r =>
        ((r.1.popInput n i).setBox n { b with left := b.left - 1 }, r.2)
    else x.drainBox oi n f b t.kind

/-- steer, omerge and filter take the control token of the next block. -/
def Slot.fireControl (x : Slot) (oi : BitVec 16) (n : Nat) (f : BoxWord) (b : Box) : BoxFired :=
  let c := if f.op = .omerge then f.ctl else f.ib
  match x.headInput n c with
  | none => none
  | some t =>
    if t.isData then
      some ((x.popInput n c).setBox n { b with left := 2 ^ f.blk, sel := t.test f.bit, selV := t.v }, none)
    else x.drainBox oi n f b t.kind

/-- carry (R271). -/
def Slot.fireCarry (x : Slot) (oi : BitVec 16) (n : Nat) (f : BoxWord) (b : Box) : BoxFired :=
  if b.looping then
    match x.headInput n f.ctl with
    | none => none
    | some c =>
      if !c.isData then x.drainBox oi n f b c.kind
      else if !c.test f.bit then some ((x.popInput n f.ctl).setBox n { b with looping := false }, none)
      else
        match x.headInput n f.ib with
        | none => none
        | some t =>
          if !t.isData then x.drainBox oi n f b t.kind
          else
            (x.emitBox oi (fun _ => false) n f.out0 { t with v := t.v && c.v }).map fun r =>
              ((r.1.popInput n f.ctl).popInput n f.ib, r.2)
  else
    match x.headInput n f.ia with
    | none => none
    | some t =>
      if !t.isData then x.drainBox oi n f b t.kind
      else
        (x.emitBox oi (fun _ => false) n f.out0 t).map fun r =>
          ((r.1.popInput n f.ia).setBox n { b with looping := true }, r.2)

/-- inv (R271). -/
def Slot.fireInv (x : Slot) (oi : BitVec 16) (n : Nat) (f : BoxWord) (b : Box) : BoxFired :=
  match b.hold with
  | none =>
    (match x.headInput n f.ia with
    | none => none
    | some t =>
      if t.isData then some ((x.popInput n f.ia).setBox n { b with hold := some t }, none)
      else x.drainBox oi n f b t.kind)
  | some h =>
    match x.headInput n f.ib with
    | none => none
    | some c =>
      if !c.isData then x.drainBox oi n f b c.kind
      else if c.test f.bit then
        (x.emitBox oi (fun _ => false) n f.out0 { h with v := h.v && c.v }).map fun r => (r.1.popInput n f.ib, r.2)
      else some ((x.popInput n f.ib).setBox n { b with hold := none }, none)

/-- A marker on every output of a box. That of seq's OUT1 follows the waves of the source that OUT1 is (R294). -/
def Slot.emitMarker (x : Slot) (oi : BitVec 16) (link : Token → Bool) (n : Nat) (f : BoxWord) (m : Token) : BoxFired :=
  if f.op = .seq then
    (x.emitBox oi link n f.out0 m).bind fun r =>
      (r.1.emitBox oi link n (f.out1 &&& (f.out1 ^^^ f.out0)) { m with iter := ((x.port (0x100 + n)).start oi).iter }).map
        fun q => (q.1, if r.2.isSome then r.2 else q.2)
  else x.emitBox oi link n f.outputs m

/-- seq (R271, R294): its output OUT1 is a source of waves of one token. The count is valid whatever V the block's first token
has. DESIGN CHOICE (notes/assumptions/115.md). -/
def Slot.fireSeq (x : Slot) (oi : BitVec 16) (n : Nat) (f : BoxWord) (b : Box) : BoxFired :=
  let key := 0x100 + n
  match x.headInput n f.ia with
  | none => none
  | some t =>
    match t.kind with
    | .eoc => none
    | .eos =>
      (x.emitMarker oi (fun _ => false) n f t).map fun r =>
        (((r.1.popInput n f.ia).setBox n { b with left := 0, count := 0 }).setPort key
          { r.1.port key with active := false }, none)
    | .data =>
      if b.left ≠ 0 then
        (x.emitBox oi (fun _ => false) n f.out0 t).map fun r =>
          ((r.1.popInput n f.ia).setBox n { b with left := (b.left + 1) % 2 ^ f.blk }, none)
      else
        let p := (x.port key).start oi
        let u : Token := ⟨BitVec.ofNat 32 b.count, .data, true, false, p.iter⟩
        if !p.inWindow oi then none
        else
          match x.emitBox oi (fun _ => false) n f.out0 t with
          | none => none
          | some r =>
            (r.1.emitBox oi (fun _ => false) n f.out1 u).map fun q =>
              (((q.1.popInput n f.ia).setBox n
                { b with left := 1 % 2 ^ f.blk, count := (b.count + 1) % 2 ^ f.m }).setPort key (p.emitted 1), none)

/-- One firing of a box (R271). -/
def Slot.fireBox (x : Slot) (oi : BitVec 16) (link : Token → Bool) (n : Nat) : BoxFired :=
  match x.boxOf n with
  | none => none
  | some f =>
    let b := x.box n
    match f.op with
    | .idle => none
    | .route => x.firePath oi link n f.ia f.out0
    | .pair =>
      -- a path that EOC has passed waits for the other one (R300)
      (match if b.eocPath.getLsbD 0 then none else x.firePath oi link n f.ia f.out0 with
      | some r => some r
      | none => if b.eocPath.getLsbD 1 then none else x.firePath oi link n f.ib f.out1)
    | .carry => x.fireCarry oi n f b
    | .inv => x.fireInv oi n f b
    | .seq => x.fireSeq oi n f b
    | .steer | .omerge | .filter => if b.left = 0 then x.fireControl oi n f b else x.fireGoverned oi n f b

/-- The engine that runs a node: its arc, or the router with its corners. -/
def nodeEngine (n : Nat) : Nat := if n < 256 then 8 + laneArc n else 14

/-! Lanes (R260, R264, R265). -/

/-- The word at a lane's table pointer, and the other one. -/
def Slot.laneAt (x : Slot) (l : Nat) : Option LaneWord := laneWord (x.word 1 l (if (x.lane l).ptr then 1 else 0))
def Slot.laneOther (x : Slot) (l : Nat) : Word := x.word 1 l (if (x.lane l).ptr then 0 else 1)

def Lane.reg (l : Lane) (n : Nat) : Word := if n = 0 then l.l0 else if n = 1 then l.l1 else if n = 2 then l.l2 else l.l3

/-- Writes l register n with its P bit. -/
def Lane.setReg (l : Lane) (n : Nat) (v : Word) (p : Bool) : Lane :=
  let m : BitVec 4 := 1#4 <<< n
  let l1 := { l with pbits := if p then l.pbits ||| m else l.pbits &&& ~~~m }
  if n = 0 then { l1 with l0 := v } else if n = 1 then { l1 with l1 := v }
  else if n = 2 then { l1 with l2 := v } else { l1 with l3 := v }

/-- The mode of a rounding code with this lane's draw (R264). -/
def Lane.mode (l : Lane) (rnd : Nat) (key : Dword) : Rmode :=
  Rmode.of rnd (srDraw key (l.l3.extractLsb' 16 16) (l.l3.setWidth 16) l.l2)

/-- After a stochastic rounding the index steps. -/
def Lane.stepIndex (l : Lane) (rnd inc : Nat) : Lane := if rnd = 5 then { l with l2 := l.l2 + BitVec.ofNat 32 inc } else l

/-- The pointer after a firing (R259). The other word's own NXT acts when that word fires: `once` moves the pointer for
good only where that word says stay. DESIGN CHOICE (notes/assumptions/96.md). -/
def Lane.advance (l : Lane) (nxt : Nat) : Lane := if nxt = 1 ∨ nxt = 2 then { l with ptr := !l.ptr } else l

/-- Edges that a lane word names: 0 X, 1 Y. -/
def LaneWord.edges (f : LaneWord) : List Nat := ([0, 1]).filter fun s => f.sa = s || f.sb = s

def laneEdge (l s : Nat) : Nat := if s = 0 then edgeX l else edgeY l

/-- Both words of a lane. -/
def Slot.laneWords (x : Slot) (l : Nat) : List LaneWord := ([0, 1]).filterMap fun i => laneWord (x.word 1 l i)

/-- Whether the lane's word ever fires (R260). -/
def LaneWord.fires (f : LaneWord) : Bool := f.op != .idle && f.op != .konst && !f.op.isGroup && f.edges != []

/-- Edges that a lane's words take tokens from, and whether one of them writes Z. -/
def Slot.laneInputs (x : Slot) (l : Nat) : List Nat :=
  ((x.laneWords l).flatMap fun f => if f.op.isGroup then [0] else if f.fires then f.edges else []).dedup
def Slot.laneOutputs (x : Slot) (l : Nat) : Bool := (x.laneWords l).any fun f => f.wz && (f.op.isGroup || f.fires)

/-- An operand: value and P bit. -/
def Slot.laneOperand (x : Slot) (l : Nat) (f : LaneWord) (src : Nat) : Word × Bool :=
  if src ≤ 1 then match x.headEdge (laneEdge l src) with
    | some t => (t.data, t.p)
    | none => (0, false)
  else if src = 2 then (konstValue (x.laneOther l) f.op.isInt, false)
  else if src = 3 then (0, false)
  else ((x.lane l).reg (src - 4), (x.lane l).pbits.getLsbD (src - 4))

/-- A register operation on a data token (R265): the lane after it, and flags. -/
def Lane.reduce (l : Lane) (f : LaneWord) (key : Dword) (a : Word) (p : Bool) : Lane × Dword :=
  if l.fresh then ({ l.setReg f.ld a p with fresh := false }, 0)
  else
    let r := laneAlu f.op a 0 (l.reg f.ld) f.fmt (l.mode f.rnd key) f.sat
    ((l.stepIndex f.rnd (4 ^ f.aux)).setReg f.ld r.1 (p || l.pbits.getLsbD f.ld), r.2)

/-- A firing of lane l on data tokens: the slot, flags, and whether the firing had V = 1. A stochastic firing steps l2 before
WL writes its result. DESIGN CHOICE (notes/assumptions/112.md). -/
def Slot.fireLane (x : Slot) (oi : BitVec 16) (l : Nat) : Option (Slot × Dword × Bool) :=
  match x.laneAt l with
  | none => none
  | some f =>
    let heads := f.edges.map fun s => x.headEdge (laneEdge l s)
    if !f.fires || !(heads.all fun h => h.any Token.isData) then none
    else
      let v := heads.all fun h => h.all Token.v
      let p := heads.any fun h => h.any Token.p
      let iter := match heads with | some t :: _ => t.iter | _ => 0
      let wz := f.wz && !f.op.isRegister
      let ln := x.lane l
      let key := (x.engine (8 + laneArc l)).key
      let a := x.laneOperand l f f.sa
      let b := x.laneOperand l f f.sb
      if wz && !x.room oi (edgeZ l) ⟨0, .data, v, false, iter⟩ then none
      else
        let y := f.edges.foldl (fun z s => z.popEdge (laneEdge l s)) x
        let out (z : Slot) (w : Word) (pp : Bool) : Slot :=
          if wz then z.pushEdge (edgeZ l) ⟨w, .data, v, pp, iter⟩ else z
        if !v then some (out (y.setLane l (ln.advance f.nxt)) 0 p, 0, false)
        else if f.op.isRegister then
          let r := ln.reduce f key a.1 (a.2 || b.2)
          some (y.setLane l (r.1.advance f.nxt), r.2, true)
        else
          let pp := a.2 || b.2 || (f.op = .fma && ln.pbits.getLsbD f.ld)
          let r := laneAlu f.op a.1 b.1 (ln.reg f.ld) f.fmt (ln.mode f.rnd key) f.sat
          let l1 := ln.stepIndex f.rnd (4 ^ f.aux)
          let l2 := if f.wl then l1.setReg f.ld r.1 pp else l1
          some (out (y.setLane l (l2.advance f.nxt)) r.1 pp, r.2, true)

/-- EOS at a lane (R260, R265): a data token behind which EOS waits on the other edge is discarded; once EOS is on every
edge that the word names, a register operation emits what it holds, and the lane forwards or absorbs EOS, each as Z has
room for it (R296). Behind an end-of-context marker the old data on every edge of the lane's words is discarded (R300). -/
def Slot.laneMarker (x : Slot) (oi : BitVec 16) (l : Nat) : Option Slot :=
  match x.laneAt l with
  | none => none
  | some f =>
    let heads := f.edges.map fun s => x.headEdge (laneEdge l s)
    let marks := heads.any fun h => h.any fun t => !t.isData
    let eoc := heads.any fun h => h.any fun t => t.kind = .eoc
    let data := (if eoc then x.laneInputs l else f.edges).filter fun s => (x.headEdge (laneEdge l s)).any Token.isData
    let ln := x.lane l
    if !f.fires || !marks then none
    else if data ≠ [] then some (data.foldl (fun z s => z.popEdge (laneEdge l s)) x)
    else if !(heads.all fun h => h.any fun t => t.kind = .eos) then none
    else
      let m := match heads with | some t :: _ => t | _ => marker .eos 0
      let red := f.op.isRegister && f.wz && !ln.fresh
      let r : Token := ⟨ln.reg f.ld, .data, true, ln.pbits.getLsbD f.ld, m.iter⟩
      if f.wz && !x.room oi (edgeZ l) m then none
      else
        let y1 := if red then (x.pushEdge (edgeZ l) r).setLane l { ln with fresh := true } else x
        if f.wz && !y1.room oi (edgeZ l) m then some y1
        else
          let y := f.edges.foldl (fun w s => w.popEdge (laneEdge l s)) y1
          let y2 := if f.wz then y.pushEdge (edgeZ l) m else y
          some (y2.setLane l { ln with
            fresh := ln.fresh || f.op.isRegister || f.wz
            ptr := (x.engine (8 + laneArc l)).idx = 1 })

/-! Block groups (R264, R266). -/

/-- The lanes of block group g, 0 to 7 over the module's arcs. -/
def groupLanes (g : Nat) : List Nat := (List.range 32).map fun j => 32 * g + j

/-- The group operation that all 32 lanes of a group stand at. -/
def Slot.groupAt (x : Slot) (g : Nat) : Option LaneWord :=
  match x.laneAt (32 * g) with
  | some f => if f.op.isGroup && (groupLanes g).all fun l => x.laneAt l = some f then some f else none
  | none => none

/-- What a group operation puts on its lanes: words by lane offset, flags, and the byte carry after it. -/
def groupResult (f : LaneWord) (ls : List Lane) (key : Dword) (xs : List Word) (carry : List Byte) :
    List (Nat × Word) × Dword × List Byte :=
  let modes := ls.map fun l => l.mode f.rnd key
  let number (ws : List Word) : List (Nat × Word) := (List.range ws.length).zip ws
  match f.op with
  | .gsum =>
    let r := groupSum xs (modes.headD .rne) f.sat
    (number (List.replicate 32 (BitVec.ofNat 32 r.1)), r.2, carry)
  | .gmax => (number (List.replicate 32 (BitVec.ofNat 32 (groupMax xs))), 0, carry)
  | .mxq =>
    let e := mxElement f.fmt
    let r := mxQuantise xs e modes f.sat
    (number (packWords (fmtBits e) r.2.1) ++ [(31, BitVec.ofNat 32 r.1)], r.2.2, carry)
  | .tbq =>
    let r := tbQuantise f.fmt f.aux xs modes f.sat
    (number (packWords (if f.fmt = 0x12 then 8 else 6) r.2.1) ++ [(31, BitVec.ofNat 32 r.1)], r.2.2, carry)
  | .ecfq =>
    let r := ecfEncode (xs.map fun w => w.toNat % 256)
    let bs := carry ++ r.2
    let k := bs.length / 4
    (((List.range k).map fun i => (i, BitVec.ofNat 32 (field bs (4 * i) 4))) ++ [(31, BitVec.ofNat 32 r.1)], 0,
      bs.drop (4 * k))
  | .gpack => (number (packWords (fmtBits f.fmt) (xs.map BitVec.toNat)), 0, carry)
  | _ => ([], 0, carry)

/-- Offsets of the lanes whose l2 steps, and whether all 32 step, after a stochastic rounding. -/
def groupSteps (f : LaneWord) (j : Nat) : Bool := f.rnd = 5 && (f.op = .mxq || f.op = .tbq || (f.op = .gsum && j = 0))

/-- A firing of block group g: the slot, flags, and whether any input had V = 1. -/
def Slot.fireGroup (x : Slot) (oi : BitVec 16) (g : Nat) : Option (Slot × Dword × Bool) :=
  match x.groupAt g with
  | none => none
  | some f =>
    let ls := groupLanes g
    let heads := ls.filterMap fun l => x.headEdge (edgeX l)
    if heads.length ≠ 32 ∨ !(heads.all Token.isData) then none
    else
      let v := heads.any Token.v
      let p := heads.any Token.p
      let key := (x.engine (8 + laneArc (32 * g))).key
      let old := SMap.get [] x.carry g
      let oldP := SMap.get false x.carryP g
      let r := groupResult f (ls.map x.lane) key (heads.map fun t => if t.v then t.data else 0) old
      let toks := r.1.map fun c =>
        (32 * g + c.1, (⟨if v then c.2 else 0, .data, v, p || (f.op = .ecfq && c.1 = 0 && oldP), (heads.getD c.1 (marker .data 0)).iter⟩ : Token))
      if !(toks.all fun c => x.room oi (edgeZ c.1) c.2) then none
      else
        let y := ls.foldl (fun z l => z.popEdge (edgeX l)) x
        let y1 := toks.foldl (fun z c => z.pushEdge (edgeZ c.1) c.2) y
        let y2 := ls.foldl (fun z l =>
          let a := z.lane l
          let b := if v && groupSteps f (l % 32) then a.stepIndex f.rnd 64 else a
          z.setLane l (b.advance f.nxt)) y1
        -- the first token carries all old bytes; where there is none, they stay
        let kept := r.2.2 != [] && if f.op = .ecfq then p || (oldP && r.1.length = 1) else oldP
        some ({ y2 with
            carry := if v then SMap.put [] y2.carry g r.2.2 else y2.carry
            carryP := if v then SMap.put false y2.carryP g kept else y2.carryP }, if v then r.2.1 else 0, v)

/-- EOS at a block group (R265, R266): the carry is padded to a whole token and emitted, and EOS goes on on all 32 lanes,
each as its Z has room. Behind an end-of-context marker the old data on every edge of the lanes' words is discarded (R300). -/
def Slot.groupMarker (x : Slot) (oi : BitVec 16) (g : Nat) : Option Slot :=
  match x.groupAt g with
  | none => none
  | some f =>
    let ls := groupLanes g
    let heads := ls.map fun l => x.headEdge (edgeX l)
    let eoc := heads.any fun h => h.any fun t => t.kind = .eoc
    let edges := ls.flatMap fun l => (if eoc then x.laneInputs l else [0]).map fun i => laneEdge l i
    let data := edges.filter fun e => (x.headEdge e).any Token.isData
    if !(heads.any fun h => h.any fun t => !t.isData) then none
    else if data ≠ [] then some (data.foldl (fun z e => z.popEdge e) x)
    else if !(heads.all fun h => h.any fun t => t.kind = .eos) then none
    else
      let carry := SMap.get [] x.carry g
      let rest := f.op = .ecfq && carry != []
      let m := (heads.headD none).getD (marker .eos 0)
      let r : Token := ⟨BitVec.ofNat 32 (leNat carry), .data, true, SMap.get false x.carryP g, m.iter⟩
      if rest && !x.room oi (edgeZ (32 * g)) r then none
      else
        let y := if rest then
            { x.pushEdge (edgeZ (32 * g)) r with carry := SMap.put [] x.carry g [], carryP := SMap.put false x.carryP g false }
          else x
        let eos (l : Nat) : Token := (x.headEdge (edgeX l)).getD m
        if !(ls.all fun l => y.room oi (edgeZ l) (eos l)) then (if rest then some y else none)
        else
          some (ls.foldl (fun z l =>
            ((z.popEdge (edgeX l)).pushEdge (edgeZ l) (eos l)).setLane l
              { z.lane l with fresh := true, ptr := (x.engine (8 + laneArc l)).idx = 1 }) y)

/-! The events. -/

/-- Runs a change of the slot's datapath in a running engine. -/
def State.inEngine (s : State) (key e : Nat) (f : Thread → Region → Slot → State) : State :=
  s.inSlot key fun t r x => if (x.engine e).running then f t r x else s

/-- LANE_FIRE (R260). -/
def execLaneFire (key : Nat) (lane : BitVec 8) (s : State) : Res State :=
  let l := lane.toNat
  .next <| s.inEngine key (8 + laneArc l) fun t r x =>
    match x.fireLane (r.oiOf t.part) l with
    | some (y, fl, v) => ((s.chargeAt key 13 (if v then 1 else 0)).raiseAt key fl 0).commit key y
    | none => s

/-- LANE_EOS (R260, R265, R266): the marker at a lane, or at the block group that the lane stands in. -/
def execLaneEos (key : Nat) (lane : BitVec 8) (s : State) : Res State :=
  let l := lane.toNat
  .next <| s.inEngine key (8 + laneArc l) fun t r x =>
    let y := if (x.groupAt (l / 32)).isSome then x.groupMarker (r.oiOf t.part) (l / 32)
      else x.laneMarker (r.oiOf t.part) l
    match y with
    | some z => s.commit key z
    | none => s

/-- GROUP_FIRE (R266). -/
def execGroupFire (key : Nat) (grp : BitVec 3) (s : State) : Res State :=
  let g := grp.toNat
  .next <| s.inEngine key (8 + laneArc (32 * g)) fun t r x =>
    match x.fireGroup (r.oiOf t.part) g with
    | some (y, fl, v) => ((s.chargeAt key 13 (if v then 32 else 0)).raiseAt key fl 0).commit key y
    | none => s

/-- The thread key across the mesh link of router port p (R270, R293). -/
def Region.acrossLink (r : Region) (t : Thread) (p : Nat) : Option Nat :=
  (r.neighbour t.rx t.ry p).map fun c => r.keyAt t.part c.1 c.2

/-- The mesh link out of router port p of a slot: the slot across it, the buffer there that a token enters, and the ends of
the links that share a bridge with it (R289). -/
structure LinkEnd where
  key : Nat
  edge : Nat
  port : Nat
  bridge : List (Nat × Nat)

def State.linkEnd (s : State) (key : Nat) (t : Thread) (r : Region) (p : Nat) : Option LinkEnd :=
  (r.acrossLink t p).map fun k =>
    let q := oppositePort p
    ⟨k, (s.slot k).linkEntry q (dieKey (keyTile key) != dieKey (keyTile k)), q,
      r.bridgeEnds t.part (dieKey (keyTile key)) (dieKey (keyTile k))⟩

/-- Whether the far end of a link has room. -/
def State.linkRoom (s : State) (oi : BitVec 16) (far : Option LinkEnd) (u : Token) : Bool :=
  match far with
  | some l =>
    if edgeBridge 0 ≤ l.edge then accepts 64 (s.bridgeUsed l.bridge) oi u.iter else (s.slot l.key).room oi l.edge u
  | none => false

/-- A token enters the far end of a link. -/
def State.linkPush (s : State) (oi : BitVec 16) (far : Option LinkEnd) (u : Option Token) : State :=
  match u, far with
  | some tok, some l => s.setSlot l.key (((s.slot l.key).pushEdge l.edge tok).crossBridge oi l.port)
  | _, _ => s

/-- SWITCH_BOX_FIRE (R271): a lane box, corner box or router port fires. A token on a mesh link enters the facing
router port of the neighbour. -/
def execSwitchBoxFire (key node : Nat) (s : State) : Res State :=
  .next <| s.inEngine key (nodeEngine node) fun t r x =>
    let oi := r.oiOf t.part
    let p := node - 260
    let far := if 260 ≤ node ∧ node < 264 then s.linkEnd key t r p else none
    let z := if 260 ≤ node then x.crossBridge oi p else x
    if 264 ≤ node then s
    else
      match z.fireBox oi (s.linkRoom oi far) node with
      | none => if 260 ≤ node then s.setSlot key z else s
      | some (y, u) => (s.commit key y).linkPush oi far u

/-- The first of some changes that can be made. -/
def firstSome {α β : Type} (f : α → Option β) : List α → Option β
  | [] => none
  | a :: r => match f a with | some b => some b | none => firstSome f r

/-- ARC_EOS_PADDING (R298). -/
def execArcEosPadding (key : Nat) (arc : Arc) (s : State) : Res State :=
  let a := match arc with | .west => 0 | .north => 1 | .south => 2 | .east => 3
  .next <| s.inSlot key fun t r x =>
    match firstSome (fun c => x.distributeMarker (r.oiOf t.part) c) (arcSources a) with
    | some y => s.commit key y
    | none => s

/-! The oldest iteration (R295). -/

/-- Iterations of the tokens in flight in a slot. -/
def Slot.liveIters (x : Slot) : List (BitVec 16) :=
  (x.edges.flatMap fun c => c.2.map Token.iter) ++ x.boxes.filterMap fun c => c.2.hold.map Token.iter

/-- A source of waves (R294): the ITER that it emits next, and whether it has something to emit or a command that will give
it something. -/
structure Source where
  iter : BitVec 16
  busy : Bool
  deriving DecidableEq, Repr

/-- Whether the distributor of outside c has tokens at it or a command of its port. -/
def Slot.sourceBusy (x : Slot) (c : Nat) : Bool :=
  (x.sourceHead c).isSome || (decide (c < 8 ∧ c ≠ 2) && x.entries (sourceKey c) != [])

/-- Whether a distributor has lanes to hand tokens to, now or behind the switch of its arc. -/
def Slot.feeds (x : Slot) (c : Nat) : Bool := x.readers c != [] || x.arcSwitching (outsideArc c)

/-- The sources of a slot that have started and sent no EOS since, or that have something to emit: they start now. One whose
tokens no lane takes can emit none. -/
def Slot.sources (x : Slot) (oi : BitVec 16) : List Source :=
  let src (key : Nat) (busy : Bool) : Option Source :=
    let p := x.port key
    if p.active || busy then some ⟨(p.start oi).iter, busy || p.sent != 0⟩ else none
  ([0, 1, 2, 3, 8, 9, 10, 11, 12, 13, 14, 15].filterMap fun c =>
    if x.feeds c then src (sourceKey c) (x.sourceBusy c && x.readers c != []) else none) ++
  ((List.range 260).filterMap fun n =>
    match x.boxOf n with
    | some f => if f.op = .seq then src (0x100 + n) ((x.headInput n f.ia).any Token.isData) else none
    | none => none)

/-- A started source that has nothing to emit and no command. -/
def Source.rests (c : Source) : Bool := !c.busy

/-- OI_ADVANCE (R295): no token of the oldest iteration is in flight in the part, and no source can still emit one. With
nothing in flight and no source under way the counter stands. A source that rests holds the counter back until another source
has filled the window, and no longer (R297).
DEDUCED (notes/assumptions/38.md). -/
def execOiAdvance (rid part : Nat) (s : State) : Res State :=
  .next <|
    match s.region rid with
    | none => s
    | some r =>
      let oi := r.oiOf part
      let slots := (r.positions.filter fun c => c.1 = part).map fun c => s.slot (r.keyAt c.1 c.2.1 c.2.2)
      let live := slots.flatMap Slot.liveIters
      let srcs := slots.flatMap fun x => x.sources oi
      let holds (c : Source) : Bool := c.iter = oi
      let full := srcs.any fun c => c.busy && c.iter = oi + 64
      if r.acts s.now = true ∧ (live ≠ [] ∨ srcs ≠ []) ∧ !live.contains oi ∧
          srcs.all (fun c => !holds c || (c.rests && full)) = true then
        s.setRegion rid { r with oi := SMap.put 0 r.oi part (oi + 1) }
      else s

end Sys2Proof.Machine
end

