-- ==== Sys2Proof/Machine/Csr.lean ====
section
/-!
DEFINITION. User CSRs (R185 to R188): reads, writes, and the effects of a write to TAGS, FLAGS and SR_SEED.
-/

namespace Sys2Proof.Machine

/-- BOOST_LEASE (R187). -/
def Lease.csr (l : Lease) : Dword :=
  zextD l.state ||| (zextD l.step <<< 8) ||| (zextD l.remain <<< 16) ||| (boolD l.clipped <<< 30)

/-- SAVESET_LEN (R187): number of pieces and total bytes. -/
def savesetLen (ps : List Piece) : Dword :=
  BitVec.ofNat 64 (ps.length + ((ps.map Piece.len).foldl (fun (a : Nat) b => a + b) 0) * 2 ^ 16)

/-- The region of a thread, and the default lease where there is none. -/
def State.lease (s : State) (t : Thread) : Lease :=
  match s.region t.rid with
  | some r => r.lease
  | none => {}

def State.savesetBase (s : State) (t : Thread) : Dword :=
  match s.region t.rid with
  | some r => r.savesetBase
  | none => 0

def State.pieces (s : State) (t : Thread) : List Piece :=
  match s.region t.rid with
  | some r => r.saveset
  | none => []

/-- The value of user CSR `n`; numbers from 0x00B up name no CSR (R186). -/
def csrRead (s : State) (t : Thread) (n : BitVec 12) : Option Dword :=
  match n.toNat with
  | 0 => some t.tags
  | 1 => some t.flags
  | 2 => some t.ctxId
  | 3 => some t.domMemb
  | 4 => some t.srSeed
  | 5 => some (t.energy >>> 16)
  | 6 => some (t.energy &&& 0xFFFF#64)
  | 7 => some (s.lease t).csr
  | 8 => some (s.savesetBase t)
  | 9 => some (savesetLen (s.pieces t))
  | 10 => some t.latMode
  | _ => none

/-- A write to TAGS clears the bits written 1; the hidden counts stay (R186). -/
def Thread.writeTags (t : Thread) (v : Dword) : Thread := { t with tags := t.tags &&& ~~~v }

/-- A write to FLAGS clears [6:0] where 1 is written and replaces BADSPARSE (R186). -/
def Thread.writeFlags (t : Thread) (v : Dword) : Thread :=
  { t with flags := (t.flags &&& ~~~v &&& 0x7F#64) ||| (v &&& 0xFFFF0000#64) }

/-- A write to user CSR `n`; a CSR that refuses writes, or no CSR, gives nothing (R186). -/
def csrWrite (t : Thread) (n : BitVec 12) (v : Dword) : Option Thread :=
  match n.toNat with
  | 0 => some (t.writeTags v)
  | 1 => some (t.writeFlags v)
  | 4 => some { t with srSeed := v }
  | _ => none

/-- csrr, alone or behind a LIM. -/
def csrrOp (s : State) (d : Reg) (n : BitVec 12) (len : Nat) : Res State :=
  onThread s fun t =>
    match csrRead s t n with
    | some v => retire s (t.writeG d v) 0 len
    | none => illegal s

/-- csrw, alone or behind a LIM. -/
def csrwOp (s : State) (a : Reg) (n : BitVec 12) (len : Nat) : Res State :=
  onThread s fun t =>
    match csrWrite t n (t.readG a) with
    | some t1 => retire s t1 0 len
    | none => illegal s

/-- csrrw, alone or behind a LIM: the old value is read and the new one written as one action; where the write is
refused nothing is read. -/
def csrrwOp (s : State) (d a : Reg) (n : BitVec 12) (len : Nat) : Res State :=
  onThread s fun t =>
    match csrRead s t n, csrWrite t n (t.readG a) with
    | some v, some t1 => retire s (t1.writeG d v) 0 len
    | _, _ => illegal s

/-- csrr (R185). -/
def execCsrr (d : Reg) (n : BitVec 12) (s : State) : Res State := csrrOp s d n 4

/-- csrw (R185). -/
def execCsrw (a : Reg) (n : BitVec 12) (s : State) : Res State := csrwOp s a n 4

/-- csrrw (R185). -/
def execCsrrw (d a : Reg) (n : BitVec 12) (s : State) : Res State := csrrwOp s d a n 4

/-- TAGS_WRITE (R186): the effect of a CSR write to TAGS of the current thread. -/
def execTagsWrite (v : Dword) (s : State) : Res State :=
  onThread s fun t => .next (s.setThread s.cur (t.writeTags v))

/-- FLAGS_WRITE (R186): the effect of a CSR write to FLAGS of the current thread. -/
def execFlagsWrite (v : Dword) (s : State) : Res State :=
  onThread s fun t => .next (s.setThread s.cur (t.writeFlags v))

/-- USER_CSR_WRITE (R186): SR_SEED is the one writable user CSR without behaviour of its own. -/
def execUserCsrWrite (n : BitVec 12) (v : Dword) (s : State) : Res State :=
  onThread s fun t => .next (s.setThread s.cur (if n = 4 then { t with srSeed := v } else t))

end Sys2Proof.Machine
end

