-- ==== Sys2Proof/Machine/Fp.lean ====
section
/-!
DEFINITION. FP32 scalar instructions (R189 to R191). The result goes to g[d][31:0] with g[d][63:32] zero, and flags
to the issuing thread.
-/

namespace Sys2Proof.Machine

/-- Writes an FP32 result and raises its flags. -/
def fpWrite (s : State) (t : Thread) (d : Reg) (r : Nat × Dword) : Res State :=
  retire s ((t.writeG d (BitVec.ofNat 64 r.1)).raise r.2) 2 4

/-- The value of an FP32 register operand. -/
def Thread.fp (t : Thread) (r : Reg) : XR := fp32.value (fpArg (t.readG r))

/-- A two-operand FP32 form. -/
def fp2 (s : State) (d a b : Reg) (g : Guard) (rm : BitVec 3) (f : XR → XR → Rmode → Nat × Dword) : Res State :=
  guarded s g fun t => fpWrite s t d (f (t.fp a) (t.fp b) (Rmode.of rm.toNat 0))

/-- fadd (R190). -/
def execFadd (d a b : Reg) (g : Guard) (rm : BitVec 3) (s : State) : Res State := fp2 s d a b g rm addX

/-- fsub (R190): the sum a + (−b) of R413; a NaN operand keeps its own sign. -/
def execFsub (d a b : Reg) (g : Guard) (rm : BitVec 3) (s : State) : Res State :=
  fp2 s d a b g rm fun x y m => addX x (if y.isNan then y else y.neg) m

/-- fmul (R190). -/
def execFmul (d a b : Reg) (g : Guard) (rm : BitVec 3) (s : State) : Res State := fp2 s d a b g rm mulX

/-- fdiv (R190). -/
def execFdiv (d a b : Reg) (g : Guard) (rm : BitVec 3) (s : State) : Res State := fp2 s d a b g rm divX

/-- fsqrt (R190). -/
def execFsqrt (d a : Reg) (g : Guard) (rm : BitVec 3) (s : State) : Res State :=
  guarded s g fun t => fpWrite s t d (sqrtX (t.fp a) (Rmode.of rm.toNat 0))

/-- fmin (R190): −0 below +0, no flag. -/
def execFmin (d a b : Reg) (g : Guard) (s : State) : Res State :=
  guarded s g fun t => fpWrite s t d (minmaxX false (fpArg (t.readG a)) (fpArg (t.readG b)))

/-- fmax (R190). -/
def execFmax (d a b : Reg) (g : Guard) (s : State) : Res State :=
  guarded s g fun t => fpWrite s t d (minmaxX true (fpArg (t.readG a)) (fpArg (t.readG b)))

/-- fma (R190): A × B + D, rounded once. -/
def execFma (d a b : Reg) (g : Guard) (rm : BitVec 3) (s : State) : Res State :=
  guarded s g fun t => fpWrite s t d (fmaX (t.fp a) (t.fp b) (t.fp d) (Rmode.of rm.toNat 0))

/-- fcvtf.i64 (R190). -/
def execFcvtfI64 (d a : Reg) (g : Guard) (rm : BitVec 3) (s : State) : Res State :=
  guarded s g fun t => fpWrite s t d (roundFmt (XR.ofInt (t.readG a).toInt) fp32 (Rmode.of rm.toNat 0) false)

/-- fcvtf.n64 (R190). -/
def execFcvtfN64 (d a : Reg) (g : Guard) (rm : BitVec 3) (s : State) : Res State :=
  guarded s g fun t => fpWrite s t d (roundFmt (XR.ofNat (t.readG a).toNat) fp32 (Rmode.of rm.toNat 0) false)

/-- An FP32 to integer conversion under R78, written as 64 bits. -/
def fpToInt (s : State) (t : Thread) (d a : Reg) (rm : BitVec 3) (lo hi : Int) : Res State :=
  let r := roundInt (t.fp a) lo hi (Rmode.of rm.toNat 0)
  retire s ((t.writeG d (BitVec.ofInt 64 r.1)).raise r.2) 2 4

/-- fcvti.i64 (R190). -/
def execFcvtiI64 (d a : Reg) (g : Guard) (rm : BitVec 3) (s : State) : Res State :=
  guarded s g fun t => fpToInt s t d a rm (-2 ^ 63) (2 ^ 63 - 1)

/-- fcvti.n64 (R190). -/
def execFcvtiN64 (d a : Reg) (g : Guard) (rm : BitVec 3) (s : State) : Res State :=
  guarded s g fun t => fpToInt s t d a rm 0 (2 ^ 64 - 1)

/-- fcmp (R191). -/
def execFcmp (p : BitVec 3) (a b : Reg) (g : Guard) (cc : BitVec 3) (s : State) : Res State :=
  guarded s g fun t =>
    let r := fcmpX cc.toNat (t.fp a) (t.fp b)
    retire s ((t.writeP p r.1).raise r.2) 2 4

end Sys2Proof.Machine
end

