-- ==== Sys2Proof/Machine/Scalar.lean ====
section
/-!
DEFINITION. Integer, immediate, address, comparison, predicate and select instructions (R173 to R184).
-/

namespace Sys2Proof.Machine

/-- A two-operand register form of major 0x01: operands read at issue, the result written, energy class `cls`. -/
def alu2 (s : State) (d a b : Reg) (g : Guard) (cls : Nat) (f : Dword → Dword → Dword) : Res State :=
  guarded s g fun t => retire s (t.writeG d (f (t.readG a) (t.readG b))) cls 4

/-- A one-operand register form of major 0x01. -/
def alu1 (s : State) (d a : Reg) (g : Guard) (f : Dword → Dword) : Res State :=
  guarded s g fun t => retire s (t.writeG d (f (t.readG a))) 0 4

/-- An immediate form: `v` is the immediate of R150 or of R151, `len` 4 or 8 bytes. -/
def aluImm (s : State) (d a : Reg) (v : Dword) (len : Nat) (f : Dword → Dword → Dword) : Res State :=
  onThread s fun t => retire s (t.writeG d (f (t.readG a) v)) 0 len

/-- A predicate form of major 0x0C. -/
def predOp (s : State) (pd pa pb : BitVec 3) (g : Guard) (f : Bool → Bool → Bool) : Res State :=
  guarded s g fun t => retire s (t.writeP pd (f (t.readP pa) (t.readP pb))) 0 4

/-- The result of LUI (R178). -/
def luiVal (a v : Dword) : Dword := (v.setWidth 32 : Word) ++ (a.setWidth 32 : Word)

/-- CMPI and its LIM form (R182). -/
def cmpiOp (s : State) (cc : BitVec 2) (p : BitVec 3) (a : Reg) (v : Dword) (len : Nat) : Res State :=
  onThread s fun t => retire s (t.writeP p (cmpVal (cmpiCode cc) (t.readG a) v)) 0 len

/-- add (R174). -/
def execAdd (d a b : Reg) (g : Guard) (s : State) : Res State := alu2 s d a b g 0 fun x y => x + y

/-- sub (R174). -/
def execSub (d a b : Reg) (g : Guard) (s : State) : Res State := alu2 s d a b g 0 fun x y => x - y

/-- and (R174). -/
def execAnd (d a b : Reg) (g : Guard) (s : State) : Res State := alu2 s d a b g 0 fun x y => x &&& y

/-- or (R174). -/
def execOr (d a b : Reg) (g : Guard) (s : State) : Res State := alu2 s d a b g 0 fun x y => x ||| y

/-- xor (R174). -/
def execXor (d a b : Reg) (g : Guard) (s : State) : Res State := alu2 s d a b g 0 fun x y => x ^^^ y

/-- andn (R174). -/
def execAndn (d a b : Reg) (g : Guard) (s : State) : Res State := alu2 s d a b g 0 fun x y => x &&& ~~~y

/-- shl (R174). -/
def execShl (d a b : Reg) (g : Guard) (s : State) : Res State := alu2 s d a b g 0 fun x y => x <<< shiftAmt y

/-- shr (R174). -/
def execShr (d a b : Reg) (g : Guard) (s : State) : Res State := alu2 s d a b g 0 fun x y => x >>> shiftAmt y

/-- sra (R174). -/
def execSra (d a b : Reg) (g : Guard) (s : State) : Res State := alu2 s d a b g 0 fun x y => x.sshiftRight (shiftAmt y)

/-- rol (R174). -/
def execRol (d a b : Reg) (g : Guard) (s : State) : Res State := alu2 s d a b g 0 fun x y => x.rotateLeft (shiftAmt y)

/-- min (R174). -/
def execMin (d a b : Reg) (g : Guard) (s : State) : Res State := alu2 s d a b g 0 fun x y => if x.sle y then x else y

/-- max (R174). -/
def execMax (d a b : Reg) (g : Guard) (s : State) : Res State := alu2 s d a b g 0 fun x y => if y.sle x then x else y

/-- minn (R174). -/
def execMinn (d a b : Reg) (g : Guard) (s : State) : Res State := alu2 s d a b g 0 fun x y => if x.ule y then x else y

/-- maxn (R174). -/
def execMaxn (d a b : Reg) (g : Guard) (s : State) : Res State := alu2 s d a b g 0 fun x y => if y.ule x then x else y

/-- slt (R174). -/
def execSlt (d a b : Reg) (g : Guard) (s : State) : Res State := alu2 s d a b g 0 fun x y => boolD (x.slt y)

/-- sltn (R174). -/
def execSltn (d a b : Reg) (g : Guard) (s : State) : Res State := alu2 s d a b g 0 fun x y => boolD (x.ult y)

/-- seq (R174). -/
def execSeq (d a b : Reg) (g : Guard) (s : State) : Res State := alu2 s d a b g 0 fun x y => boolD (x == y)

/-- mul (R174). -/
def execMul (d a b : Reg) (g : Guard) (s : State) : Res State := alu2 s d a b g 1 fun x y => x * y

/-- mulh (R174). -/
def execMulh (d a b : Reg) (g : Guard) (s : State) : Res State := alu2 s d a b g 1 fun x y => mulHigh x y

/-- mulhn (R174). -/
def execMulhn (d a b : Reg) (g : Guard) (s : State) : Res State := alu2 s d a b g 1 fun x y => mulHighN x y

/-- div (R175). -/
def execDiv (d a b : Reg) (g : Guard) (s : State) : Res State := alu2 s d a b g 1 fun x y => (divI64 x y).1

/-- divn (R175). -/
def execDivn (d a b : Reg) (g : Guard) (s : State) : Res State := alu2 s d a b g 1 fun x y => (divN64 x y).1

/-- rem (R175). -/
def execRem (d a b : Reg) (g : Guard) (s : State) : Res State := alu2 s d a b g 1 fun x y => (divI64 x y).2

/-- remn (R175). -/
def execRemn (d a b : Reg) (g : Guard) (s : State) : Res State := alu2 s d a b g 1 fun x y => (divN64 x y).2

/-- clz (R174). -/
def execClz (d a : Reg) (g : Guard) (s : State) : Res State := alu1 s d a g fun x => BitVec.ofNat 64 (leadingZeros x 64)

/-- ctz (R174). -/
def execCtz (d a : Reg) (g : Guard) (s : State) : Res State := alu1 s d a g fun x => BitVec.ofNat 64 (trailingZeros x 64)

/-- popc (R174). -/
def execPopc (d a : Reg) (g : Guard) (s : State) : Res State := alu1 s d a g fun x => BitVec.ofNat 64 (popCount x 64)

/-- bswap (R174). -/
def execBswap (d a : Reg) (g : Guard) (s : State) : Res State := alu1 s d a g fun x => byteSwap x

/-- sextI8 (R174). -/
def execSextI8 (d a : Reg) (g : Guard) (s : State) : Res State := alu1 s d a g fun x => sextD (x.setWidth 8)

/-- sextI16 (R174). -/
def execSextI16 (d a : Reg) (g : Guard) (s : State) : Res State := alu1 s d a g fun x => sextD (x.setWidth 16)

/-- sextI32 (R174). -/
def execSextI32 (d a : Reg) (g : Guard) (s : State) : Res State := alu1 s d a g fun x => sextD (x.setWidth 32)

/-- zextN8 (R174). -/
def execZextN8 (d a : Reg) (g : Guard) (s : State) : Res State := alu1 s d a g fun x => zextD (x.setWidth 8)

/-- zextN16 (R174). -/
def execZextN16 (d a : Reg) (g : Guard) (s : State) : Res State := alu1 s d a g fun x => zextD (x.setWidth 16)

/-- zextN32 (R174). -/
def execZextN32 (d a : Reg) (g : Guard) (s : State) : Res State := alu1 s d a g fun x => zextD (x.setWidth 32)

/-- addi (R176). -/
def execAddi (d a : Reg) (imm : BitVec 16) (s : State) : Res State := aluImm s d a (immPlain imm) 4 fun x y => x + y

/-- andi (R176). -/
def execAndi (d a : Reg) (imm : BitVec 16) (s : State) : Res State := aluImm s d a (immPlain imm) 4 fun x y => x &&& y

/-- ori (R176). -/
def execOri (d a : Reg) (imm : BitVec 16) (s : State) : Res State := aluImm s d a (immPlain imm) 4 fun x y => x ||| y

/-- xori (R176). -/
def execXori (d a : Reg) (imm : BitVec 16) (s : State) : Res State := aluImm s d a (immPlain imm) 4 fun x y => x ^^^ y

/-- shli (R177). -/
def execShli (d a : Reg) (n : BitVec 6) (s : State) : Res State :=
  aluImm s d a 0 4 fun x _ => shiftVal 0 x n.toNat

/-- shri (R177). -/
def execShri (d a : Reg) (n : BitVec 6) (s : State) : Res State :=
  aluImm s d a 0 4 fun x _ => shiftVal 1 x n.toNat

/-- srai (R177). -/
def execSrai (d a : Reg) (n : BitVec 6) (s : State) : Res State :=
  aluImm s d a 0 4 fun x _ => shiftVal 2 x n.toNat

/-- roli (R177). -/
def execRoli (d a : Reg) (n : BitVec 6) (s : State) : Res State :=
  aluImm s d a 0 4 fun x _ => shiftVal 3 x n.toNat

/-- lui (R178). -/
def execLui (d a : Reg) (imm : BitVec 16) (s : State) : Res State := aluImm s d a (immPlain imm) 4 luiVal

/-- lea (R179): no check and no access. -/
def execLea (d a : Reg) (z : BitVec 2) (off : BitVec 10) (s : State) : Res State :=
  onThread s fun t => retire s (t.writeG d (t.ea a off z.toNat)) 0 4

/-- addr2 (R180). -/
def execAddr2 (d a b : Reg) (g : Guard) (ps : BitVec 5) (z : BitVec 2) (s : State) : Res State :=
  alu2 s d a b g 0 fun x y => addr2Val x y ps.toNat z.toNat

/-- cmp (R181). -/
def execCmp (p : BitVec 3) (a b : Reg) (g : Guard) (cc : BitVec 3) (s : State) : Res State :=
  guarded s g fun t => retire s (t.writeP p (cmpVal cc (t.readG a) (t.readG b))) 0 4

/-- cmpi (R182). -/
def execCmpi (cc : BitVec 2) (p : BitVec 3) (a : Reg) (imm : BitVec 16) (s : State) : Res State :=
  cmpiOp s cc p a (immPlain imm) 4

/-- pand (R183). -/
def execPand (pd pa pb : BitVec 3) (g : Guard) (s : State) : Res State := predOp s pd pa pb g fun x y => x && y

/-- por (R183). -/
def execPor (pd pa pb : BitVec 3) (g : Guard) (s : State) : Res State := predOp s pd pa pb g fun x y => x || y

/-- pxor (R183). -/
def execPxor (pd pa pb : BitVec 3) (g : Guard) (s : State) : Res State := predOp s pd pa pb g fun x y => x ^^ y

/-- pandn (R183). -/
def execPandn (pd pa pb : BitVec 3) (g : Guard) (s : State) : Res State := predOp s pd pa pb g fun x y => x && !y

/-- porn (R183). -/
def execPorn (pd pa pb : BitVec 3) (g : Guard) (s : State) : Res State := predOp s pd pa pb g fun x y => x || !y

/-- sel (R184). -/
def execSel (d a b : Reg) (g : Guard) (neg : BitVec 1) (pc : BitVec 3) (s : State) : Res State :=
  guarded s g fun t => retire s (t.writeG d (if t.predOn pc neg then t.readG a else t.readG b)) 0 4

end Sys2Proof.Machine
end

