-- ==== Sys2Proof/Machine/Control.lean ====
section
/-!
DEFINITION. Branches, calls and returns, hardware loops, and the instructions that stop a thread (R192 to R201).
-/

namespace Sys2Proof.Machine

/-- The instruction-fetch trap of a transfer whose target is outside the stream (R145): precise and terminal. -/
def fetchTrap (s : State) : Res State := terminal s .fetch 0

/-- Entries of the loop stack left after a taken br or jr: those whose range does not hold the target pop (R197). -/
def popLoops (target : Dword) : List LoopEntry → List LoopEntry
  | [] => []
  | e :: r => if e.start.ule target && target.ule e.stop then e :: r else popLoops target r

/-- The target of a B-format word (R150). -/
def Thread.branchTarget (t : Thread) (off : BitVec 22) : Dword := t.pc + sextD off * 4#64

/-- A taken br or jr (R197). -/
def takeBranch (s : State) (t : Thread) (target : Dword) : Res State :=
  if t.inStream target then transfer s { t with loops := popLoops target t.loops } 0 target else fetchTrap s

/-- br (R192). -/
def execBr (p : BitVec 3) (neg : BitVec 1) (off : BitVec 22) (s : State) : Res State :=
  onThread s fun t => if t.predOn p neg then takeBranch s t (t.branchTarget off) else retire s t 0 4

/-- call (R193): g31 receives PC + 4 with the transfer, and stays when the target traps. -/
def execCall (p : BitVec 3) (neg : BitVec 1) (off : BitVec 22) (s : State) : Res State :=
  onThread s fun t =>
    if t.predOn p neg then
      if t.inStream (t.branchTarget off) then transfer s (t.writeG 31 (t.pc + 4)) 0 (t.branchTarget off)
      else fetchTrap s
    else retire s t 0 4

/-- jr (R194). -/
def execJr (a : Reg) (g : Guard) (s : State) : Res State :=
  guarded s g fun t => takeBranch s t (t.readG a)

/-- jalr (R194): reads A before it writes g[d]. -/
def execJalr (d a : Reg) (g : Guard) (s : State) : Res State :=
  guarded s g fun t =>
    if t.inStream (t.readG a) then transfer s (t.writeG d (t.pc + 4)) 0 (t.readG a) else fetchTrap s

/-- ret (R194): pops no loop entry (R197). -/
def execRet (g : Guard) (s : State) : Res State :=
  guarded s g fun t => if t.inStream (t.readG 31) then transfer s t 0 (t.readG 31) else fetchTrap s

/-- LOOP (R195), alone or behind a LIM; `len` is 4 or 8 and the loop word is the last of them. A trip count of 0 is a
taken transfer to the word after the body, and the enclosing loops that end at the skipped end word step first. -/
def loopOp (s : State) (d a : Reg) (imm : BitVec 16) (len : Nat) : Res State :=
  onThread s fun t =>
    let here := t.pc + BitVec.ofNat 64 (len - 4)
    let last := here + BitVec.ofNat 64 (4 * imm.toNat)
    if !t.inStream last then fetchTrap s
    else if t.readG a = 0 then
      let t1 := { t with pc := last + 4 }.loopStep last t.loops
      if t1.inStream t1.pc then transfer s t1 0 t1.pc else fetchTrap s
    else if t.loops.length = 4 then illegal s
    else
      transfer s ({ t with loops := ⟨here + 4, last, t.readG a, 0, d⟩ :: t.loops }.writeG d 0) 0 (here + 4)

/-- loop (R195). DEDUCED (notes/assumptions/21.md). -/
def execLoop (d a : Reg) (imm : BitVec 16) (s : State) : Res State := loopOp s d a imm 4

/-- trap (R199): completes, with the loop step of R196, and then raises the program trap. A thread that still holds a
scalar item waits, since it holds at most one control-core or scalar item (R349). -/
def execTrap (code : BitVec 16) (s : State) : Res State :=
  onThread s fun t => if t.held = .none then takeCoreTrap s (t.complete 4) .program code else stall s t

/-- brk (R199): raises the breakpoint trap without completing; the saved PC is its own address. -/
def execBrk (code : BitVec 16) (s : State) : Res State :=
  onThread s fun t => if t.held = .none then takeCoreTrap s t .breakpoint code else stall s t

/-- Whether every access that the thread has issued has been performed (R200). -/
def Thread.quiet (t : Thread) : Bool := t.outstanding = [] && t.cb = [] && t.held = .none

/-- halt (R200): stops after the accesses it has issued; the saved PC is the word after it.
DEDUCED (notes/assumptions/16.md). -/
def execHalt (s : State) : Res State :=
  onThread s fun t =>
    if t.quiet then
      .next (s.setThread s.cur { (t.chargeIssue s.curDevice 11).jump (t.pc + 4) with status := .halted })
    else hold s t 11

/-- wfi (R201): completes at once when every tag's count is zero, else makes the thread not ready.
DEDUCED (notes/assumptions/17.md). -/
def execWfi (s : State) : Res State :=
  onThread s fun t =>
    let t1 := (t.chargeIssue s.curDevice 11).complete 4
    .next (s.setThread s.cur (if t.tagCount = [] then t1 else { t1 with status := .wfi }))

end Sys2Proof.Machine
end

