-- ==== Sys2Proof/Machine/Sync.lean ====
section
/-!
DEFINITION. Token operations, fences, tag operations and domain synchronisation (R48 to R54, R223 to R228).
-/

namespace Sys2Proof.Machine

/-! Tokens (R223). -/

/-- tjoin (R121, R223); a kD of k0 changes no token. -/
def execTjoin (kd ka kb : BitVec 4) (g : Guard) (s : State) : Res State :=
  guarded s g fun t =>
    retire s (t.setToken kd ⟨(t.token ka).lw ++ (t.token kb).lw, (t.token ka).rs ++ (t.token kb).rs⟩) 0 4

/-- Whether every access on a token has performed. -/
def Thread.tokenDone (t : Thread) (k : BitVec 4) : Bool :=
  !((t.token k).lw ++ (t.token k).rs).any fun i => t.outstanding.contains i

/-- twait (R223). -/
def execTwait (ka : BitVec 4) (g : Guard) (s : State) : Res State :=
  guarded s g fun t => if t.tokenDone ka then retire s t 0 4 else hold s t 0

/-! Fences (R128, R225). -/

/-- The fence part at a scope: at device or fabric scope the combining buffer is sent; what is left says whether the
fence still waits. A fence at tile or die scope leaves fabric-scope stores alone. -/
def fencePart (s : State) (key : Nat) (t : Thread) (sc : Nat) : State × Thread × Bool :=
  if 2 ≤ sc then
    let x := drainCb s key t
    (x.1, { x.2 with synced := true }, !(x.2.openIds true).isEmpty)
  else (s, t, !(t.openIds false).isEmpty)

/-- fence (R224, R225); it waits while ag0 holds a fault (R208). -/
def execFence (sc : Scope) (s : State) : Res State :=
  onThread s fun t =>
    if t.held ≠ .none then stall s t
    else
      let x := fencePart s s.cur t sc.toNat
      if x.2.2 then hold x.1 x.2.1 8 else retire x.1 x.2.1 8 4

/-- fence.flag (R128, R225): the fence part, and then the flag set as an access of its own. -/
def execFenceFlag (a : Reg) (k : BitVec 4) (sc : Scope) (off : BitVec 8) (s : State) : Res State :=
  onThread s fun t =>
    if t.held ≠ .none then stall s t
    else
      let x := fencePart s s.cur t sc.toNat
      if x.2.2 then hold x.1 x.2.1 8
      else issueAccess x.1 x.2.1 (mkAccess x.2.1 .flag (x.2.1.ea a off 6) 64 sc k 0)

/-! Tag operations (R226, R227). -/

/-- waitany (R226). -/
def execWaitany (d a : Reg) (g : Guard) (s : State) : Res State :=
  guarded s g fun t =>
    let m := t.tags &&& t.readG a
    if m ≠ 0 ∨ t.readG a = 0 then retire s (t.writeG d m) 0 4 else hold s t 0

/-- waitall (R226). -/
def execWaitall (d a : Reg) (g : Guard) (s : State) : Res State :=
  guarded s g fun t =>
    let m := t.tags &&& t.readG a
    if m = t.readG a then retire s (t.writeG d m) 0 4 else hold s t 0

/-- The index that FFR returns for a mask: 64 when no bit is set. -/
def ffrIndex (m : Dword) : Nat := trailingZeros m 64

/-- ffr (R226). -/
def execFfr (d a : Reg) (g : Guard) (s : State) : Res State :=
  guarded s g fun t => retire s (t.writeG d (BitVec.ofNat 64 (ffrIndex (t.tags &&& t.readG a)))) 0 4

/-- ffr.clr (R226): returns and clears the lowest set masked bit; the count is unchanged. -/
def execFfrClr (d a : Reg) (g : Guard) (s : State) : Res State :=
  guarded s g fun t =>
    let m := t.tags &&& t.readG a
    let t1 := t.writeG d (BitVec.ofNat 64 (ffrIndex m))
    retire s (if m = 0 then t1 else { t1 with tags := t1.tags &&& ~~~(1#64 <<< ffrIndex m) }) 0 4

/-! Domains (R48 to R54, R228). -/

/-- Whether a thread joins level l (R48, R49). -/
def Thread.joins (t : Thread) (l : Nat) : Bool := l = 0 || t.domMemb.getLsbD (l - 1)

/-- Whether a member has arrived for phase n of level l; a thread that has exited counts as arrived (R52). -/
def Thread.arrived (t : Thread) (l n : Nat) : Bool := t.status = .exited || n ≤ SMap.get 0 t.arrivals l

/-- Whether another thread of the region is in the thread's domain at level l ≤ 3 (R48). -/
def sameDomain (r : Region) (t u : Thread) (l : Nat) : Bool :=
  let a := r.tileAt t.part t.rx t.ry
  let b := r.tileAt u.part u.rx u.ry
  if l = 1 then quadKey a = quadKey b else if l = 2 then dieKey a = dieKey b else true

/-- Whether every joined thread of a region has arrived; a region whose threads are not released yet has not, but one
that comes back from its image keeps its arrivals (R53). -/
def State.regionArrived (s : State) (rid : Nat) (l n : Nat) : Bool :=
  match s.region rid with
  | none => true
  | some r => (r.state ≠ .starting || (SMap.get none s.images rid).isSome) && (s.threadsOf rid r).all fun u => !u.joins l || u.arrived l n

/-- Whether every member of thread t's level-l domain has arrived for phase n (R50, R54). -/
def State.allArrived (s : State) (t : Thread) (r : Region) (l n : Nat) : Bool :=
  if l = 4 ∧ r.launch.group ≠ 0 then
    let g := SMap.get {} s.groups (r.launch.part * 2 ^ 14 + r.launch.group)
    decide (g.admitted.length = g.gsize) && g.admitted.all fun rid => s.regionArrived rid l n
  else (s.threadsOf t.rid r).all fun u => !u.joins l || !sameDomain r t u l || u.arrived l n

/-- Inverts PH bit l (R49). -/
def Thread.flipPhase (t : Thread) (l : Nat) : Thread := { t with domMemb := t.domMemb ^^^ (1#64 <<< (56 + l)) }

/-- DSYNC.l (R50, R51, R53), alone or behind a LIM: step 1 waits for every access of the thread and drains the
combining buffer, step 2 signals the arrival, step 3 waits for the members and inverts PH bit l. -/
def dsyncOp (s : State) (l : BitVec 3) (len : Nat) : Res State :=
  onThread s fun t =>
    onRegion s t fun r =>
      if !t.joins l.toNat then terminal s .domain l.toNat
      else
        let step3 (s1 : State) (t1 : Thread) : Res State :=
          if s1.allArrived t1 r l.toNat (SMap.get 0 t1.arrivals l.toNat) then
            retire s1 (t1.flipPhase l.toNat) 8 len
          else
            .next { s1.setThread s1.cur { t1.chargeIssue s1.curDevice 8 with wait := .dsync l } with idle := true }
        if t.wait = .dsync l then step3 s t
        else
          let x := drainCb s s.cur t
          if x.2.openIds true ≠ [] ∨ t.held ≠ .none then hold x.1 x.2 8
          else if l = 0 then retire x.1 { x.2.flipPhase 0 with synced := true } 8 len
          else
            let n := SMap.get 0 x.2.arrivals l.toNat + 1
            let t1 : Thread := { x.2 with arrivals := SMap.put 0 x.2.arrivals l.toNat n, synced := true }
            step3 (x.1.setThread x.1.cur t1) t1

/-- dsync (R50, R228). -/
def execDsync (l : BitVec 3) (s : State) : Res State := dsyncOp s l 4

end Sys2Proof.Machine
end

