-- ==== Sys2Proof/WellFormed.lean ====
section
/-!
DEFINITION. Which instructions a control stream may hold: the field checks of R148 that are not part of a word's
fixed bits. An ill-formed word raises the illegal-instruction trap.
-/

namespace Sys2Proof

/-- guard = 0b000 with gneg = 1 is refused (R148). -/
def Guard.ok (g : Guard) : Bool := !(decide (g.p = 0) && decide (g.neg = 1))

/-- p = 0b000 with neg = 1 is refused (R148, R184, R192). -/
def predOk (p : BitVec 3) (neg : BitVec 1) : Bool := !(decide (p = 0) && decide (neg = 1))

/-- The control core's rounding codes 0b000 to 0b100 (R74, R189). -/
def rmOk (rm : BitVec 3) : Bool := decide (rm.toNat ≤ 4)

/-- Source port codes (R238). -/
def isSourcePort (p : Nat) : Bool :=
  decide (p = 0 ∨ p = 1 ∨ p = 3 ∨ (8 ≤ p ∧ p ≤ 15) ∨ p = 24)

/-- Sink port codes (R238). -/
def isSinkPort (p : Nat) : Bool :=
  decide (p = 2 ∨ p = 4 ∨ (16 ≤ p ∧ p ≤ 23))

/-- The engines that table control accepts (R241). -/
def tctlEngineOk (e : BitVec 4) : Bool := decide (e.toNat ≤ 12 ∨ e.toNat = 14)

/-- The largest index that tctl.start accepts for an engine (R241). -/
def tctlMaxIdx (e : BitVec 4) : Nat :=
  if e.toNat = 12 then 7 else if 8 ≤ e.toNat ∧ e.toNat ≤ 11 then 1 else 0

/-- An even register from g2 to g30, as amo.cas and invoke need (R218, R221). -/
def evenPair (d : Reg) : Bool := decide (d.toNat % 2 = 0) && decide (d ≠ 0)

/-- What bits [41:16] of the immediate must hold after a LIM, and the entry's own limits (R151, R177, R178, R185,
R195, R228). -/
def IOp.limOk (hi : BitVec 26) : IOp → Bool
  | .addi .. => true
  | .andi .. => true
  | .ori .. => true
  | .xori .. => true
  | .cmpi .. => true
  | .shift .. => decide (hi = 0)
  | .lui .. => decide (hi.extractLsb' 16 10 = if hi.getLsbD 15 then 1023#10 else 0#10)
  | .csrr .. => decide (hi = 0)
  | .csrw .. => decide (hi = 0)
  | .csrrw .. => decide (hi = 0)
  | .loop _ _ lo => decide (hi = 0) && decide (lo ≠ 0)
  | .dsync l => decide (hi = 0) && decide (l.toNat ≤ 4)

/-- The field checks of an instruction. Events have no word and pass. -/
def Instr.wf : Instr → Bool
  | .add _ _ _ g => g.ok
  | .sub _ _ _ g => g.ok
  | .and _ _ _ g => g.ok
  | .or _ _ _ g => g.ok
  | .xor _ _ _ g => g.ok
  | .andn _ _ _ g => g.ok
  | .shl _ _ _ g => g.ok
  | .shr _ _ _ g => g.ok
  | .sra _ _ _ g => g.ok
  | .rol _ _ _ g => g.ok
  | .min _ _ _ g => g.ok
  | .max _ _ _ g => g.ok
  | .minn _ _ _ g => g.ok
  | .maxn _ _ _ g => g.ok
  | .slt _ _ _ g => g.ok
  | .sltn _ _ _ g => g.ok
  | .seq _ _ _ g => g.ok
  | .clz _ _ g => g.ok
  | .ctz _ _ g => g.ok
  | .popc _ _ g => g.ok
  | .bswap _ _ g => g.ok
  | .sextI8 _ _ g => g.ok
  | .sextI16 _ _ g => g.ok
  | .sextI32 _ _ g => g.ok
  | .zextN8 _ _ g => g.ok
  | .zextN16 _ _ g => g.ok
  | .zextN32 _ _ g => g.ok
  | .mul _ _ _ g => g.ok
  | .mulh _ _ _ g => g.ok
  | .mulhn _ _ _ g => g.ok
  | .div _ _ _ g => g.ok
  | .divn _ _ _ g => g.ok
  | .rem _ _ _ g => g.ok
  | .remn _ _ _ g => g.ok
  | .addi _ _ _ => true
  | .andi _ _ _ => true
  | .ori _ _ _ => true
  | .xori _ _ _ => true
  | .shli _ _ _ => true
  | .shri _ _ _ => true
  | .srai _ _ _ => true
  | .roli _ _ _ => true
  | .lui _ _ _ => true
  | .lim hi op => match op with | some o => o.limOk hi | none => true
  | .lea _ _ _ _ => true
  | .addr2 _ _ _ g _ _ => g.ok
  | .cmp _ _ _ g _ => g.ok
  | .cmpi _ _ _ _ => true
  | .pand _ _ _ g => g.ok
  | .por _ _ _ g => g.ok
  | .pxor _ _ _ g => g.ok
  | .pandn _ _ _ g => g.ok
  | .porn _ _ _ g => g.ok
  | .sel _ _ _ g neg pc => g.ok && predOk pc neg
  | .csrr _ _ => true
  | .csrw _ _ => true
  | .csrrw _ _ _ => true
  | .tagsWrite _ => true
  | .flagsWrite _ => true
  | .userCsrWrite _ _ => true
  | .fadd _ _ _ g rm => g.ok && rmOk rm
  | .fsub _ _ _ g rm => g.ok && rmOk rm
  | .fmul _ _ _ g rm => g.ok && rmOk rm
  | .fdiv _ _ _ g rm => g.ok && rmOk rm
  | .fsqrt _ _ g rm => g.ok && rmOk rm
  | .fmin _ _ _ g => g.ok
  | .fmax _ _ _ g => g.ok
  | .fma _ _ _ g rm => g.ok && rmOk rm
  | .fcvtfI64 _ _ g rm => g.ok && rmOk rm
  | .fcvtfN64 _ _ g rm => g.ok && rmOk rm
  | .fcvtiI64 _ _ g rm => g.ok && rmOk rm
  | .fcvtiN64 _ _ g rm => g.ok && rmOk rm
  | .fcmp _ _ _ g cc => g.ok && rmOk cc
  | .br p neg _ => predOk p neg
  | .call p neg _ => predOk p neg
  | .jr _ g => g.ok
  | .jalr _ _ g => g.ok
  | .ret g => g.ok
  | .loop _ _ imm => decide (imm ≠ 0)
  | .trap _ => true
  | .brk _ => true
  | .halt => true
  | .wfi => true
  | .boost _ => true
  | .saveset _ n => decide (n.toNat ≤ 64)
  | .energy _ => true
  | .eretResume => true
  | .eretKill => true
  | .eretWake => true
  | .pcsrr _ _ => true
  | .pcsrw _ _ => true
  | .tnextRead _ => true
  | .tselWrite _ => true
  | .ptRootWrite _ => true
  | .fpoolWrite _ => true
  | .sdlLoadWrite _ => true
  | .sdlLoadApply _ => true
  | .privCsrWrite _ _ => true
  | .ldB _ _ _ _ _ => true
  | .ldH _ _ _ _ _ => true
  | .ldW _ _ _ _ _ => true
  | .ldD _ _ _ _ _ => true
  | .stB _ _ _ _ _ => true
  | .stH _ _ _ _ _ => true
  | .stW _ _ _ _ _ => true
  | .stD _ _ _ _ _ => true
  | .sts _ _ _ _ _ _ => true
  | .lda _ _ _ _ _ _ => true
  | .ldwSync _ _ _ _ _ _ => true
  | .ldwTake _ _ _ _ _ _ => true
  | .stwFill _ _ _ _ _ _ => true
  | .stwClear _ _ _ _ => true
  | .fes _ _ _ _ _ => true
  | .parkedAccessServe _ => true
  | .parkedAccessRetry _ => true
  | .amoSwap _ _ _ _ _ _ => true
  | .amoCas d _ _ _ _ _ => evenPair d
  | .amoAdd _ _ _ _ _ _ => true
  | .amoAnd _ _ _ _ _ _ => true
  | .amoOr _ _ _ _ _ _ => true
  | .amoXor _ _ _ _ _ _ => true
  | .amoMin _ _ _ _ _ _ => true
  | .amoMax _ _ _ _ _ _ => true
  | .amoMinn _ _ _ _ _ _ => true
  | .amoMaxn _ _ _ _ _ _ => true
  | .amoFadd _ _ _ _ _ => true
  | .invoke d _ _ _ _ _ => evenPair d
  | .saddleRun => true
  | .invocationResult => true
  | .tjoin _ _ _ g => g.ok
  | .twait _ g => g.ok
  | .fence _ => true
  | .fenceFlag _ _ _ _ => true
  | .waitany _ _ g => g.ok
  | .waitall _ _ g => g.ok
  | .ffr _ _ g => g.ok
  | .ffrClr _ _ g => g.ok
  | .dsync l => decide (l.toNat ≤ 4)
  | .bind _ port _ tv t => ((isSourcePort port.toNat && decide (tv = 0) && decide (t = 0)) || (isSinkPort port.toNat && (decide (tv = 1) || decide (t = 0))))
  | .unbind _ => true
  | .tctlStart e i => tctlEngineOk e && decide (i.toNat ≤ tctlMaxIdx e)
  | .tctlStop e => tctlEngineOk e
  | .tctlResume e => tctlEngineOk e
  | .tctlBase _ _ => true
  | .tctlStat e _ => tctlEngineOk e
  | .strm _ _ => true
  | .strmI _ _ => true
  | .drain port _ => isSourcePort port.toNat
  | .drainSlot _ => true
  | .drainMarker _ _ => true
  | .cfgLd _ => true
  | .cfgStage _ => true
  | .cfgSw _ => true
  | .eocSwitch _ _ => true
  | .lqStat _ _ => true
  | .launch _ => true
  | .exit => true
  | .yield => true
  | .marm v i t _ => (decide (i ≠ 0) && (decide (v = 1) || decide (t = 0)))
  | .mfence _ => true
  | .accClr _ => true
  | .accHold _ => true
  | .accStat _ => true
  | .accRd _ _ => true
  | .streamAccess _ _ => true
  | .combiningBufferSend _ _ => true
  | .tableWalk _ _ _ => true
  | .invalidation _ => true
  | .tokenAccept _ _ => true
  | .laneFire _ _ => true
  | .laneEos _ _ => true
  | .groupFire _ _ => true
  | .switchBoxFire _ _ => true
  | .arcEosPadding _ _ => true
  | .latchEosPadding _ _ => true
  | .gatherRead _ => true
  | .mmaFire _ _ => true
  | .mltFire _ _ => true
  | .mstFire _ _ => true
  | .armingEnd _ _ => true
  | .arrayEos _ _ => true
  | .sinkEos _ _ => true
  | .egressGroupSend _ _ => true
  | .egressEos _ _ => true
  | .integrityCheck _ _ _ => true
  | .groupReplay _ _ => true
  | .ingressEos _ _ => true
  | .oiAdvance _ _ => true
  | .flitReceive _ _ _ _ => true
  | .laneGroupRetrain _ _ _ => true
  | .portDown _ _ => true
  | .bindingRelocate _ _ _ => true
  | .loadRequest => true
  | .loadReply => true
  | .atomicRequest => true
  | .atomicReply => true
  | .invocation => true
  | .storeAcknowledgement => true
  | .pooledReadRequest => true
  | .pooledDataFlit => true
  | .schedulerMessage => true
  | .hostStore _ _ _ => true
  | .hostRead _ _ _ => true
  | .hostSyncRead _ _ _ => true
  | .launchInvocation _ _ _ _ => true
  | .launchEnqueue _ => true
  | .schedulerRound _ _ => true
  | .bidBlocking _ _ => true
  | .reservation _ _ => true
  | .graphStart _ => true
  | .configAck _ _ => true
  | .graphCompletion _ => true
  | .kill _ => true
  | .preemption _ => true
  | .gateRequest _ _ => true
  | .gate _ => true
  | .restore _ => true
  | .imageUpdate => true
  | .policyRecordWrite _ _ _ _ _ => true
  | .powerRecordWrite _ _ _ => true
  | .energyWeightWrite _ _ _ => true
  | .controlSpaceWrite _ _ _ => true
  | .partitionChange _ _ => true
  | .powerInterval _ _ => true
  | .leaseEnd _ => true
  | .hbmTempRead _ _ _ => true
  | .wearUpdate _ _ => true
  | .powerFail _ => true
  | .reserveExhausted _ => true
  | .supplyReturn _ => true
  | .powerOnReset _ => true
  | .coldReset _ => true
  | .warmReset _ => true
  | .tackWatchdog _ => true
  | .linkTraining _ _ _ _ => true
  | .attestationRequest _ => true
  | .staticShare _ => true
  | .accessReply _ => true
  | .linkFailure _ _ => true
  | .gateRequestWithdrawal _ => true

end Sys2Proof
end

