-- ==== Sys2Proof/Machine/System.lean ====
section
/-!
DEFINITION. LIM pairs (R151, R152), boost requests, must-save declarations and the energy counter (R202 to R204), and
the reads of a block of memory that an instruction makes through ag0 (R94, R208).
-/

namespace Sys2Proof.Machine

/-- lim (R151): the I-format word behind it takes the 42-bit immediate. A LIM that is the last word of an active loop
body, or before a word that takes no such immediate, traps and neither word takes effect. -/
def execLim (hi : BitVec 26) (op : Option IOp) (s : State) : Res State :=
  onThread s fun t =>
    if t.loops.any fun e => e.stop = t.pc then illegal s
    else
      match op with
      | none => illegal s
      | some o =>
        if o.limOk hi = false then illegal s
        else
          match o with
          | .addi d a lo => aluImm s d a (immWide hi lo) 8 fun x v => x + v
          | .andi d a lo => aluImm s d a (immWide hi lo) 8 fun x v => x &&& v
          | .ori d a lo => aluImm s d a (immWide hi lo) 8 fun x v => x ||| v
          | .xori d a lo => aluImm s d a (immWide hi lo) 8 fun x v => x ^^^ v
          | .shift d a k n => onThread s fun t1 => retire s (t1.writeG d (shiftVal k (t1.readG a) n.toNat)) 0 8
          | .lui d a lo => aluImm s d a (immWide hi lo) 8 luiVal
          | .cmpi cc p a lo => cmpiOp s cc p a (immWide hi lo) 8
          | .csrr d n => csrrOp s d n 8
          | .csrw a n => csrwOp s a n 8
          | .csrrw d a n => csrrwOp s d a n 8
          | .loop d a lo => loopOp s d a lo 8
          | .dsync l => dsyncOp s l 8

/-- A well-formed boost request (R202). -/
def boostOk (v : Nat) : Bool :=
  bitsOf v 15 6 = 0 && bitsOf v 63 30 = 0 && bitsOf v 5 0 ≤ 56 && bitsOf v 29 16 ≤ 10000

/-- The threads whose requests have reached the region in the interval that fabric time `now` lies in (R386). -/
def Lease.askersAt (l : Lease) (now : Nat) : List Nat := if l.asked = now / 50000 then l.askers else []

/-- boost (R202): the first status that applies in the order 3, 1, 2, 0. DEDUCED (notes/assumptions/23.md). A malformed
request does not count as one that reached the region; a release clears STEP, REMAIN and CLIPPED.
DESIGN CHOICE (notes/assumptions/99.md). -/
def execBoost (r : Reg) (s : State) : Res State :=
  onThread s fun t =>
    onRegion s t fun g =>
      let v := (t.readG r).toNat
      let l := g.lease
      let before := l.askersAt s.now
      let asked := if before.contains t.name then before else before ++ [t.name]
      let put (x : Lease) (st : Dword) : Res State :=
        retire (s.setRegion t.rid { g with lease := { x with askers := asked, asked := s.now / 50000 } }) (t.writeG r st) 11 4
      if !boostOk v then retire s (t.writeG r 3) 11 4
      else if bitsOf v 29 16 = 0 then put { onSpine := l.onSpine } 1
      else if l.state = 1 ∨ l.state = 2 ∨ (before.any fun k => k != t.name) = true then put l 2
      else
        put { state := 1, step := BitVec.ofNat 6 v, remain := 0, clipped := false,
              dur := BitVec.ofNat 14 (bitsOf v 29 16), time := s.now, onSpine := l.onSpine } 0

/-- energy (R204): the counter as it stood before this instruction's own charge (R367). -/
def execEnergy (r : Reg) (s : State) : Res State :=
  onThread s fun t => retire s (t.writeG r t.energy) 11 4

/-! Blocks that an instruction reads with ordinary loads through ag0. -/

/-- The outcome of reading a block. -/
inductive BlockRead where
  | bytes (bs : List Byte) (flags : Dword) (s : State)
  | fault (c : Cause) (arg : Nat) (ea : Dword) (s : State)
  | busy (s : State)

/-- The access identifier of the loads of a block, which are none of the thread's accesses. -/
def blockLoadId : Nat := 2 ^ 33

/-- A load of `n` bytes of a block at its place: on the thread's device at once, on another one by a request and its reply
(R248, R254, R395); nothing while it waits. -/
def State.blockWord (s : State) (t : Thread) (key a n : Nat) : Option (List Byte × Dword) × State :=
  if addrDev a = keyDev key then
    if s.unchecked (sectorOf a) then (none, s)
    else (some (s.bytes a n, if s.sector (sectorOf a) = .poisoned then poisonRd else 0), s)
  else
    match s.blockLoads.find? fun b => b.key = key && b.ctx = t.ctxId && b.fa = a with
    | some b => (b.value.map fun v => (leBytes v.1.toNat n, if v.2 then poisonRd else 0), s)
    | none => (none, { s.send (.loadReq ⟨key, t.ctxId, blockLoadId⟩ 0 a n (List.replicate n none)) with
        blockLoads := s.blockLoads ++ [{ key := key, ctx := t.ctxId, fa := a }] })

/-- The loads of a thread's block are done with. -/
def State.dropBlock (s : State) (key : Nat) : State := { s with blockLoads := s.blockLoads.filter fun b => b.key != key }

/-- A load of a block comes back. -/
def State.takeBlockLoad (s : State) (r : Reply) : State :=
  { s with blockLoads := s.blockLoads.map fun b =>
      if b.key = r.who.key ∧ b.ctx = r.who.ctx ∧ b.fa = r.fa then { b with value := some (r.value, r.poisoned) } else b }

/-- `n` ordinary loads of 8 bytes from virtual address `va` on, in order. -/
def readBlock (s : State) (r : Region) (t : Thread) (va : Dword) : Nat → BlockRead
  | 0 => .bytes [] 0 s
  | n + 1 =>
    match reach s r t.super t.part t.rx t.ry va 8 8 .read with
    | .busy s1 => .busy s1
    | .fault c arg s1 => .fault c arg va s1
    | .at p s1 =>
      match s1.blockWord t (r.keyAt t.part t.rx t.ry) p.addr 8 with
      | (none, s2) => .busy s2
      | (some v, s2) =>
        match readBlock s2 r t (va + 8) n with
        | .bytes bs fl s3 => .bytes (v.1 ++ bs) (fl ||| v.2) s3
        | x => x

/-- An instruction that reads blocks meets a fault or a busy page: ag0 takes the fault, and the thread waits at the
instruction, which is issued again from the start (R208, R256). -/
def takeBlockFault (s : State) (t : Thread) (r : Region) (c : Cause) (arg : Nat) (ea : Dword) : Res State :=
  .next { (s.dropBlock s.cur).scalarFault s.cur { t with wait := .issue } .reissue c arg .read (homeGuess r t ea) ea 0 t.pc with idle := true }

/-- The same for an instruction that has been charged at its issue. -/
def blockFault (s : State) (t : Thread) (cls : Nat) (r : Region) (c : Cause) (arg : Nat) (ea : Dword) : Res State :=
  takeBlockFault s (t.chargeIssue s.curDevice cls) r c arg ea

/-- Runs `f` on the bytes of a block of `n` 8-byte words. -/
def withBlock (s : State) (t : Thread) (cls : Nat) (r : Region) (va : Dword) (n : Nat)
    (f : State → Thread → List Byte → Res State) : Res State :=
  match readBlock s r t va n with
  | .busy s1 => hold s1 t cls
  | .fault c arg ea s1 => blockFault s1 t cls r c arg ea
  | .bytes bs fl s1 => f (s1.dropBlock s.cur) (t.raise fl) bs

/-- Runs `f` once every earlier access of the thread has performed, with the combining buffer sent. -/
def afterAccesses (s : State) (t : Thread) (cls : Nat) (f : State → Thread → Res State) : Res State :=
  if t.held ≠ .none then stall s t
  else
    let x := drainCb s s.cur t
    if x.2.openIds true ≠ [] then hold x.1 x.2 cls else f x.1 x.2

/-! SAVESET (R203). -/

/-- The piece of one 16-byte entry; nothing where a reserved bit is set, or it is misaligned, empty or beyond the
translated space. -/
def pieceOf (bs : List Byte) : Option Piece :=
  let va := field bs 0 8
  let len := field bs 8 4
  let prio := field bs 12 1
  if va % 4096 = 0 ∧ len ≠ 0 ∧ len % 4096 = 0 ∧ prio < 8 ∧ field bs 13 3 = 0 ∧ va + len ≤ 2 ^ 56 then
    some ⟨BitVec.ofNat 64 va, len, prio⟩
  else none

/-- The pieces of a table; nothing where one of them is malformed. -/
def piecesOf (bs : List Byte) : Nat → Option (List Piece)
  | 0 => some []
  | n + 1 =>
    match pieceOf (bs.take 16), piecesOf (bs.drop 16) n with
    | some p, some r => some (p :: r)
    | _, _ => none

/-- Whether two pieces overlap. -/
def Piece.overlaps (a b : Piece) : Bool :=
  a.va.toNat < b.va.toNat + b.len && b.va.toNat < a.va.toNat + a.len

def disjointPieces : List Piece → Bool
  | [] => true
  | p :: r => !(r.any fun q => p.overlaps q) && disjointPieces r

/-- saveset (R203). DEDUCED (notes/assumptions/23.md). -/
def execSaveset (r : Reg) (n : BitVec 7) (s : State) : Res State :=
  onThread s fun t =>
    onRegion s t fun g =>
      afterAccesses s t 11 fun s1 t1 =>
        let va := t1.readG r
        let fin (x : State) (u : Thread) (st : Dword) : Res State := retire x (u.writeG r st) 11 4
        if n = 0 then fin (s1.setRegion t.rid { g with savesetBase := 0, saveset := [] }) t1 0
        else if va.toNat % 64 ≠ 0 ∨ 2 ^ 56 < va.toNat + 16 * n.toNat then fin s1 t1 2
        else
          withBlock s1 t1 11 g va (2 * n.toNat) fun s2 t2 bs =>
            match piecesOf bs n.toNat with
            | none => fin s2 t2 2
            | some ps =>
              if !disjointPieces ps then fin s2 t2 2
              else if g.msMax < (ps.map Piece.len).foldl (fun (a : Nat) b => a + b) 0 then fin s2 t2 1
              else fin (s2.setRegion t.rid { g with savesetBase := va, saveset := ps }) t2 0

end Sys2Proof.Machine
end

