-- ==== Sys2Proof/Machine/Hash.lean ====
section
/-!
DEFINITION. CRC-64 with the ECMA-182 polynomial, and SHA-256, as the save store, the fabric and the context images use
them (R358, R377, R396); CRC-32 of the flits.
-/

namespace Sys2Proof.Machine

/-! CRC-64 (ECMA-182): most significant bit first, from zero, with no final complement. -/

/-- One bit of the register. -/
def crcBit (c : BitVec 64) : BitVec 64 := if c.getLsbD 63 then (c <<< 1) ^^^ 0x42F0E1EBA9EA3693#64 else c <<< 1

/-- One byte. -/
def crcByte (c : BitVec 64) (b : Byte) : BitVec 64 :=
  crcBit (crcBit (crcBit (crcBit (crcBit (crcBit (crcBit (crcBit (c ^^^ (b.setWidth 64 <<< 56)))))))))

/-- The CRC-64 of a list of bytes. -/
def crc64 (bs : List Byte) : Nat := (bs.foldl crcByte 0).toNat

/-! CRC-32 (R396): the polynomial of IEEE 802.3, least significant bit first, complemented at both ends.
PRESUMED (notes/assumptions/90.md). -/

def crc32Bit (c : Word) : Word := if c.getLsbD 0 then (c >>> 1) ^^^ 0xEDB88320#32 else c >>> 1

def crc32Byte (c : Word) (b : Byte) : Word := (List.range 8).foldl (fun v _ => crc32Bit v) (c ^^^ b.setWidth 32)

/-- The CRC-32 of a list of bytes. -/
def crc32 (bs : List Byte) : Nat := (~~~(bs.foldl crc32Byte 0xFFFFFFFF#32)).toNat

/-! SHA-256 (FIPS 180-4). -/

/-- The largest r < 2^n with r ^ k ≤ v, found bit by bit from the top. -/
def rootBits (k v : Nat) : Nat → Nat → Nat
  | 0, r => r
  | n + 1, r => rootBits k v n (if (r + 2 ^ n) ^ k ≤ v then r + 2 ^ n else r)

/-- The first primes: those below 312 are 64. -/
def shaPrimes : List Nat := (List.range 312).filter fun p => 2 ≤ p && (List.range 18).all fun d => d < 2 || p ≤ d || p % d != 0

/-- The first 32 bits behind the point of the k-th root of a prime. -/
def rootFraction (k p : Nat) : Word := BitVec.ofNat 32 (rootBits k (p * 2 ^ (32 * k)) 37 0)

/-- The round constants: from the cube roots of the first 64 primes. -/
def shaK : List Word := shaPrimes.map (rootFraction 3)

/-- The initial hash value: from the square roots of the first eight. -/
def shaInit : List Word := (shaPrimes.take 8).map (rootFraction 2)

/-- The next word of the message schedule, from the sixteen before it, latest first. -/
def shaNext (l : List Word) : Word :=
  let a := l.getD 14 0
  let b := l.getD 1 0
  (b.rotateRight 17 ^^^ b.rotateRight 19 ^^^ b >>> 10) + l.getD 6 0 +
    (a.rotateRight 7 ^^^ a.rotateRight 18 ^^^ a >>> 3) + l.getD 15 0

/-- The message schedule of a block, latest word first. -/
def shaSchedule : Nat → List Word → List Word
  | 0, l => l
  | n + 1, l => shaSchedule n (shaNext l :: l)

/-- One round. -/
def shaRound (h : List Word) (kw : Word × Word) : List Word :=
  match h with
  | [a, b, c, d, e, f, g, hh] =>
    let s1 := e.rotateRight 6 ^^^ e.rotateRight 11 ^^^ e.rotateRight 25
    let t1 := hh + s1 + ((e &&& f) ^^^ (~~~e &&& g)) + kw.1 + kw.2
    let s0 := a.rotateRight 2 ^^^ a.rotateRight 13 ^^^ a.rotateRight 22
    let t2 := s0 + ((a &&& b) ^^^ (a &&& c) ^^^ (b &&& c))
    [t1 + t2, a, b, c, d + t1, e, f, g]
  | l => l

/-- The big-endian word of four bytes. -/
def beWord (bs : List Byte) : Word := BitVec.ofNat 32 (leNat bs.reverse)

/-- One 64-byte block. -/
def shaBlock (h : List Word) (bs : List Byte) : List Word :=
  let w := (List.range 16).map fun i => beWord ((bs.drop (4 * i)).take 4)
  let v := ((shaK.zip (shaSchedule 48 w.reverse).reverse).foldl shaRound h)
  (h.zip v).map fun c => c.1 + c.2

/-- The blocks of a padded message. -/
def shaBlocks : Nat → List Word → List Byte → List Word
  | 0, h, _ => h
  | n + 1, h, bs => shaBlocks n (shaBlock h (bs.take 64)) (bs.drop 64)

/-- SHA-256 of a list of bytes, as 32 bytes. -/
def sha256 (bs : List Byte) : List Byte :=
  let n := bs.length
  let z := (119 - n % 64) % 64
  let m := bs ++ [0x80] ++ List.replicate z 0 ++ (leBytes (8 * n) 8).reverse
  (shaBlocks (m.length / 64) shaInit m).flatMap fun w => (leBytes w.toNat 4).reverse

end Sys2Proof.Machine
end

