-- ==== Sys2Proof/Machine/Wire.lean ====
section
/-!
DEFINITION. What flits look like on a cable (R113, R396 to R398), how wire encodings store a unit (R401), and the checks
of a frame and of an integrity group.
-/

namespace Sys2Proof.Machine

/-! Bodies of control flits (R397). -/

/-- ORIGIN: tile index, slot and context in six bytes. DESIGN CHOICE (notes/assumptions/102.md). -/
def origin (key : Nat) (ctx : Dword) : List Byte :=
  leBytes (tileIndex (keyTile key) + 1024 * keySlot key) 2 ++ leBytes (ctx.toNat % 2 ^ 32) 4

def AccId.origin (w : AccId) : List Byte := Sys2Proof.Machine.origin w.key w.ctx

/-- op of an atomic (R218). -/
def AmoOp.code : AmoOp → Nat
  | .swap => 0 | .cas => 1 | .add => 2 | .and => 3 | .or => 4 | .xor => 5 | .min => 6 | .max => 7 | .minn => 8
  | .maxn => 9 | .fadd => 10

/-- The size code of 1, 2, 4 or 8 bytes. -/
def sizeCode (n : Nat) : Nat := if n ≤ 1 then 0 else if n = 2 then 1 else if n = 4 then 2 else 3

/-- A body filled with zeros to `n` bytes. -/
def padBody (n : Nat) (bs : List Byte) : List Byte := bs ++ List.replicate (n - bs.length) 0

/-- The 64 bytes of a launch record (R35). -/
def LaunchRec.bytes (l : LaunchRec) : List Byte :=
  leBytes l.image.toNat 8 ++ leBytes l.arg.toNat 8 ++ leBytes l.done.toNat 8 ++ leBytes l.seed.toNat 8 ++
    leBytes (l.group + l.reserved % 4 * 2 ^ 14) 2 ++ leBytes l.gsize 2 ++ leBytes (l.prio + l.reserved / 4 % 32 * 8) 1 ++
    leBytes (l.tagByte + l.reserved / 128 % 2 * 64) 1 ++ leBytes (l.reserved / 256) 26

/-- KIND and body of a control flit; data flits have none. -/
def Flit.control (f : Flit) : Option (Nat × List Byte) :=
  let reply (r : Reply) : List Byte :=
    leBytes r.value.toNat 8 ++ r.who.origin ++ leBytes (if r.poisoned then 1 else 0) 1
  match f with
  | .loadReq w _ fa n _ => some (0x01, leBytes fa 8 ++ leBytes 0 16 ++ w.origin ++ leBytes (sizeCode n) 2)
  | .loadReply r => some (0x02, padBody 32 (reply r))
  | .atomicReq w _ fa n op a b =>
    some (0x03, padBody 32 (leBytes fa 8 ++ leBytes a.toNat 8 ++ leBytes b.toNat 8 ++ w.origin ++
      leBytes (op.code + if n = 8 then 16 else 0) 1))
  | .atomicReply r => some (0x04, padBody 32 (reply r))
  | .invocation i =>
    some (0x05, leBytes i.target 8 ++ leBytes i.entry 1 ++ leBytes i.tag.toNat 1 ++ i.who.origin ++
      leBytes i.arg0.toNat 8 ++ leBytes i.arg1.toNat 8)
  | .invResult v => some (0x06, padBody 32 (leBytes v.value.toNat 8 ++ v.who.origin ++ leBytes v.status 1))
  | .storeAck w _ _ fa n => some (0x07, padBody 32 (leBytes fa 8 ++ w.origin ++ leBytes n 1))
  | .pooledReadReq k c _ _ fa n xf =>
    some (0x08, padBody 32 (leBytes fa 8 ++ leBytes ((n + 63) / 64) 1 ++ leBytes xf 1 ++ Sys2Proof.Machine.origin k c))
  | .launch second l _ => some (if second then 0x0A else 0x09, (if second then l.bytes.drop 32 else l.bytes.take 32))
  | .sched _ _ _ => some (0x0B, padBody 32 [])
  | .pooledStore _ _ _ _ _ _ | .pooledReply _ _ _ _ _ _ _ _ _ _ | .bound _ => none

/-! Pooled data flits (R398). -/

/-- The byte mask of a sector, and its bytes, zero where the mask is clear. -/
def sectorMask (m : SMap (Option Byte)) : Nat :=
  (List.range 64).foldl (fun (a : Nat) i => a + if (SMap.get none m i).isSome then 2 ^ i else 0) 0
def sectorBytes (m : SMap (Option Byte)) : List Byte := (List.range 64).map fun i => (SMap.get none m i).getD 0

/-- KIND, N and the 512 bytes of a data flit: a header with the address and the masks, and up to seven sectors. -/
def Flit.data (f : Flit) : Option (Nat × Nat × List Byte) :=
  let body (fa : Nat) (masks : List Nat) (bs : List Byte) : List Byte :=
    padBody 512 (padBody 64 (leBytes fa 8 ++ masks.flatMap fun m => leBytes m 8) ++ bs)
  match f with
  | .pooledStore _ sec l fill _ _ =>
    some (if fill then 2 else 1, l.length, body (sec * 64) (l.map sectorMask) (l.flatMap sectorBytes))
  | .pooledReply _ _ _ _ bs _ _ fa _ _ =>
    let n := (bs.length + 63) / 64
    some (3, n, body fa (List.replicate n (2 ^ 64 - 1)) bs)
  | .bound b => some (0, 0, b.body)
  | _ => none

/-! Frames (R396). -/

/-- The bytes of a flit on the cable: body, frame fields and CRC-32. `seq` numbers it in its lane group; index, LAST, XF
and tag are those of its integrity group. -/
def Flit.frame (f : Flit) (seq index : Nat) (last : Bool) (xf tag : Nat) : List Byte :=
  let bs := match f.control with
    | some (kind, body) => body ++ leBytes kind 1 ++ leBytes f.vc 1 ++ leBytes f.src 1 ++ leBytes seq 1
    | none => match f.data with
      | some (kind, n, body) =>
        body ++ leBytes seq 4 ++
          leBytes (index % 8 + (if last then 8 else 0) + xf % 16 * 2 ^ 4 + n % 8 * 2 ^ 8 + kind * 2 ^ 12) 4 ++
          leBytes (if last then tag else 0) 8 ++ leBytes 0 4
      | none => []
  bs ++ leBytes (crc32 bs) 4

/-- Bytes that a line has damaged by a pattern of bits. -/
def damaged (bs : List Byte) (mask : Nat) : List Byte :=
  bs.zipIdx.map fun c => c.1 ^^^ BitVec.ofNat 8 (mask / 2 ^ (8 * c.2))

/-- Whether the CRC-32 at the end of a frame is good. -/
def frameGood (bs : List Byte) : Bool := leNat (bs.drop (bs.length - 4)) = crc32 (bs.take (bs.length - 4))

/-! Wire encodings (R401). -/

/-- Bytes of an item of an encoding, and bits of its code in MAP. -/
def wireItem (xf : Nat) : Nat := if xf = 0xB then 16 else if xf = 0xD then 32 else 64
def wireBits (xf : Nat) : Nat := if xf ≤ 0xB then 1 else 2

/-- The items of a unit. -/
def itemsOf (n : Nat) : Nat → List Byte → List (List Byte)
  | 0, _ => []
  | k + 1, bs => bs.take n :: itemsOf n k (bs.drop n)

/-- Code and payload of an item. -/
def encodeItem (xf : Nat) (bs : List Byte) : Nat × List Byte :=
  if bs.all fun b => b = 0 then (0, [])
  else if wireBits xf = 1 then (1, bs)
  else if bs = (List.replicate (bs.length / 4) (bs.take 4)).flatten then (1, bs.take 4) else (2, bs)

/-- A number whose digits in base 2^k are the codes of a list. -/
def packCodes (k : Nat) : List Nat → Nat
  | [] => 0
  | c :: l => c + 2 ^ k * packCodes k l

/-- Header and padded payload of a unit on the wire. The length counts the bytes before the padding.
DEDUCED (notes/assumptions/91.md). -/
def encodeUnit (xf : Nat) (bs : List Byte) : List Byte × List Byte :=
  let es := (itemsOf (wireItem xf) (4096 / wireItem xf) bs).map (encodeItem xf)
  let load : List Byte := es.flatMap fun e => e.2
  let padded : List Byte := load ++ List.replicate ((64 - load.length % 64) % 64) 0
  if 4096 ≤ padded.length then (leBytes (2 ^ 511 + 4095 * 2 ^ 480) 64, bs)
  else (leBytes (packCodes (wireBits xf) (es.map fun e => e.1) + (load.length + 65535) % 65536 * 2 ^ 480) 64, padded)

/-- Payload bytes of a code; nothing for a reserved one. -/
def codeLength (xf c : Nat) : Option Nat :=
  if c = 0 then some 0
  else if wireBits xf = 1 then some (wireItem xf)
  else if c = 1 then some 4 else if c = 2 then some (wireItem xf) else none

/-- The items that codes and a payload stand for, and the payload bytes that they use. -/
def decodeItems (xf : Nat) : Nat → Nat → List Byte → Option (List Byte × Nat)
  | 0, _, _ => some ([], 0)
  | k + 1, codes, load =>
    let c := codes % 2 ^ wireBits xf
    match codeLength xf c with
    | none => none
    | some n =>
      let item := if n = 4 then (List.replicate (wireItem xf / 4) (load.take 4)).flatten
        else if n = 0 then List.replicate (wireItem xf) 0 else load.take n
      (decodeItems xf k (codes / 2 ^ wireBits xf) (load.drop n)).map fun r => (item ++ r.1, n + r.2)

/-- The unit that a header and a payload stand for; nothing where the header has a reserved code or a length that
disagrees with MAP, which is a failed tag. -/
def decodeUnit (xf : Nat) (head load : List Byte) : Option (List Byte) :=
  let h := leNat head
  let len := (h / 2 ^ 480 % 65536 + 1) % 65536
  if h / 2 ^ 511 % 2 = 1 then (if len = 4096 ∧ h % 2 ^ 256 = 0 then some (load.take 4096) else none)
  else
    match decodeItems xf (4096 / wireItem xf) (h % 2 ^ 256) load with
    | some r => if r.2 = len then some r.1 else none
    | none => none

/-! Integrity groups (R134, R396). -/

/-- The end-to-end tag of a group: CRC-64 of its 4,096 body bytes and of SEQ of its first flit. -/
def groupTag (bytes : List Byte) (seq : Nat) : Nat := crc64 (bytes ++ leBytes seq 4)

/-- Whether XF names a wire encoding. -/
def isWire (xf : Nat) : Bool := 0xA ≤ xf && xf ≤ 0xD

/-- What a group sends: header and payload where a wire encoding applies, else its bytes; then number and tag. -/
def wireBytes (xf : Nat) (bytes : List Byte) (seq : Nat) : List Byte :=
  (if isWire xf then let e := encodeUnit xf bytes; e.1 ++ e.2 else bytes) ++ leBytes seq 4 ++ leBytes (groupTag bytes seq) 8

/-- Whether the tag of a group that a route has damaged is good at its last flit. -/
def tagGood (xf : Nat) (bytes : List Byte) (seq mask : Nat) : Bool :=
  mask = 0 ||
    let w := damaged (wireBytes xf bytes seq) mask
    let body := w.take (w.length - 12)
    match (if isWire xf then decodeUnit xf (body.take 64) (body.drop 64) else some body) with
    | some bs => groupTag bs (field w (w.length - 12) 4) = field w (w.length - 8) 8
    | none => false

/-- The body of flit `i` of a group. -/
def wireFlit (xf : Nat) (bytes : List Byte) (i : Nat) : List Byte :=
  if isWire xf then
    let e := encodeUnit xf bytes
    padBody 512 (if i = 0 then e.1 else (e.2.drop (512 * (i - 1))).take 512)
  else padBody 512 ((bytes.drop (512 * i)).take 512)

/-- Data flits of a group: eight, or those of an encoded payload behind the flit of its header. -/
def groupFlits (xf : Nat) (bytes : List Byte) : Nat :=
  if isWire xf then 1 + ((encodeUnit xf bytes).2.length + 511) / 512 else 8

end Sys2Proof.Machine
end

