-- ==== Sys2Proof/Machine/Priv.lean ====
section
/-!
DEFINITION. Privileged CSRs, the selection of a thread, ERET and the loading of saddle subgraphs (R308 to R319, R335,
R349, R353). The sets of S threads and the management sets of control space go through the same operations.
-/

namespace Sys2Proof.Machine

/-! The header segment of a tile's image (R318). DESIGN CHOICE (notes/assumptions/29.md). -/

/-- 8 bytes a number. -/
def qwords (l : List Nat) : List Byte := l.flatMap fun v => leBytes v 8

/-- Bytes held to a length: cut, or filled with zeros. -/
def segment (n : Nat) (bs : List Byte) : List Byte := padBody n (bs.take n)

/-- 1 plus the first 128 bits of SHA-256 over a block (R358). -/
def blockHash (bs : List Byte) : Nat := 1 + leNat ((sha256 bs).take 16)

/-- The fields of an access in an image. -/
def Access.words (a : Access) : List Nat :=
  [a.va.toNat, a.size, a.sc.toNat, a.k.toNat, a.dst.toNat, a.d1.toNat, a.d2.toNat, a.pc.toNat, a.id]

/-- A held result in an image (R163): register, value and flags. -/
def Reply.words (r : Reply) : List Nat := [r.who.id, r.dst.toNat, r.value.toNat, r.flags.toNat]

/-- STATE of a thread as TSTATE has it (R313), for a context that is switched out. -/
def Thread.savedState (t : Thread) : Nat :=
  if t.items ≠ [] then 2
  else match t.status with
    | .halted => 3
    | .wfi => 4
    | .exited => 5
    | _ => 1

/-- The user CSRs of a thread of a region (R186). -/
def Thread.userCsrs (t : Thread) (r : Region) : List Nat :=
  [t.tags.toNat, t.flags.toNat, t.ctxId.toNat, t.domMemb.toNat, t.srSeed.toNat, t.energy.toNat, r.lease.csr.toNat,
    r.savesetBase.toNat, (savesetLen r.saveset).toNat, t.latMode.toNat]

/-- The header segment: identity and state first, then registers, CSRs, loop stack, tags, tokens, held results, ag0. -/
def Thread.headerSegment (t : Thread) (r : Region) (tile : Nat) (results : List Reply) : List Byte :=
  let held : List Nat := match t.held with | .access a => a.words | _ => []
  qwords ([t.ctxId.toNat, r.slot, tile, t.savedState, t.pc.toNat, ((t.items.head?).map fun i => i.tcause.toNat).getD 0] ++
    ((List.range 32).map fun r => SMap.get 0 t.g r |>.toNat) ++
    [(List.range 8).foldl (fun (a : Nat) p => a + if SMap.get false t.p p then 2 ^ p else 0) 0] ++ t.userCsrs r ++
    (t.loops.flatMap fun e => [e.start.toNat, e.stop.toNat, e.left.toNat, e.idx.toNat, e.reg.toNat]) ++
    ((List.range 64).map fun n => SMap.get 0 t.tagCount n) ++
    ((List.range 16).flatMap fun k => let x := SMap.get {} t.tok k; x.lw.length :: x.lw ++ x.rs.length :: x.rs) ++
    results.flatMap Reply.words ++ held ++ t.pool.flatMap Access.words)

/-- The records of the items of a thread, each at its place. -/
def Thread.withRecords (t : Thread) (base : Nat) (bs : List Byte) : List Byte :=
  t.items.foldl (fun l i =>
    let o := i.src.recordOffset
    if i.src ≠ .core ∧ base ≤ o ∧ o < base + bs.length then
      l.take (o - base) ++ i.record.bytes ++ l.drop (o - base + 64)
    else l) bs

/-- Writes the header segment of a saved thread anew, where its image has its frames: an ERET or an update has changed it. -/
def State.saveHeader (s : State) (rid part rx ry : Nat) (im : Image) (t : Thread) : State :=
  match s.region rid with
  | none => s
  | some r =>
    let o := ((part * r.h + ry) * r.w + rx) * r.tileImage
    if r.imageFrames.length < r.imageSize ∨ s.rangeInUse (r.imageAddr o) 0x1000 = true then s
    else
      let b := t.withRecords 0 (segment 0x1000 (t.headerSegment r (tileIndex (r.tileAt part rx ry))
        (im.replies.filter fun v => v.who.key = posKey part rx ry)))
      (s.storeRange (r.imageAddr o) b).setRegion rid
        { r with imageHashes := SMap.put 0 r.imageHashes (o / 4096) (blockHash b) }

/-! The selected thread (R313). -/

/-- A selection that has not failed: a thread of a region of the partition, live or in its image. -/
structure Selected where
  rid : Nat
  region : Region
  part : Nat
  rx : Nat
  ry : Nat
  thread : Thread
  deriving DecidableEq, Repr

/-- The thread of a region at a position: live, or in its image. -/
def State.threadAt (s : State) (rid : Nat) (r : Region) (part rx ry : Nat) : Option Thread :=
  match SMap.get none s.images rid with
  | some im => SMap.get none im.threads (posKey part rx ry)
  | none => s.thread (r.keyAt part rx ry)

/-- Writes a thread back where `threadAt` found it; an image's header follows. -/
def State.putThreadAt (s : State) (rid : Nat) (r : Region) (part rx ry : Nat) (t : Thread) : State :=
  match SMap.get none s.images rid with
  | some im =>
    let im1 := { im with threads := SMap.put none im.threads (posKey part rx ry) (some t) }
    { s with images := SMap.put none s.images rid (some im1) }.saveHeader rid part rx ry im1 t
  | none => s.setThread (r.keyAt part rx ry) t

/-- The slot of a region at a position. -/
def State.slotAt (s : State) (rid : Nat) (r : Region) (part rx ry : Nat) : Slot :=
  match SMap.get none s.images rid with
  | some im => (SMap.get none im.slots (posKey part rx ry)).getD {}
  | none => s.slot (r.keyAt part rx ry)

def State.putSlotAt (s : State) (rid : Nat) (r : Region) (part rx ry : Nat) (x : Slot) : State :=
  match SMap.get none s.images rid with
  | some im =>
    let im1 := { im with slots := SMap.put none im.slots (posKey part rx ry) (some x) }
    { s with images := SMap.put none s.images rid (some im1) }
  | none => s.setSlot (r.keyAt part rx ry) x

/-- The tile key that a value of TTHR names (R311). -/
def tthrTile (v : Dword) : Nat := bitsOf v.toNat 17 10 * 896 + bitsOf v.toNat 9 0

/-- The thread that TSEL and TTHR name, if the context belongs to partition `part` and has a thread there; tile indexes
from 896 on name no tile (R12). -/
def State.select (s : State) (part : Nat) (p : PrivSet) : Option Selected :=
  if 896 ≤ bitsOf p.tthr.toNat 9 0 then none
  else match s.regions.findSome? fun c =>
      c.2.bind fun r => if r.ctxId = p.tsel ∧ p.tsel ≠ 0 ∧ r.launch.part = part then some (c.1, r) else none with
  | none => none
  | some (rid, r) =>
    match r.positions.find? fun c => r.tileAt c.1 c.2.1 c.2.2 = tthrTile p.tthr with
    | none => none
    | some c => (s.threadAt rid r c.1 c.2.1 c.2.2).map fun t => ⟨rid, r, c.1, c.2.1, c.2.2, t⟩

/-- TSTATE.STATE of a selection (R313, R349). -/
def Selected.stateCode (x : Selected) : Nat :=
  if x.thread.items ≠ [] then 2
  else if x.thread.status = .halted then 3
  else if x.thread.status = .wfi then 4
  else if x.thread.status = .exited then 5
  else if x.region.state = .saved then 1
  else 0

/-- The saved PC that TPC reads: the value written since the selection, else the thread's own. -/
def PrivSet.pcOf (p : PrivSet) (x : Selected) : Dword := if p.tpcDirty then p.tpc else x.thread.pc

/-- TTHR of a position of a region. -/
def Region.tthr (r : Region) (part rx ry : Nat) : Dword :=
  let tile := r.tileAt part rx ry
  BitVec.ofNat 64 (tileIndex tile + tileDev tile * 1024)

/-! CSR reads and writes (R311, R313). -/

/-- A read of TNEXT: the oldest listed thread that no S thread has selected becomes this set's selection. A read by a
management set leaves it to the S threads (R312). -/
def readTnext (s : State) (super : Bool) (part : Nat) (p : PrivSet) : Dword × State × PrivSet :=
  let l := SMap.get [] s.tnext part
  match l.find? fun c => c.2 = false with
  | none => (0, s, p)
  | some c =>
    match s.region (c.1 / 2 ^ 20) with
    | none => (0, s, p)
    | some r =>
      let k := c.1 % 2 ^ 20
      (r.ctxId,
        if super then
          { s with tnext := SMap.put [] s.tnext part (l.map fun d => if d.1 = c.1 then (d.1, true) else d) }
        else s,
        { p with tsel := r.ctxId, tthr := r.tthr (k / 1024) (k % 32) (k / 32 % 32), tpcDirty := false })

/-- TREC: where the record of the selected thread's listed item lies in its context image, and the state after the
scheduler has written it there; 0 without an item. With no frames for an image the manual gives no address, and an opaque
constant stands for it. DESIGN CHOICE (notes/assumptions/25.md). -/
def State.trec (s : State) (x : Selected) : Dword × State :=
  match x.thread.items with
  | [] => (0, s)
  | i :: _ =>
    let s1 := s.writeRecord x.rid x.part x.rx x.ry i
    match s1.region x.rid with
    | some r =>
      if r.imageSize ≤ r.imageFrames.length then (BitVec.ofNat 64 (r.recordAddr x.part x.rx x.ry i.src), s1)
      else (Config.recordAddress r.ctxId.toNat (posKey x.part x.rx x.ry), s1)
    | none => (0, s1)

/-- A read of privileged CSR `n` through set `p` of partition `part`; nothing where no CSR has the number. The
write-only SDL_LOAD reads zero (R5). R313's table gives TSTATE.STATE the reset value 0, its text the reading 5 wherever TSEL and
TTHR name no thread; right after a reset they name none, and STATE reads 5. DESIGN CHOICE (notes/assumptions/27.md). -/
def privRead (s : State) (super : Bool) (part : Nat) (p : PrivSet) (n : Nat) : Option (Dword × State × PrivSet) :=
  let sel := s.select part p
  let here (v : Dword) : Option (Dword × State × PrivSet) := some (v, s, p)
  if n = 0 then here (boolD super + BitVec.ofNat 64 (part * 256))
  else if n = 1 then some (readTnext s super part p)
  else if n = 2 then here p.tsel
  else if n = 3 then
    here (BitVec.ofNat 64 ((match sel with | some x => x.stateCode | none => 5) + p.last.toNat * 8))
  else if n = 4 then here (match sel with | some x => p.pcOf x | none => 0)
  else if n = 5 then
    here (match sel with
      | some x => (match x.thread.items with | i :: _ => zextD i.tcause | [] => 0)
      | none => 0)
  else if n = 6 then (match sel with | some x => some ((s.trec x).1, (s.trec x).2, p) | none => here 0)
  else if n = 7 then here p.tact
  else if n = 8 then here p.tthr
  else if n = 0x10 then here (s.partition part).ptRoot
  else if n = 0x11 then here (s.partition part).fpool
  else if n = 0x20 then here p.sdlTgt
  else if n = 0x21 then here 0
  else if n = 0x22 then here (zextD p.sdlStat)
  else none

/-- Drops every cached translation of a partition (R335, R344). -/
def State.dropTranslations (s : State) (part : Nat) : State :=
  { s with tlb := s.tlb.filter fun e => e.part != part, walkCache := s.walkCache.filter fun e => e.part != part }

/-- A write to PT_ROOT (R335). -/
def State.writePtRoot (s : State) (part : Nat) (v : Dword) : State :=
  let p := s.partition part
  let root := v.toNat
  if root % 2 ^ 14 = 0 ∧ root < 2 ^ 56 ∧ (root = 0 ∨ (isHbm root = true ∧ p.ownsHbm root (2 ^ 14) = true)) then
    (s.setPartition part { p with ptRoot := v }).dropTranslations part
  else s

/-- A write to FPOOL (R335). -/
def State.writeFpool (s : State) (part : Nat) (v : Dword) : State :=
  let p := s.partition part
  let b := v.toNat
  if b % 64 = 0 ∧ b < 2 ^ 56 ∧ (b = 0 ∨ (isHbm b = true ∧ p.ownsHbm b 64 = true)) then
    s.setPartition part { p with fpool := v }
  else s

/-- A write to privileged CSR `n`; nothing where no CSR has the number or it refuses writes. SDL_LOAD has its own
operation. -/
def privWrite (s : State) (part : Nat) (p : PrivSet) (n : Nat) (v : Dword) : Option (State × PrivSet) :=
  if n = 2 then some (s, { p with tsel := v, tpcDirty := false })
  else if n = 4 then
    some (s, match s.select part p with
      | some _ => { p with tpc := v, tpcDirty := true }
      | none => p)
  else if n = 7 then some (s, if v &&& 3 = 3 then p else { p with tact := v &&& 3 })
  else if n = 8 then some (s, { p with tthr := v &&& 0x3FFFF, tpcDirty := false })
  else if n = 0x10 then some (s.writePtRoot part v, p)
  else if n = 0x11 then some (s.writeFpool part v, p)
  else if n = 0x20 then some (s, { p with sdlTgt := v })
  else none

/-! SDL_LOAD (R315). -/

/-- Whether SDL_TGT names memory of the partition: HBM by its fabric address, a vault by the model's address of it. -/
def State.sdlTargetOk (s : State) (part : Nat) (tgt : Dword) : Bool :=
  let a := tgt.toNat / 64 * 64
  let p := s.partition part
  bitsOf tgt.toNat 5 4 = 0 &&
    ((isHbm a && p.ownsHbm a 64) ||
      (2 ^ 60 ≤ a && a < 2 ^ 61 && p.quads.contains ((a - 2 ^ 60) / 2 ^ 21)))

/-- The 16 words of a block. -/
def wordsOf (bs : List Byte) (n : Nat) : List Word := (List.range n).map fun i => BitVec.ofNat 32 (field bs (4 * i) 4)

/-- The set after the words of a load have been read: refused, or waiting for the entry that SDL_TGT names now. -/
def PrivSet.sdlRead (p : PrivSet) (s : State) (part : Nat) (ws : List Word) : PrivSet :=
  if s.sdlTargetOk part p.sdlTgt && ws.all saddleWordOk then
    { p with sdlStat := 3, sdlWords := p.sdlWords ++ [(p.sdlTgt, ws)] }
  else { p with sdlStat := 2 }

/-- The oldest waiting load of a set takes effect: all 16 words of the entry as one action. SDL_STAT tells of the latest
load. -/
def State.sdlApply (s : State) (part : Nat) (p : PrivSet) : State × PrivSet :=
  match p.sdlWords with
  | (tgt, ws) :: r =>
    (s.loadEntry part (tgt, ws),
      { p with sdlStat := if r = [] ∧ p.sdlStat = 3 then 1 else p.sdlStat, sdlWords := r })
  | [] => (s, p)

/-! ERET (R314, R349, R353). -/

/-- The thread and its items after its listed item is resolved: the next item, if any, is listed. -/
def State.dropItem (s : State) (x : Selected) (t : Thread) : State :=
  let rest := x.thread.items.drop 1
  (s.putThreadAt x.rid x.region x.part x.rx x.ry { t with items := rest }).relist x.region.launch.part t.name
    (rest != [])

/-- A source context goes back to the first visit of the unit of its filter table that is not complete: the visits that
the unit has taken are carried out again, in front of its port's entries, with the bases that they had (R235, R256). -/
def Slot.rewind (x : Slot) (ag : BitVec 3) : Slot :=
  let c := SMap.get {} x.ags ag.toNat
  let n := (c.taken.map fun v => v.1).sum
  let es := c.taken.map fun v => SbEntry.cmd ag v.1 v.2 []
  let c1 : AgCtx :=
    { c with n := c.n - n, done := c.done - n, partialBytes := [], partialPoison := false, taken := [] }
  let port := c.port.toNat
  { x with ags := SMap.put {} x.ags ag.toNat c1
           scoreboard := SMap.put [] x.scoreboard port (es ++ SMap.get [] x.scoreboard port) }

/-- ACT 0b00: the thread's listed item is resolved. -/
def State.eretResume (s : State) (p : PrivSet) (x : Selected) : Option State :=
  let t := x.thread
  match t.items with
  | [] => none
  | i :: _ =>
    match i.src with
    | .core =>
      some (s.dropItem x { t with status := .running, wait := .none, charged := false, pc := p.pcOf x })
    | .scalar =>
      match t.held with
      | .access a =>
        if x.region.acts s.now = false then
          some (s.dropItem x (if a.kind.waits then { t with held := .none, wait := .unparked a }
            else { t with held := .none, pool := t.pool ++ [a] }))
        else
          let k := x.region.keyAt x.part x.rx x.ry
          let s1 := s.dropItem x t
          match s1.thread k with
          | some u => some (s1.retryHeld k u a)
          | none => some s1
      | _ => some (s.dropItem x { t with held := .none })
    | .stream ag =>
      let sl1 := (s.slotAt x.rid x.region x.part x.rx x.ry).rewind ag
      let c0 := SMap.get ({} : AgCtx) sl1.ags ag.toNat
      let c1 : AgCtx := { c0 with fault := false }
      some ((s.putSlotAt x.rid x.region x.part x.rx x.ry { sl1 with ags := SMap.put {} sl1.ags ag.toNat c1 }).dropItem x t)

/-- ACT 0b10: a halted or waiting thread goes on at TPC. -/
def State.eretWake (s : State) (p : PrivSet) (x : Selected) : Option State :=
  if x.stateCode = 3 ∨ x.stateCode = 4 then
    some (s.putThreadAt x.rid x.region x.part x.rx x.ry
      { x.thread with status := .running, wait := .none, charged := false, pc := p.pcOf x })
  else none

/-- ERET on the selection of a set: the state after it, or nothing where it is refused. A kill ends the graph with STATUS 1 (R314),
one of a faulted access too. DEDUCED (notes/assumptions/94.md). -/
def State.eretAct (s : State) (part : Nat) (p : PrivSet) (act : Nat) : Option State :=
  match s.select part p with
  | none => none
  | some x =>
    if act = 0 then s.eretResume p x
    else if act = 1 then some (s.endGraph x.rid 1 0)
    else s.eretWake p x

/-- The set after an ERET: LAST says whether it was performed. A refused one changes nothing else (R314). -/
def PrivSet.afterEret (p : PrivSet) (ok : Bool) : PrivSet :=
  { p with last := if ok then 1 else 2, tpcDirty := p.tpcDirty && !ok }

/-- ERET of a thread with an action (R205, R314): a release at fabric scope, once the loads of SDL_LOAD that the thread
has written have taken effect, and then one action of the scheduler. -/
def eretOp (s : State) (act : Nat) : Res State :=
  onThread s fun t =>
    onRegion s t fun r =>
      if !t.super then terminal s .privileged 0
      else if t.priv.sdlWords ≠ [] then hold s t 11
      else
        afterAccesses s t 11 fun s1 t1 =>
          let out := (s1.setThread s1.cur t1).eretAct r.launch.part t1.priv act
          let s2 := out.getD (s1.setThread s1.cur t1)
          match s2.thread s2.cur with
          | some u => retire s2 { u with priv := u.priv.afterEret out.isSome } 11 4
          | none => .next s2

/-- eret with TACT 0b00 (R314). -/
def execEretResume (s : State) : Res State := eretOp s 0
/-- eret with TACT 0b01 (R314). DEDUCED (notes/assumptions/28.md). -/
def execEretKill (s : State) : Res State := eretOp s 1
/-- eret with TACT 0b10 (R314). -/
def execEretWake (s : State) : Res State := eretOp s 2

/-! PCSRR and PCSRW (R205, R311). -/

/-- Runs `f` for a thread of level S; at level U the instruction traps, whatever its N. -/
def atLevelS (s : State) (f : Thread → Region → Res State) : Res State :=
  onThread s fun t => onRegion s t fun r => if t.super then f t r else terminal s .privileged 0

/-- pcsrr (R311). -/
def execPcsrr (r : Reg) (n : BitVec 11) (s : State) : Res State :=
  atLevelS s fun t g =>
    match privRead s true g.launch.part t.priv n.toNat with
    | some (v, s1, p) => retire s1 ({ t with priv := p }.writeG r v) 11 4
    | none => illegal s

/-- A write of SDL_LOAD by a thread: 16 words read through ag0, then the checks of R315. -/
def sdlLoad (s : State) (t : Thread) (g : Region) (v : Dword) (fin : State → Thread → Res State) : Res State :=
  if t.held ≠ .none ∨ t.acquiring ≠ [] then stall s t
  else if v.toNat % 64 ≠ 0 then blockFault s t 11 g .alignment 0 v
  else
    withBlock s t 11 g v 8 fun s1 t1 bs =>
      fin s1 { t1 with priv := t1.priv.sdlRead s1 g.launch.part (wordsOf bs 16) }

/-- pcsrw (R311). -/
def execPcsrw (r : Reg) (n : BitVec 11) (s : State) : Res State :=
  atLevelS s fun t g =>
    if n.toNat = 0x21 then sdlLoad s t g (t.readG r) fun s1 t1 => retire s1 t1 11 4
    else
      match privWrite s g.launch.part t.priv n.toNat (t.readG r) with
      | some (s1, p) => retire s1 { t with priv := p } 11 4
      | none => illegal s

/-! The effects of these CSRs as events of their own, on the current thread's set. -/

/-- Runs `f` on the current thread when it is of level S; a thread of level U has no set. -/
def onSet (s : State) (f : Thread → Region → Res State) : Res State :=
  onThread s fun t => onRegion s t fun g => if t.super then f t g else .next s

/-- TNEXT_READ (R311): the CTX_ID goes to a register. -/
def execTnextRead (r : Reg) (s : State) : Res State :=
  onSet s fun t g =>
    let x := readTnext s true g.launch.part t.priv
    .next (x.2.1.setThread s.cur ({ t with priv := x.2.2 }.writeG r x.1))

/-- A write to CSR n of the current thread's set. -/
def setWrite (s : State) (n : Nat) (v : Dword) : Res State :=
  onSet s fun t g =>
    match privWrite s g.launch.part t.priv n v with
    | some (s1, p) => .next (s1.setThread s.cur { t with priv := p })
    | none => .next s

/-- TSEL_WRITE (R313). -/
def execTselWrite (v : Dword) (s : State) : Res State := setWrite s 2 v
/-- PT_ROOT_WRITE (R335). -/
def execPtRootWrite (v : Dword) (s : State) : Res State := setWrite s 0x10 v
/-- FPOOL_WRITE (R335). -/
def execFpoolWrite (v : Dword) (s : State) : Res State := setWrite s 0x11 v
/-- PRIV_CSR_WRITE (R311): TSEL, TPC, TACT, TTHR or SDL_TGT; read-only CSRs and other numbers keep their values. -/
def execPrivCsrWrite (n : BitVec 11) (v : Dword) (s : State) : Res State :=
  setWrite s (if n.toNat = 0x10 ∨ n.toNat = 0x11 then 0 else n.toNat) v

/-- SDL_LOAD_WRITE (R315). -/
def execSdlLoadWrite (v : Dword) (s : State) : Res State :=
  onSet s fun t g => sdlLoad s t g v fun s1 t1 => .next (s1.setThread s1.cur t1)

end Sys2Proof.Machine
end

