-- ==== Sys2Proof/Machine/Stream.lean ====
section
/-!
DEFINITION. Address generators at work (R104, R106, R129, R130, R230 to R236, R239, R244 to R246): runs of a stream,
filter tables, write combiners, faults of a binding context, and what ends a command.
-/

namespace Sys2Proof.Machine

/-- Sink ports (R238). -/
def isSink (p : Nat) : Bool := p = 0x02 || p = 0x04 || (0x10 ≤ p && p ≤ 0x17)

/-- Ports whose reads are matrix-operand reads (R104). -/
def isMatrixPort (p : Nat) : Bool := p = 0x00 || p = 0x01 || p = 0x18

/-- The program of a context, and its number of visits. -/
def Slot.nest (x : Slot) (ag : Nat) : Option Nest := nestAt x.words ag (x.ag ag).prog.toNat
def Slot.visits (x : Slot) (ag : Nat) : Nat := match x.nest ag with
  | some n => n.total
  | none => 0

/-- The count of a command that asks for the rest of its nest: no nest has more visits than this. -/
def restOfNest : Nat := 2 ^ 128

/-- Tokens of an element of `w` bytes (R258). -/
def tokensPer (w : Nat) : Nat := if w < 4 then 1 else w / 4

/-- Tokens on the gather route that have not been read for: at port gx and at the gather unit. -/
def Slot.gxPending (x : Slot) : Nat := ((x.port 0x18).buf.filter Token.isData).length + x.gather.length

/-! The scoreboard (R239, R244). -/

/-- Whether an entry at the head of port p has ended. A command of port gx ends only when every offset it delivered has
been read for (R235). -/
def Slot.ended (x : Slot) (p : Nat) (e : SbEntry) : Bool :=
  match e with
  | .cmd ag left _ _ =>
    let c := x.ag ag.toNat
    (left = 0 || x.visits ag.toNat ≤ c.n) && !c.waiting && !c.fault && (p != 0x18 || x.gxPending = 0) &&
      (c.combSector = none || match x.nest ag.toNat with | some n => n.mode != 3 | none => true)
  | _ => false

/-- Drops the commands at the head of port p that have ended. -/
def Slot.settle (x : Slot) (p : Nat) : Slot := x.setEntries p ((x.entries p).dropWhile fun e => x.ended p e)

/-- Takes `k` visits off the command at the head of port p. -/
def Slot.spend (x : Slot) (p k : Nat) : Slot :=
  match x.entries p with
  | .cmd ag left base after :: r => x.setEntries p (.cmd ag (left - k) base after :: r)
  | _ => x

/-- Whether a scoreboard entry of port p names the generator. -/
def Slot.named (x : Slot) (p : Nat) (ag : BitVec 3) : Bool :=
  (x.entries p).any fun e => match e with | .cmd a _ _ _ => a = ag | _ => false

/-- Whether a binding is idle (R240). -/
def Slot.agIdle (x : Slot) (ag : BitVec 3) : Bool :=
  let c := x.ag ag.toNat
  !c.bound || (if isSink c.port.toNat then c.idle else !x.named c.port.toNat ag)

/-! Filter tables (R84, R236). -/

/-- The 6-bit elements of packed bytes (R60). -/
def sixBits : List Byte → List Nat
  | a :: b :: c :: r =>
    let v := a.toNat + b.toNat * 2 ^ 8 + c.toNat * 2 ^ 16
    v % 64 :: v / 64 % 64 :: v / 4096 % 64 :: v / 262144 :: sixBits r
  | _ => []

/-- Rows of `w` bytes. -/
def rowsOf (n w : Nat) (bs : List Byte) : List (List Byte) := (List.range n).map fun i => (bs.drop (w * i)).take w

/-- An element of an MX unit with its scale folded, as `n` bytes (R84). -/
def foldScale (f : Fmt) (n nan : Nat) (sat : Bool) (scale : Byte) (v : XR) : List Byte × Dword :=
  if scale = 0xFF then (leBytes nan n, 0)
  else let r := roundFmt (v.scale ((scale.toNat : Int) - 127)) f .rne sat; (leBytes r.1 n, r.2)

/-- The output of one unit of filter table `xf`, with its flags. -/
def expandUnit (xf : Nat) (sat : Bool) (bs : List Byte) : List Byte × Dword :=
  let inFmt := if xf % 2 = 1 then e3m2 else e2m3
  let scales := bs.take 128
  let els := (sixBits (bs.drop 128)).map fun v => inFmt.value v
  let per := scales.flatMap (List.replicate 32)
  let folded (f : Fmt) (n nan : Nat) : List Byte × Dword :=
    let rs := (per.zip els).map fun c => foldScale f n nan sat c.1 c.2
    (rs.flatMap fun r => r.1, rs.foldl (fun (a : Dword) r => a ||| r.2) 0#64)
  if xf = 1 ∨ xf = 2 then (scales ++ els.map fun v => BitVec.ofNat 8 (roundFmt v e4m3 .rne false).1, 0)
  else if xf = 3 ∨ xf = 4 then folded e4m3 1 0x7F
  else if xf = 5 ∨ xf = 6 then folded bf16 2 0x7FC0
  else if xf = 8 then
    ((List.range 64).flatMap fun j => (rowsOf 64 64 bs).map fun r => r.getD j 0, 0)
  else if xf = 9 then
    ((List.range 32).flatMap fun j => (rowsOf 64 64 bs).flatMap fun r => (r.drop (2 * j)).take 2, 0)
  else (bs, 0)

/-! Reading. -/

/-- Data tokens of the bytes of an element or unit, `k` of them, four bytes each at most (R258). -/
def dataTokens (k : Nat) (bs : List Byte) (p : Bool) : List Token :=
  (List.range k).map fun i => ⟨BitVec.ofNat 32 (field bs (4 * i) 4), .data, true, p, 0⟩

/-- The visits of the unit in progress with one more, for a command of a base. -/
def addVisit (base : Dword) : List (Nat × Dword) → List (Nat × Dword)
  | [] => [(1, base)]
  | [(k, b)] => if b = base then [(k + 1, b)] else [(k, b), (1, base)]
  | v :: r => v :: addVisit base r

/-- One element of a command of base `base` reaches the port of a source context: its tokens at once, or a whole unit of
its filter table when that is complete (R234, R236). The flags are those of the filter table. -/
def Slot.deliverElement (x : Slot) (ag : Nat) (n : Nest) (base : Dword) (p : Bool) (bs : List Byte) : Slot × Dword :=
  let c := x.ag ag
  let port := c.port.toNat
  let send (x1 : Slot) (ts : List Token) : Slot :=
    x1.setPort port { x1.port port with buf := (x1.port port).buf ++ ts }
  if n.xf = 0 then
    (send (x.setAg ag { c with done := c.done + 1, skip := 0 }) ((dataTokens (tokensPer n.width) bs p).drop c.skip), 0)
  else
    let u := c.partialBytes ++ bs
    let bad := c.partialPoison || p
    if u.length = 64 * xfUnit n.xf then
      let o := expandUnit n.xf n.sat u
      let c1 : AgCtx := { c with done := c.done + 1, chunk := c.chunk + 1, partialBytes := [], partialPoison := false, taken := [] }
      (send (x.setAg ag c1) (dataTokens (o.1.length / 4) o.1 bad), o.2)
    else
      (x.setAg ag
        { c with done := c.done + 1, partialBytes := u, partialPoison := bad, taken := addVisit base c.taken }, 0)

/-- The elements of a run reach the port, and the head command has carried them out. -/
def Slot.deliverRun (x : Slot) (ag : Nat) (n : Nest) (base : Dword) (p : Bool) (es : List (List Byte)) : Slot × Dword :=
  let r := es.foldl (fun (a : Slot × Dword) bs =>
    let y := a.1.deliverElement ag n base p bs; (y.1, a.2 ||| y.2)) (x, 0)
  let c := r.1.ag ag
  let y := (r.1.setAg ag { c with n := c.n + es.length, waiting := false }).spend c.port.toNat es.length
  (y.settle c.port.toNat, r.2)

/-- A source context goes back to visit `n`, within the command that heads its port, which regains the visits; `skip`
tokens of that visit have been used already (R277). -/
def Slot.goBack (x : Slot) (ag : BitVec 3) (n skip : Nat) : Slot :=
  let c := x.ag ag.toNat
  let port := c.port.toNat
  let es := match x.entries port with
    | .cmd a left base after :: r =>
      if a = ag then .cmd a (left + (c.n - n)) base after :: r else .cmd a left base after :: r
    | l => l
  (x.setAg ag.toNat { c with n := n, done := n, skip := skip }).setEntries port es

/-- Byte offsets in sector `sec` of the visits of one run from visit v on (R233). -/
def Nest.run (n : Nest) (base : Dword) (sec v : Nat) : Nat → List Nat
  | 0 => []
  | k + 1 =>
    let ea := (n.ea base v).toNat
    if ea / 64 = sec ∧ ea % n.width = 0 then ea % 64 :: Nest.run n base sec (v + 1) k else []

/-- Whether the port has room for the tokens of a run. -/
def Slot.portRoom (x : Slot) (port : Nat) (n : Nest) (k : Nat) : Bool :=
  let b := (x.port port).buf
  b = [] || b.length + (if n.xf = 0 then k * tokensPer n.width else 2048) ≤ Config.portRoom

/-- A fault of a binding context at visit `v` (R235, R351). -/
def State.streamFault (s : State) (key : Nat) (x : Slot) (ag : BitVec 3) (n : Nest) (cause : Cause) (arg scope : Nat)
    (ea group : Dword) (v : Nat) : State :=
  match s.thread key with
  | none => s
  | some t =>
    let tc := tcause cause ag.toNat true arg
    let kind : WalkKind := if n.mode = 2 then .readWrite else if 3 ≤ n.mode then .write else .read
    let i := (nestCounters v n.counts).map fun (k : Nat) => BitVec.ofNat 32 k
    let c := x.ag ag.toNat
    let chunk := if n.xf = 0 then v * n.width / 4096 else c.chunk
    let f : FaultRec :=
      { cause := tc, acc := accField kind (max n.scope scope) n.mode, slot := BitVec.ofNat 8 (keySlot key), ea := ea,
        group := group, done := BitVec.ofNat 64 v, chunk := BitVec.ofNat 32 chunk, pc := 0, i0 := i.getD 0 0,
        i1 := i.getD 1 0, i2 := i.getD 2 0, i3 := i.getD 3 0, i4 := i.getD 4 0 }
    (s.setSlot key (x.setAg ag.toNat { c with fault := true })).addItem key t ⟨.stream ag, tc, f⟩

/-- The mesh-router port (north 0, east 1, south 2, west 3) by which a stream enters its tile (R236): that of the side of its
port's arc, the east one for the queue endpoints. DESIGN CHOICE (notes/assumptions/116.md). -/
def entryPort (port : Nat) : Nat := if port = 0x01 then 0 else if port = 0x00 ∨ port = 0x18 then 3 else 1

/-- A request of a read stream loads the entry of VC 4, inbound, at that mesh-router port (R400). -/
def State.loadRouter (s : State) (key port : Nat) (n : Nest) : State :=
  let d := s.device (keyDev key)
  let k := (keyTile key % 896 * 4 + entryPort port) * 2 + 1
  s.setDevice (keyDev key)
    { d with routerFilters := SMap.put 0 d.routerFilters (k * 16 + 4) (n.xf + if n.sat then 16 else 0) }

/-- A read stream makes the access of its next run (R104, R233); none of its port's consumers is fed from a pooled group
before the group's check (R134). -/
def State.readRun (s : State) (key : Nat) (t : Thread) (r : Region) (x : Slot) (ag : BitVec 3) (n : Nest) (left : Nat)
    (base : Dword) : State :=
  let c := x.ag ag.toNat
  let port := c.port.toNat
  let ea := n.ea base c.n
  let offs := n.run base (ea.toNat / 64) c.n (min left (n.total - c.n))
  if !x.portRoom port n offs.length || (port = 0x18 && x.gxPending != 0) then s
  else
    let kind : WalkKind := if n.mode = 2 then .readWrite else .read
    match reach s r t.super t.part t.rx t.ry ea n.width n.width kind with
    | .busy s1 => s1
    | .fault cause arg s1 => s1.streamFault key x ag n cause arg (homeGuess r t ea) ea 0 c.n
    | .at p s0 =>
      let s1 := s0.loadRouter key port n
      let sec := sectorOf p.addr
      let st := s1.sector sec
      if st = .poisoned ∧ (n.mode ≠ 0 ∨ isMatrixPort port = true) then
        s1.streamFault key x ag n .poison 0 p.home ea (s1.poisonGroup p.addr) c.n
      else if n.mode ≠ 0 ∧ (st = .empty ∨ s1.wayOpen key p.addr = false) then s1
      else if s1.unchecked sec then s1
      else if n.mode = 0 ∧ addrDev p.addr ≠ keyDev key then
        ((s1.send (.pooledReadReq key t.ctxId ag c.n (sec * 64) 64 (n.xf + if n.sat then 16 else 0))).chargeAt key 14 1).commit key
          (x.setAg ag.toNat { c with waiting := true })
      else
        let y := x.deliverRun ag.toNat n base (st = .poisoned) (offs.map fun o => s1.bytes (sec * 64 + o) n.width)
        let s2 := if n.mode = 2 then s1.setSector sec .empty else s1
        ((s2.chargeAt key 14 1).raiseAt key (y.2 ||| if st = .poisoned then poisonRd else 0) 0).commit key y.1

/-- The sector that a pooled read brought back, for the run that waits for it, with the group that poisoned it (R352); a
withdrawn read delivers nothing. DEDUCED (notes/assumptions/32.md). -/
def State.remoteRun (s : State) (key : Nat) (ctx : Dword) (ag : BitVec 3) (visit : Nat) (bs : List Byte)
    (poison : Bool) (group : Dword) : State :=
  s.atSlot key fun t _ x =>
    let c := x.ag ag.toNat
    match x.nest ag.toNat, x.entries c.port.toNat with
    | some n, .cmd a left base _ :: _ =>
      if t.ctxId = ctx ∧ c.waiting = true ∧ c.n = visit ∧ a = ag then
        let ea := n.ea base c.n
        let offs := n.run base (ea.toNat / 64) c.n (min left (n.total - c.n))
        if poison ∧ isMatrixPort c.port.toNat = true then
          s.streamFault key (x.setAg ag.toNat { c with waiting := false }) ag n .poison 0 3 ea group c.n
        else
          let y := x.deliverRun ag.toNat n base poison (offs.map fun o => (bs.drop o).take n.width)
          (s.raiseAt key (y.2 ||| if poison then poisonRd else 0) 0).commit key y.1
      else s
    | _, _ => s

/-! Writing. -/

/-- Names the writes of a stream on the fabric: 2^32 + ag in place of an access identifier. -/
def streamWho (key : Nat) (ctx : Dword) (ag : Nat) : AccId := ⟨key, ctx, 2 ^ 32 + ag⟩

/-- Whether a write of the context is still on the fabric. -/
def State.streamAway (s : State) (w : AccId) : Bool :=
  s.flits.any fun v => match v.flit with
    | .pooledStore u _ _ _ _ _ => u = w
    | .storeAck u _ _ _ _ => u = w
    | _ => false

/-- The write of a stream that was on the fabric has performed: its elements count as written (R234). -/
def State.streamWrote (s : State) (w : AccId) : State :=
  let x := s.slot w.key
  let a := w.id - 2 ^ 32
  match s.thread w.key with
  | some t => if t.ctxId = w.ctx then s.setSlot w.key (x.setAg a { x.ag a with done := (x.ag a).sent }) else s
  | none => s

/-- Writes the combiner of a context as the end of its run: one grant, which sets the sector full in fill mode (R106,
R233). Nothing where it must wait: a filling write on a full sector, a write of the stream on the fabric (R130), or
translations in use (R345). -/
def State.flushComb (s : State) (key : Nat) (x : Slot) (ag : Nat) : Option (State × Slot) :=
  let c := x.ag ag
  match c.combSector, s.thread key with
  | some sec, some t =>
    let fill := match x.nest ag with | some n => n.mode = 4 | none => false
    let who := streamWho key t.ctxId ag
    let z := { c with combSector := none, combBytes := [], combPoison := false }
    let y := x.setAg ag { z with done := c.n }
    if s.streamAway who then none
    else if addrDev (sec * 64) ≠ keyDev key then
      some (((s.send (.pooledStore who sec [c.combBytes] fill c.combPoison false)).chargeAt key 14 1).chargeAt key 15 1,
        x.setAg ag { z with sent := c.n })
    else if fill && s.sector sec = .full then none
    else if (s.setSlot key y).inUse sec fun _ => false then none
    else
      let s1 := s.writeMasked sec c.combBytes
      let s2 := if c.combPoison then s1.setSector sec .poisoned else if fill then s1.setSector sec .full else s1
      some ((s2.chargeAt key 14 1).raiseAt key (if !fill && s.sector sec = .poisoned then poisonRd else 0) 0, y)
  | _, _ => some (s, x)

/-- The bytes of a run with one element added at byte `o` of its sector. -/
def addElement (m : SMap (Option Byte)) (o : Nat) (bs : List Byte) : SMap (Option Byte) :=
  (bs.foldl (fun (a : SMap (Option Byte) × Nat) b => (SMap.put none a.1 (a.2 % 64) (some b), a.2 + 1)) (m, o)).1

/-- The bytes of an element that `k` tokens carry: the low bytes of one, or all four of each. -/
def tokenBytes (w : Nat) (ts : List Token) : List Byte :=
  (ts.flatMap fun t => leBytes t.data.toNat 4).take w

/-- A write stream takes one element from its port into its combiner, or writes a run that has ended (R106, R233). While a
full-setting write is on the fabric no further run begins, so that a pre-emption can take that write back (R211).
DEDUCED (notes/assumptions/31.md). -/
def State.writeRun (s : State) (key : Nat) (t : Thread) (r : Region) (x : Slot) (ag : BitVec 3) (n : Nest) (left : Nat)
    (base : Dword) : State :=
  let c := x.ag ag.toNat
  let port := c.port.toNat
  if left = 0 ∨ n.total ≤ c.n then
    match s.flushComb key x ag.toNat with
    | some (s1, y) => s1.commit key (y.settle port)
    | none => s
  else
    let k := tokensPer n.width
    let ts := (x.port port).buf.take k
    if ts.length < k ∨ ts.any (fun u => !u.isData) = true ∨ (n.mode = 4 ∧ s.streamAway (streamWho key t.ctxId ag.toNat) = true)
    then s
    else
      let ea := n.ea base c.n
      match reach s r t.super t.part t.rx t.ry ea n.width n.width .write with
      | .busy s1 => s1
      | .fault cause arg s1 =>
        -- every earlier iteration performs first, those on the fabric too (R140, R235)
        (match c.combSector with
        | some _ =>
          (match s1.flushComb key x ag.toNat with
          | some (s2, y) => s2.commit key y
          | none => s1)
        | none =>
          if s1.streamAway (streamWho key t.ctxId ag.toNat) then s1
          else s1.streamFault key x ag n cause arg (homeGuess r t ea) ea 0 c.n)
      | .at p s1 =>
        let sec := sectorOf p.addr
        if c.combSector ≠ none ∧ c.combSector ≠ some sec then
          match s1.flushComb key x ag.toNat with
          | some (s2, y) => s2.commit key y
          | none => s1
        else
          let c1 : AgCtx :=
            { c with
              n := c.n + 1
              combSector := some sec
              combBytes := addElement c.combBytes (p.addr % 64) (tokenBytes n.width ts)
              combPoison := c.combPoison || ts.any Token.p }
          let y := ((x.setAg ag.toNat c1).setPort port { x.port port with buf := (x.port port).buf.drop k }).spend port 1
          if n.mode = 3 ∧ (left = 1 ∨ n.total ≤ c.n + 1) then
            match s1.flushComb key y ag.toNat with
            | some (s2, z) => s2.commit key (z.settle port)
            | none => s1.commit key y
          else s1.commit key (y.settle port)

/-! The events. -/

/-- STREAM_ACCESS (R233): a context issues the access of its next run, or takes its next element. It does so only for
the command at the head of its port, after the accesses that the command releases (R129, R239, R244). -/
def execStreamAccess (key : Nat) (ag : BitVec 3) (s : State) : Res State :=
  .next <| s.inSlot key fun t r x =>
    let c := x.ag ag.toNat
    match x.nest ag.toNat, x.entries c.port.toNat with
    | some n, .cmd a left base after :: _ =>
      if a ≠ ag ∨ c.bound = false ∨ c.stopped = true ∨ c.fault = true ∨ c.waiting = true ∨ c.idle = true ∨
          (after.any fun i => t.outstanding.contains i) = true then s
      else if isSink c.port.toNat then s.writeRun key t r x ag n left base
      else if left = 0 ∨ n.total ≤ c.n then s.setSlot key (x.settle c.port.toNat)
      else s.readRun key t r x ag n left base
    | _, _ => s

/-- DRAIN_MARKER (R246, R249): the marker at the head of a source port's scoreboard leaves as EOS, or as EOC. -/
def execDrainMarker (key : Nat) (port : BitVec 5) (s : State) : Res State :=
  .next <| s.inSlot key fun _ _ x0 =>
    let p := port.toNat
    let x := x0.settle p
    let out (m : Token) (r : List SbEntry) : State :=
      s.commit key ((x.setEntries p r).setPort p { x.port p with buf := (x.port p).buf ++ [m] })
    match x.entries p with
    | .drain id :: r => out ⟨BitVec.ofNat 32 (id + 1), .eos, true, false, 0⟩ r
    | .eoc :: r => out (marker .eoc 0) r
    | _ => s

/-- Generators with a binding of port p that has not received EOS. -/
def Slot.openSinks (x : Slot) (p : Nat) : List Nat :=
  (List.range 8).filter fun a => let c := x.ag a; c.bound && c.port.toNat = p && !c.idle

/-- Whether EOS is what a sink port meets next: at its head, or behind less than one element for an active command,
which ends there. -/
def Slot.eosNext (x : Slot) (p : Nat) : Bool :=
  let pre := (x.port p).buf.takeWhile Token.isData
  let after := (x.port p).buf.drop pre.length
  (after.head?.any fun m => m.kind = .eos) &&
    (pre = [] ||
      match x.entries p with
      | .cmd ag left _ _ :: _ =>
        (match x.nest ag.toNat with
        | some n => left != 0 && (x.ag ag.toNat).n < n.total && pre.length < tokensPer n.width
        | none => false)
      | _ => false)

/-- SINK_EOS (R245): EOS at a sink port ends its commands, writes the combiners of its bindings one after another, and
then, when every write has performed, completes the tags. Data tokens behind the head command that make less than one
element are dropped with it: the manual is silent on them. DESIGN CHOICE (notes/assumptions/35.md). -/
def execSinkEos (key : Nat) (port : BitVec 5) (s : State) : Res State :=
  .next <| s.inSlot key fun t _ x =>
    let p := port.toNat
    let ags := x.openSinks p
    if !isSink p || ags = [] || !x.eosNext p then s
    else
      match ags.find? fun a => (x.ag a).combSector != none with
      | some a =>
        (match s.flushComb key x a with
        | some (s1, y) => s1.commit key y
        | none => s)
      | none =>
        if ags.any fun a => s.streamAway (streamWho key t.ctxId a) then s
        else
          let rest := ((x.port p).buf.dropWhile Token.isData).drop 1
          let y := ags.foldl (fun z a => z.setAg a { z.ag a with idle := true })
            ((x.setEntries p []).setPort p { x.port p with buf := rest })
          let s1 := s.commit key y
          ags.foldl (fun z a => match (x.ag a).tag with | some g => z.completeAt key g | none => z) s1

end Sys2Proof.Machine
end

