-- ==== Sys2Proof/Machine/ArrayCore.lean ====
section
/-!
DEFINITION. The array at work (R97, R273 to R285): operand latches and the west gather, the sources of an order, firings
of MMA, MLT and MST, the output stage, the end of an arming, and EOS.
-/

namespace Sys2Proof.Machine

/-! Accumulators (R273). Element (m, n) of accN is kept at N*4096 + 64m + n. -/

/-- `n` entries from key `lo` on of a store whose earlier entries are gone. -/
def accFrom : SMap Word → Nat → Nat → List Word
  | _, _, 0 => []
  | [], _, n + 1 => 0 :: accFrom [] 0 n
  | (k, v) :: r, lo, n + 1 => if k = lo then v :: accFrom r (lo + 1) n else 0 :: accFrom ((k, v) :: r) (lo + 1) n

/-- The 4,096 elements of an accumulator, row by row. -/
def Slot.accList (x : Slot) (a : Nat) : List Word :=
  accFrom (x.acc.filter fun c => a * 4096 ≤ c.1) (a * 4096) 4096

/-- Entries of a list that are not zero, keyed from `lo`. -/
def accEntries : Nat → List Word → SMap Word
  | _, [] => []
  | lo, w :: r => if w = 0 then accEntries (lo + 1) r else (lo, w) :: accEntries (lo + 1) r

def Slot.setAcc (x : Slot) (a : Nat) (ws : List Word) : Slot :=
  { x with acc := (x.acc.filter fun c => c.1 < a * 4096) ++ accEntries (a * 4096) ws ++
      x.acc.filter fun c => (a + 1) * 4096 ≤ c.1 }

def Slot.accSt (x : Slot) (a : Nat) : AccState := SMap.get {} x.accState a
def Slot.setAccSt (x : Slot) (a : Nat) (v : AccState) : Slot := { x with accState := SMap.put {} x.accState a v }

/-- Open, zero and not poisoned. -/
def Slot.clearAcc (x : Slot) (a : Nat) : Slot := (x.setAcc a []).setAccSt a {}

/-! Latches (R97, R277). -/

def Slot.arrayCfg (x : Slot) : ArrayCfg := Sys2Proof.Machine.arrayCfg (x.word 5 0 0)
def Slot.latch (x : Slot) (north : Bool) : Latch := if north then x.latchB else x.latchA
def Slot.setLatch (x : Slot) (north : Bool) (l : Latch) : Slot :=
  if north then { x with latchB := l } else { x with latchA := l }

/-- The format of a latch; nothing while no array table is loaded. -/
def Slot.latchFmt (x : Slot) (north : Bool) : Option Nat :=
  if isAcfg (x.word 5 0 0) then some (if north then x.arrayCfg.bfmt else x.arrayCfg.afmt) else none

/-- Full panels of a latch, of which it keeps two. -/
def Latch.panels (l : Latch) : List Panel := l.full.filterMap id

/-- Moves a complete panel at the front of the bytes taken into a panel of its own, with the flags and illegal groups of
its decoding. -/
def Latch.assemble (l : Latch) (fmt : Nat) (p : Bool) : Latch × Dword × Nat :=
  match panelSize fmt l.fill with
  | none => (l, 0, 0)
  | some n =>
    if l.fill.length < n then (l, 0, 0)
    else
      let a := assemblePanel fmt (l.fill.take n)
      let rest := l.fill.drop n
      let r := panelRows fmt none a.1
      ({ l with fill := rest, fillP := rest != [] && p, full := l.full ++ [some { bytes := a.1, p := l.fillP }] },
        a.2 ||| r.2.2, r.2.1)

/-- A latch takes four bytes of a token. -/
def Latch.take (l : Latch) (fmt : Nat) (t : Token) : Latch × Dword × Nat :=
  { l with fill := l.fill ++ leBytes t.data.toNat 4, fillP := l.fillP || t.p }.assemble fmt t.p

/-- A latch completes a part of a panel with neutral padding (R277). -/
def Latch.pad (l : Latch) (fmt : Nat) : Latch × Dword × Nat :=
  let a := padPanel fmt l.fill
  let r := panelRows fmt (some a.2.2) a.1
  ({ l with fill := [], fillP := false, full := l.full ++ [some ⟨a.1, l.fillP, some a.2.2⟩] }, a.2.1 ||| r.2.2, r.2.1)

/-! Sources and outputs of the table (R276, R277, R282). Sources: 0 the A latch, 1 the B latch, 2 the gather, which fills
the A latch, 8 + q ingress q. -/

def orderSources (o : Order) : List Nat :=
  let src (c latch : Nat) : Nat := if c = 0 then latch else if c = 1 then 2 else c
  match o.op with
  | .mma => [src o.asrc 0, src o.bsrc 1]
  | .mlt => [src o.asrc 0]
  | .mst => []

def Slot.tableSources (x : Slot) : List Nat := (x.orders.flatMap fun c => orderSources c.2).dedup
def Slot.tableOutputs (x : Slot) : List Nat := (x.orders.filterMap fun c => if c.2.out = 0 then none else some c.2.out).dedup

/-- Whether EOS has arrived at a source and has not been answered. -/
def Slot.sourceEos (x : Slot) (src : Nat) : Bool :=
  if 8 ≤ src then (x.queue (src - 8)).arrayEos != 0
  else let l := x.latch (src = 1); l.eos != 0 || l.full.any Option.isNone

/-- Full slots of an ingress before its next EOS. -/
def Queue.fullSlots (e : Queue) : List Group := (e.slots.takeWhile Option.isSome).filterMap id

/-- Groups whose flits may feed the array before their tags are checked (R134): those behind the full slots that it has
not taken, while none is to be replayed and no EOS stands among the slots. -/
def Queue.unchecked (e : Queue) : List Group :=
  if e.replay || e.slots.any Option.isNone then []
  else ((e.arriving.takeWhile Option.isSome).filterMap id).filter fun g => !g.taken

/-- Panels that stand at a source before its next EOS, or all of them; of a queue with its unchecked groups if `early`. -/
def Slot.sourcePanels (x : Slot) (src : Nat) (past early : Bool) : List Panel :=
  if 8 ≤ src then
    let q := x.queue (src - 8)
    if q.taker = .none ∧ (past || q.arrayEos = 0) = true then
      (q.fullSlots ++ if early then q.unchecked else []).map fun h => { bytes := h.bytes, p := h.poison }
    else []
  else
    let l := x.latch (src = 1)
    if past then l.panels else (l.full.takeWhile Option.isSome).filterMap id

/-- Takes `k` panels off the front of a latch's list; EOS that stand between them are passed. -/
def dropPanels : Nat → List (Option Panel) → Nat × List (Option Panel)
  | 0, l => (0, l)
  | _ + 1, [] => (0, [])
  | k + 1, some _ :: r => dropPanels k r
  | k + 1, none :: r => let d := dropPanels (k + 1) r; (d.1 + 1, d.2)

/-- Marks the first `k` groups that the array has not taken before their check. -/
def markTaken : Nat → List (Option Group) → List (Option Group)
  | 0, l => l
  | _ + 1, [] => []
  | k + 1, some g :: r => if g.taken then some g :: markTaken (k + 1) r else some { g with taken := true } :: markTaken k r
  | k + 1, none :: r => none :: markTaken (k + 1) r

def Slot.consume (x : Slot) (src k : Nat) : Slot :=
  if 8 ≤ src then
    let q := x.queue (src - 8)
    let n := q.fullSlots.length
    x.setQueue (src - 8) { q with slots := q.slots.drop (min k n), arriving := markTaken (k - n) q.arriving }
  else
    let l := x.latch (src = 1)
    let d := dropPanels k l.full
    x.setLatch (src = 1) { l with full := d.2, eos := l.eos + d.1 }

/-- The unchecked groups among the next `k` panels of a source: endpoint and number. -/
def Slot.earlyFeed (x : Slot) (src k : Nat) : List (Nat × Nat) :=
  if 8 ≤ src then
    let q := x.queue (src - 8)
    (q.unchecked.take (k - q.fullSlots.length)).map fun g => (src - 8, g.seq)
  else []

/-- Removes the first EOS of a list. -/
def dropEos : List (Option Panel) → List (Option Panel)
  | [] => []
  | none :: r => r
  | some p :: r => some p :: dropEos r

/-- One EOS of a source has been answered. -/
def Slot.answerEos (x : Slot) (src : Nat) : Slot :=
  if 8 ≤ src then
    let q := x.queue (src - 8)
    x.setQueue (src - 8) { q with arrayEos := q.arrayEos - 1 }
  else
    let l := x.latch (src = 1)
    x.setLatch (src = 1) (if l.eos != 0 then { l with eos := l.eos - 1 } else { l with full := dropEos l.full })

/-- Panels that an order takes of A and of B in a firing (R274). -/
def panelsNeeded (c : ArrayCfg) (o : Order) : Nat × Nat :=
  match o.op with
  | .mma =>
    let k := max (kPanel c.afmt) (kPanel c.bfmt)
    (k / kPanel c.afmt, k / kPanel c.bfmt)
  | .mlt => (1, 0)
  | .mst => (0, 0)

/-! Armings (R284, R285). -/

def Slot.armOrder (x : Slot) (a : Arming) : Option Order := arrayOrder (x.word 5 0 a.idx.toNat)

/-- The arming of an index that has not ended. -/
def Slot.armed (x : Slot) (i : BitVec 3) : Option Arming := x.arms.find? fun a => a.idx = i && !a.ended

/-- Whether an armed order names accumulator n. -/
def Slot.accArmed (x : Slot) (n : Nat) : Bool :=
  x.arms.any fun a => !a.ended && match x.armOrder a with | some o => o.acc = n | none => false

/-- An earlier arming with the same OP and ACC has firings to come. -/
def Slot.overtakes (x : Slot) (a : Arming) (o : Order) : Bool :=
  (x.arms.takeWhile fun b => b != a).any fun b =>
    !b.ended && match x.armOrder b with | some p => p.op = o.op && p.acc = o.acc | none => false

/-- Whether the next firing of the arming is its last, and whether it emits (R278). -/
def Arming.last (a : Arming) : Bool := a.left = some 1
def firingEmits (a : Arming) (o : Order) : Bool :=
  match o.op with
  | .mma => o.out != 0 && ((a.last && o.fin) || o.each)
  | .mst => true
  | .mlt => false

/-- Room at an output: whatever the array emitted before has been taken. -/
def Slot.outRoom (x : Slot) (out : Nat) : Bool := SMap.get [] x.outs out = []

/-- The panels of a firing, A before B, when they are there, and the slot without the A panels. -/
def Slot.firingPanels (x : Slot) (o : Order) (past early : Bool) : Option (List Panel × List Panel) :=
  let need := panelsNeeded x.arrayCfg o
  let srcs := orderSources o
  match srcs with
  | [] => some ([], [])
  | sa :: rest =>
    let pa := x.sourcePanels sa past early
    let pb := match rest with
      | sb :: _ => (x.consume sa need.1).sourcePanels sb past early
      | [] => []
    if need.1 ≤ pa.length ∧ need.2 ≤ pb.length then some (pa.take need.1, pb.take need.2) else none

/-- An armed order that can fire (R278 to R280). A firing that emits, or that keeps its B panels, takes checked groups
alone, and an accumulator is emitted once every group that fed it has been checked (R134).
DESIGN CHOICE (notes/assumptions/84.md). An MST of a table without sources that is armed until EOS ends with no firing (R282). -/
def Slot.fireable (x : Slot) (i : BitVec 3) : Option (Arming × Order × List Panel × List Panel) :=
  match x.armed i with
  | none => none
  | some a =>
    match x.armOrder a with
    | none => none
    | some o =>
      if a.left ≠ some 0 ∧ ¬ (a.left = none ∧ o.op = .mst ∧ x.tableSources = []) ∧ x.overtakes a o = false ∧ (x.accSt o.acc).held = decide (o.op = .mst) ∧
          (firingEmits a o = false ∨ (x.outRoom o.out = true ∧ (x.accSt o.acc).fed = [])) then
        (x.firingPanels o a.left.isSome (!o.bhold && !firingEmits a o)).map fun p => (a, o, p.1, p.2)
      else none

/-- The order that the array takes next: it scans from the index of its tctl.start (R285). -/
def Slot.nextOrder (x : Slot) : Option (Arming × Order × List Panel × List Panel) :=
  (List.range 8).findSome? fun k => x.fireable ((x.engine 12).idx + BitVec.ofNat 3 k)

/-! The output stage (R279, R264). -/

/-- The bytes of one element, with flags. -/
def outElement (c : ArrayCfg) (wid : Nat) (mode : Rmode) (v : Word) : List Byte × Dword :=
  if wid = 1 then (leBytes v.toNat 1, 0)
  else if wid = 2 then (leBytes v.toNat 2, 0)
  else if wid = 3 ∨ c.ofmt = 0 then (leBytes v.toNat 4, 0)
  else let r := roundFmt (fp32.value v.toNat) (if c.ofmt = 1 then bf16 else fp16) mode c.osat; (leBytes r.1 2, r.2)

/-- Emits an accumulator as the r-th output of an arming, and leaves it open and zero. -/
def Slot.emitAcc (x : Slot) (a r out wid : Nat) : Slot × Dword :=
  let c := x.arrayCfg
  let key := (x.engine 12).key
  let tensor := BitVec.ofNat 16 (x.asr 0)
  let step := BitVec.ofNat 16 (x.asr 1)
  let ws := x.accList a
  let els := ((List.range 4096).zip ws).map fun e =>
    outElement c wid (Rmode.of c.ornd (srDraw key tensor step (BitVec.ofNat 32 (4096 * r + e.1)))) e.2
  let bytes := els.flatMap fun e => e.1
  let toks := dataTokens (bytes.length / 4) bytes (x.accSt a).p
  let y := x.clearAcc a
  ({ y with outs := if out = 0 then y.outs else SMap.put [] y.outs out (SMap.get [] y.outs out ++ toks) },
    els.foldl (fun (f : Dword) e => f ||| e.2) 0#64)

/-! Firings. -/

/-- Elements of two row lists joined row by row. -/
def joinRows (l : List (List (List BlockRow))) : List (List BlockRow) :=
  match l with
  | [] => []
  | [r] => r
  | r :: rest => (r.zip (joinRows rest)).map fun c => c.1 ++ c.2

/-- Rows of the panels of a firing, in order. -/
def panelsRows (fmt : Nat) (ps : List Panel) : List (List BlockRow) :=
  joinRows (ps.map fun p => (panelRows fmt p.came p.bytes).1)

/-- The flags of decoding panels in a queue slot, which no latch has decoded (R68). -/
def queueFlags (src fmt : Nat) (ps : List Panel) : Dword :=
  if 8 ≤ src then ps.foldl (fun (f : Dword) p => f ||| (panelRows fmt p.came p.bytes).2.2) 0#64 else 0

/-- One accumulate call for every element (R278, R86). -/
def mmaElements (c : ArrayCfg) (acc : List Word) (ra rb : List (List BlockRow)) : List Word × Dword :=
  let rows := (List.range 64).zip ra
  let out := rows.map fun m =>
    (((acc.drop (64 * m.1)).take 64).zip rb).map fun e => accumulate (c.afmt = 0x15) c.accm e.1 m.2 e.2
  (out.flatMap fun r => r.map fun e => e.1,
    out.foldl (fun (f : Dword) r => r.foldl (fun (g : Dword) e => g ||| e.2) f) 0#64)

/-- The arming after a firing. -/
def Arming.fire (a : Arming) (emitted : Bool) : Arming :=
  { a with
    left := a.left.map fun n => n - 1
    fired := a.fired + 1
    outputs := if emitted then a.outputs + 1 else a.outputs
    ended := a.left = some 1 }

def Slot.setArming (x : Slot) (a b : Arming) : Slot :=
  { x with arms := x.arms.map fun c => if c = a then b else c }

/-- An MMA firing (R278). -/
def Slot.mmaFire (x : Slot) (a : Arming) (o : Order) (pa pb : List Panel) : Slot × Dword :=
  let c := x.arrayCfg
  let srcs := orderSources o
  let need := panelsNeeded c o
  let clear := (a.fired = 0 && o.clr) || o.each
  let x0 := if clear then x.clearAcc o.acc else x
  let r := mmaElements c (x0.accList o.acc) (panelsRows c.afmt pa) (panelsRows c.bfmt pb)
  let st := x0.accSt o.acc
  let bad := (pa ++ pb).any Panel.p
  let done := (a.last && o.fin) || o.each
  let early := x.earlyFeed (srcs.getD 0 0) need.1 ++ (x.consume (srcs.getD 0 0) need.1).earlyFeed (srcs.getD 1 1) need.2
  let x1 := (x0.setAcc o.acc r.1).setAccSt o.acc { p := st.p || bad, held := done, fed := st.fed ++ early }
  let x2 := x1.consume (srcs.getD 0 0) need.1
  let x3 := if o.bhold && !a.last then x2 else x2.consume (srcs.getD 1 1) need.2
  let x4 := x3.setArming a (a.fire (firingEmits a o))
  let y := if firingEmits a o then x4.emitAcc o.acc a.outputs o.out 0 else (x4, 0)
  (y.1, r.2 ||| y.2 ||| queueFlags (srcs.getD 0 0) c.afmt pa ||| queueFlags (srcs.getD 1 1) c.bfmt pb)

/-- An MLT firing (R280). -/
def Slot.mltFire (x : Slot) (a : Arming) (o : Order) (pa : List Panel) : Slot :=
  let f := x.arrayCfg.afmt
  let k := kPanel f
  let codes := unpackBytes (fmtBits f) ((pa.headD { bytes := [], p := false }).bytes)
  let old := x.accList o.acc
  -- clr holds the TR bit: element (i, j) comes from A[m][k] with (i, j) = (m, KOFF + k), or (KOFF + k, m)
  let new := ((List.range 4096).zip old).map fun e =>
    let i := e.1 / 64
    let j := e.1 % 64
    let m := if o.clr then j else i
    let q := if o.clr then i else j
    if o.koff ≤ q ∧ q < o.koff + k then BitVec.ofNat 32 (codes.getD (m * k + (q - o.koff)) 0) else e.2
  let st := x.accSt o.acc
  let src := (orderSources o).getD 0 0
  let x1 := (x.setAcc o.acc new).setAccSt o.acc
    { p := st.p || pa.any Panel.p, held := o.fin, fed := st.fed ++ x.earlyFeed src 1 }
  (x1.consume src 1).setArming a (a.fire false)

/-- An MST firing (R279). -/
def Slot.mstFire (x : Slot) (a : Arming) (o : Order) : Slot × Dword :=
  (x.setArming a (a.fire true)).emitAcc o.acc a.outputs o.out o.wid

/-- Array cycles of a firing (R274): 192 for BF16x3, 32 for a panel of 6-bit elements, 64 else, for each panel. -/
def panelCycles (f : Nat) : Nat := if f = 0x15 then 192 else if fmtBits f = 6 then 32 else 64
def firingCycles (c : ArrayCfg) (o : Order) : Nat :=
  match o.op with
  | .mma => let n := panelsNeeded c o; max (n.1 * panelCycles c.afmt) (n.2 * panelCycles c.bfmt)
  | _ => 64

/-- A firing of the order at index i, if it is an `op` and the array's turn. -/
def State.fireOrder (s : State) (key : Nat) (i : BitVec 3) (op : OrderOp) : State :=
  s.inEngine key 12 fun _ _ x =>
    match x.nextOrder with
    | some (a, o, pa, pb) =>
      if a.idx = i ∧ o.op = op then
        let r := match op with
          | .mma => x.mmaFire a o pa pb
          | .mlt => (x.mltFire a o pa, 0)
          | .mst => x.mstFire a o
        ((s.chargeAt key 12 (firingCycles x.arrayCfg o)).raiseAt key r.2 0).commit key r.1
      else s
    | none => s

/-- MMA_FIRE (R278). -/
def execMmaFire (key : Nat) (i : BitVec 3) (s : State) : Res State := .next (s.fireOrder key i .mma)
/-- MLT_FIRE (R280). -/
def execMltFire (key : Nat) (i : BitVec 3) (s : State) : Res State := .next (s.fireOrder key i .mlt)
/-- MST_FIRE (R279). -/
def execMstFire (key : Nat) (i : BitVec 3) (s : State) : Res State := .next (s.fireOrder key i .mst)

/-! The end of an arming, and EOS (R278, R282). -/

/-- Whether EOS is what an arming with count 0 meets next at its A source: the panels ahead of it do not make a firing. -/
def Slot.eosAhead (x : Slot) (src need : Nat) : Bool :=
  if 8 ≤ src then (x.queue (src - 8)).arrayEos != 0
  else
    let l := x.latch (src = 1)
    (l.full.takeWhile Option.isSome).length < need && (l.full.dropWhile Option.isSome) != []

/-- Whether an arming with count 0 ends now. -/
def Slot.endsNow (x : Slot) (a : Arming) (o : Order) : Bool :=
  a.left = none && !a.ended &&
    match orderSources o with
    | src :: _ => x.eosAhead src (panelsNeeded x.arrayCfg o).1
    | [] => x.tableSources.all x.sourceEos

/-- ARMING_END (R278, R282): the arming ends; an MMA that has fired is completed as a last firing would have done. -/
def execArmingEnd (key : Nat) (i : BitVec 3) (s : State) : Res State :=
  .next <| s.inEngine key 12 fun _ _ x =>
    match x.armed i with
    | none => s
    | some a =>
      match x.armOrder a with
      | none => s
      | some o =>
        if !x.endsNow a o then s
        else
          let fin := o.op = .mma && o.fin && !o.each && decide (0 < a.fired)
          let emits := fin && o.out != 0
          if emits && (!x.outRoom o.out || (x.accSt o.acc).fed != []) then s
          else
            let x1 := if fin then x.setAccSt o.acc { x.accSt o.acc with held := true } else x
            let x2 := if o.op = .mma ∧ o.bhold = true ∧ 0 < a.fired then
                x1.consume ((orderSources o).getD 1 1) (panelsNeeded x.arrayCfg o).2
              else x1
            let x3 := x2.setArming a { a with ended := true, outputs := if emits then a.outputs + 1 else a.outputs }
            let r := if emits then x3.emitAcc o.acc a.outputs o.out 0 else (x3, 0)
            (s.raiseAt key r.2 0).commit key r.1

/-- ARRAY_EOS (R282): EOS goes to output `out` once EOS has arrived at every source that the table names and no armed
order names the output. When every output has it, one EOS of each source has been answered; a table that names no source
sends it once for each tctl.start. -/
def execArrayEos (key : Nat) (out : BitVec 4) (s : State) : Res State :=
  .next <| s.inEngine key 12 fun _ _ x =>
    let srcs := x.tableSources
    let outs := x.tableOutputs
    let n := out.toNat
    let busy := x.arms.any fun a => !a.ended && match x.armOrder a with | some o => o.out = n | none => false
    if !(srcs.all x.sourceEos) then s
    else if outs = [] then
      (if srcs = [] then s else s.commit key (srcs.foldl (fun y c => y.answerEos c) x))
    else if !outs.contains n || x.arrayEosSent.getLsbD n || busy then s
    else
      let sent := x.arrayEosSent ||| (1#16 <<< n)
      let x1 := { x with outs := SMap.put [] x.outs n (SMap.get [] x.outs n ++ [marker .eos 0]) }
      let x2 := if srcs != [] && outs.all fun c => sent.getLsbD c then
          srcs.foldl (fun y c => y.answerEos c) { x1 with arrayEosSent := 0 }
        else { x1 with arrayEosSent := sent }
      s.commit key x2

/-! The west gather (R277). -/

/-- A fault of the gather read whose offset heads the gather unit. The context goes back to the iteration that delivered
the offset; the offsets behind it are discarded and delivered again. A filter table's output is kept, since none of it
is delivered twice (R235). -/
def State.gatherFault (s : State) (key : Nat) (x : Slot) (ag : BitVec 3) (n : Nest) (cause : Cause) (arg scope : Nat)
    (ea group : Dword) : State :=
  let c := x.ag ag.toNat
  if n.xf = 0 then
    let used := c.n * tokensPer n.width - x.gxPending
    let v := used / tokensPer n.width
    let y := x.goBack ag v (used % tokensPer n.width)
    s.streamFault key
      { y.setPort 0x18 { y.port 0x18 with buf := (y.port 0x18).buf.filter fun t => !t.isData } with gather := [] }
      ag n cause arg scope ea group v
  else s.streamFault key x ag n cause arg scope ea group ((c.chunk - 1) * xfUnit n.xf)

/-- GATHER_READ (R277): the gather unit reads one row, for the generator whose binding heads port gx. -/
def execGatherRead (key : Nat) (s : State) : Res State :=
  .next <| s.inSlot key fun t r x =>
    match x.gather, x.entries 0x18, x.latchFmt false with
    | off :: rest, .cmd ag _ _ _ :: _, some fmt =>
      let l := x.latchA
      (match x.nest ag.toNat with
      | none => s
      | some n =>
        if (x.ag ag.toNat).fault ∨ 2 ≤ l.panels.length then s
        else
          let va : Dword := 0xF000000000000000#64 + zextD off
          match reach s r t.super t.part t.rx t.ry va 64 64 .read with
          | .busy s1 => s1
          | .fault cause arg s1 => s1.gatherFault key x ag n cause arg (homeGuess r t va) va 0
          | .at p s1 =>
            if s1.sector (sectorOf p.addr) = .poisoned then
              s1.gatherFault key x ag n .poison 0 p.home va (s1.poisonGroup p.addr)
            else
              let y := { l with fill := l.fill ++ s1.bytes p.addr 64 }.assemble fmt false
              ((s1.chargeAt key 14 1).raiseAt key y.2.1 y.2.2).commit key
                ({ x with gather := rest, latchA := y.1 }.settle 0x18))
    | _, _, _ => s

/-- What the next step at a latch is when a part of a panel stands in it: EOS behind the tokens taken. -/
def Slot.eosAtLatch (x : Slot) (north : Bool) : Bool :=
  (match x.takeOut (if north then 1 else 0) with
  | some (m, _) => m.kind = .eos
  | none => false) ||
  (!north && x.gather = [] && (x.port 0x18).buf.head?.any fun m => m.kind = .eos)

/-- LATCH_EOS_PADDING (R277). -/
def execLatchEosPadding (key : Nat) (north : Bool) (s : State) : Res State :=
  .next <| s.inSlot key fun _ _ x =>
    let l := x.latch north
    match x.latchFmt north with
    | none => s
    | some fmt =>
      if l.fill = [] ∨ 2 ≤ l.panels.length ∨ x.eosAtLatch north = false then s
      else
        let y := l.pad fmt
        (s.raiseAt key y.2.1 y.2.2).commit key (x.setLatch north y.1)

end Sys2Proof.Machine
end

