-- ==== Sys2Proof/Machine/StreamCtl.lean ====
section
/-!
DEFINITION. Instructions of a thread on its slot's streams and engines (R237 to R246): binding, table control, stream
commands and drains.
-/

namespace Sys2Proof.Machine

/-- A binding trap that names a generator (R232, R350). -/
def bindingTrap (s : State) (ag : Nat) : Res State := terminal s .binding ag

/-- A malformed-configuration trap that names a word by kind, instance and index (R350). -/
def malformedTrap (s : State) (kind unit idx : Nat) : Res State := terminal s .malformed (malformedArg (kind, unit, idx))

/-- The slot of the issuing thread. -/
def State.curSlot (s : State) : Slot := s.slot s.cur

/-- The issuing thread's instruction of class 9 has completed, leaving its slot as `x`. -/
def retireSlot (s : State) (t : Thread) (x : Slot) : Res State := retire (s.setSlot s.cur x) t 9 4

/-! Binding (R240). -/

/-- Whether BIND accepts a program on a port: it has the shape of R232, and its mode agrees with the direction. -/
def nestFits (n : Option Nest) (port : Nat) : Bool :=
  match n with
  | some n => if isSink port then 3 ≤ n.mode else n.mode ≤ 2
  | none => false

/-- bind (R240). -/
def execBind (ag : BitVec 3) (port prog : BitVec 5) (tv : BitVec 1) (g : BitVec 6) (s : State) : Res State :=
  onThread s fun t =>
    let x := s.curSlot
    if !x.agIdle ag then stall s t
    else if !nestFits (nestAt x.words ag.toNat prog.toNat) port.toNat then bindingTrap s ag.toNat
    else if tv = 1 ∧ t.tagFull g = true then stall s t
    else
      let c : AgCtx := { bound := true, port := port, prog := prog, tag := if tv = 1 then some g else none }
      retireSlot s (if tv = 1 then t.countTag g else t) (x.setAg ag.toNat c)

/-- unbind (R240). -/
def execUnbind (ag : BitVec 3) (s : State) : Res State :=
  onThread s fun t =>
    let x := s.curSlot
    if !x.agIdle ag then hold s t 9 else retireSlot s t (x.setAg ag.toNat {})

/-! Table control (R241, R242). -/

/-- A generator's context starts again; what was read and has not reached the port is withdrawn. -/
def AgCtx.restart (c : AgCtx) : AgCtx :=
  { c with n := 0, done := 0, chunk := 0, partialBytes := [], partialPoison := false, taken := [],
           waiting := false, skip := 0, sent := 0, stopped := false }

/-- Reads of a context that are on the fabric are withdrawn. DEDUCED (notes/assumptions/33.md). -/
def State.withdraw (s : State) (key : Nat) (ctx : Dword) (ag : BitVec 3) : State :=
  { s with flits := s.flits.filter fun v => match v.flit with
      | .pooledReadReq k c a _ _ _ _ => !(k = key && c = ctx && a = ag)
      | .pooledReply k c a _ _ _ _ _ _ _ => !(k = key && c = ctx && a = ag)
      | _ => true }

/-- The first lane of an arc that has a KONST word at an index. -/
def Slot.konstLane (x : Slot) (a idx : Nat) : Option Nat := (arcLanes a).find? fun l => isKonst (x.word 1 l idx)

/-- An engine starts with its pointers at `idx` and the key of stochastic rounding captured (R80, R241, R265). -/
def Slot.startEngine (x : Slot) (e : Nat) (idx : BitVec 3) (key : Dword) : Slot :=
  let x1 : Slot := { x with engines := SMap.put {} x.engines e { running := true, idx := idx, key := key } }
  if e = 12 then { x1 with arrayEosSent := 0 }
  else if e < 12 then
    (arcLanes (e - 8)).foldl (fun y l => y.setLane l { y.lane l with ptr := idx = 1, fresh := true }) x1
  else x1

/-- tctl.start (R241). -/
def execTctlStart (e : BitVec 4) (i : BitVec 3) (s : State) : Res State :=
  onThread s fun t =>
    let x := s.curSlot
    let n := e.toNat
    if n < 8 then
      if !(x.ag n).bound then bindingTrap s n
      else
        match s.flushComb s.cur x n with
        | none => hold s t 9
        | some (s1, y) =>
          match s1.thread s1.cur with
          | some t1 =>
            retireSlot (s1.withdraw s1.cur t1.ctxId (BitVec.ofNat 3 n)) t1 (y.setAg n (y.ag n).restart)
          | none => .next s1
    else
      match if n < 12 then x.konstLane (n - 8) i.toNat else none with
      | some l => malformedTrap s 1 l i.toNat
      | none => retireSlot s t (x.startEngine n i t.srSeed)

/-- Stops or runs an engine; an unbound context traps. -/
def setRunning (e : BitVec 4) (on : Bool) (s : State) : Res State :=
  onThread s fun t =>
    let x := s.curSlot
    let n := e.toNat
    if n < 8 then
      if (x.ag n).bound then retireSlot s t (x.setAg n { x.ag n with stopped := !on }) else bindingTrap s n
    else retireSlot s t { x with engines := SMap.put {} x.engines n { x.engine n with running := on } }

/-- tctl.stop (R241). -/
def execTctlStop (e : BitVec 4) (s : State) : Res State := setRunning e false s

/-- tctl.resume (R241). A faulted context stays at its fault (R235). -/
def execTctlResume (e : BitVec 4) (s : State) : Res State := setRunning e true s

/-- tctl.base (R241). -/
def execTctlBase (ag : BitVec 3) (r : Reg) (s : State) : Res State :=
  onThread s fun t =>
    let x := s.curSlot
    if (x.ag ag.toNat).bound then retireSlot s t (x.setAg ag.toNat { x.ag ag.toNat with base := t.readG r })
    else bindingTrap s ag.toNat

/-- The status word of a generator's context (R242); `away` says that a write of it is still on the fabric. -/
def Slot.agStat (x : Slot) (ag : BitVec 3) (away : Bool) : Dword :=
  let n := ag.toNat
  let c := x.ag n
  if !c.bound then 0
  else
    let state := if c.fault then 3 else if x.named c.port.toNat ag then 2 else 1
    let all := x.visits n ≤ c.n && !away && !c.waiting && c.combSector = none && (c.port != 0x18 || x.gxPending = 0)
    let chunk := match x.nest n with
      | some k => if k.xf = 0 then c.done * k.width / 4096 else c.chunk
      | none => c.chunk
    BitVec.ofNat 64 (state + (if c.stopped then 4 else 0) + (if all then 8 else 0) + c.port.toNat * 2 ^ 8 +
      chunk % 2 ^ 32 * 2 ^ 16)

/-- EMPTY and PTR of another engine. -/
def Slot.engineEmpty (x : Slot) (e : Nat) : Bool :=
  if e < 12 then x.arcEmpty (e - 8) else if e = 12 then x.arrayEmpty else x.routerEmpty

def Slot.enginePtr (x : Slot) (e : Nat) : Nat :=
  if e < 12 then (if (x.lane (64 * (e - 8))).ptr then 1 else 0) else (x.engine e).idx.toNat

/-- The status word of another engine (R242). -/
def Slot.engineStat (x : Slot) (e : Nat) : Dword :=
  BitVec.ofNat 64 ((if (x.engine e).running then 1 else 0) + (if x.engineEmpty e then 2 else 0) + x.enginePtr e * 4)

/-- tctl.stat (R242). -/
def execTctlStat (e : BitVec 4) (r : Reg) (s : State) : Res State :=
  onThread s fun t =>
    let x := s.curSlot
    let away := s.streamAway (streamWho s.cur t.ctxId e.toNat)
    retire s (t.writeG r (if e.toNat < 8 then x.agStat (e.setWidth 3) away else x.engineStat e.toNat)) 9 4

/-! Stream commands (R243, R244). -/

/-- Whether a port's scoreboard takes another entry (R239). -/
def Slot.sbRoom (x : Slot) (p : Nat) : Bool := (x.entries p).length < 16

/-- A count register as a command's count (R243). -/
def commandCount (v : Dword) : Nat := if v = 0 ∨ 2 ^ 32 ≤ v.toNat then restOfNest else v.toNat

/-- Accesses of a thread that a stream command goes behind: all that have not performed but the stores that its combining
buffer still holds (R129). -/
def Thread.openBefore (t : Thread) : List Nat := t.outstanding.filter fun i => t.cb.all fun e => e.id != i

/-- The combining buffer at a stream command: once one of the events of R136 has occurred, every entry is sent, and the
thread waits until each has performed; before that the command leaves the buffer alone (R129).
DEDUCED (notes/assumptions/95.md). -/
def strmDrain (s : State) (key : Nat) (t : Thread) : State × Thread × Bool :=
  if t.synced then
    let x := drainCb s key t
    (x.1, x.2, x.2.cb != [] || x.2.fstores.any fun i => x.2.outstanding.contains i && x.2.pool.all fun a => a.id != i)
  else (s, t, false)

/-- STRM with a count (R243, R244, R129, R136). -/
def strmOp (ag : BitVec 3) (count : Thread → Nat) (s : State) : Res State :=
  onThread s fun t =>
    let c := s.curSlot.ag ag.toNat
    let p := c.port.toNat
    if !c.bound then bindingTrap s ag.toNat
    else if !s.curSlot.sbRoom p then hold s t 9
    else
      let y := strmDrain s s.cur t
      if y.2.2 then hold y.1 y.2.1 9
      else
        let x := y.1.curSlot
        retireSlot y.1 y.2.1
          ((x.setEntries p (x.entries p ++ [.cmd ag (count t) c.base y.2.1.openBefore])).settle p)

/-- strm (R243). -/
def execStrm (ag : BitVec 3) (r : Reg) (s : State) : Res State := strmOp ag (fun t => commandCount (t.readG r)) s

/-- strm.i (R243). -/
def execStrmI (ag : BitVec 3) (n : BitVec 16) (s : State) : Res State := strmOp ag (fun _ => commandCount (zextD n)) s

/-! Drains (R246). -/

/-- Appends a drain's marker to each of some source ports, counting against a tag. -/
def drainOp (ports : List Nat) (g : BitVec 6) (whole : Bool) (s : State) : Res State :=
  onThread s fun t =>
    let x := s.curSlot
    if t.tagFull g then stall s t
    else if !(ports.all x.sbRoom) then hold s t 9
    else
      let x1 := ports.foldl (fun y p => y.setEntries p (y.entries p ++ [.drain x.nextDrain])) x
      retireSlot s (t.countTag g)
        { x1 with nextDrain := x.nextDrain + 1, drains := x.drains ++ [⟨x.nextDrain, g, ports.length, whole⟩] }

/-- drain (R246). -/
def execDrain (port g : BitVec 6) (s : State) : Res State := drainOp [port.toNat] g false s

/-- drain.slot (R246). -/
def execDrainSlot (g : BitVec 6) (s : State) : Res State := drainOp sourcePorts g true s

end Sys2Proof.Machine
end

