-- ==== Sys2Proof/Machine/ArrayCtl.lean ====
section
/-!
DEFINITION. Instructions of a thread on the array (R284 to R286): arming, the array fence, and accumulators.
-/

namespace Sys2Proof.Machine

/-- marm (R284). -/
def execMarm (v : BitVec 1) (i : BitVec 3) (g : BitVec 6) (n : BitVec 10) (s : State) : Res State :=
  onThread s fun t =>
    let x := s.curSlot
    match arrayOrder (x.word 5 0 i.toNat) with
    | none => malformedTrap s 5 0 i.toNat
    | some _ =>
      if (x.armed i).isSome then stall s t
      else if v = 1 ∧ t.tagFull g = true then stall s t
      else
        let a : Arming :=
          { idx := i, left := if n = 0 then none else some n.toNat, fired := 0,
            tag := if v = 1 then some g else none, outputs := 0, ended := false }
        retire (s.setSlot s.cur { x with arms := x.arms ++ [a] }) (if v = 1 then t.countTag g else t) 10 4

/-- The accumulators of a mask. -/
def maskedAccs (m : BitVec 4) : List Nat := (List.range 4).filter fun n => m.getLsbD n

/-- Waits until no armed order names an accumulator of the mask, and then changes the slot. -/
def whenUnarmed (m : BitVec 4) (s : State) (f : Slot → Slot) : Res State :=
  onThread s fun t =>
    let x := s.curSlot
    if (maskedAccs m).any fun n => x.accArmed n then hold s t 10
    else retire (s.setSlot s.cur (f x)) t 10 4

/-- mfence (R285). -/
def execMfence (m : BitVec 4) (s : State) : Res State := whenUnarmed m s id

/-- acc.clr (R286). -/
def execAccClr (m : BitVec 4) (s : State) : Res State :=
  whenUnarmed m s fun x => (maskedAccs m).foldl (fun y n => y.clearAcc n) x

/-- acc.hold (R286). -/
def execAccHold (m : BitVec 4) (s : State) : Res State :=
  whenUnarmed m s fun x => (maskedAccs m).foldl (fun y n => y.setAccSt n { y.accSt n with held := true }) x

/-- One bit for each accumulator. -/
def accBits (f : Nat → Bool) : Nat :=
  (List.range 4).foldl (fun (a : Nat) n => a + if f n then 2 ^ n else 0) 0

/-- acc.stat (R286). -/
def execAccStat (r : Reg) (s : State) : Res State :=
  onThread s fun t =>
    let x := s.curSlot
    let v := accBits (fun n => (x.accSt n).held) + accBits (fun n => (x.accSt n).p) * 2 ^ 4 +
      accBits (fun n => x.accArmed n) * 2 ^ 8
    retire s (t.writeG r (BitVec.ofNat 64 v)) 10 4

/-- acc.rd (R286). -/
def execAccRd (r : Reg) (n : BitVec 2) (s : State) : Res State :=
  onThread s fun t =>
    let x := s.curSlot
    let v := t.readG r
    if x.accArmed n.toNat then hold s t 10
    else
      let w := SMap.get 0 x.acc (n.toNat * 4096 + (v.toNat / 256 % 64) * 64 + v.toNat % 64)
      retire s ((t.writeG r (zextD w)).raise (if (x.accSt n.toNat).p then poisonRd else 0)) 10 4

end Sys2Proof.Machine
end

