-- ==== Sys2Proof/Machine/Queues.lean ====
section
/-!
DEFINITION. Link queues (R107, R133, R134, R250 to R253, R352) and the buffers that accept an offered token (R258, R277,
R296).
-/

namespace Sys2Proof.Machine

/-! Endpoints. -/

/-- Groups among the entries of a FIFO. -/
def groupsIn (l : List (Option Group)) : Nat := (l.filter Option.isSome).length

def Queue.isEgress (e : Queue) : Bool := e.bound && !e.ingress
def Queue.isIngress (e : Queue) : Bool := e.bound && e.ingress

/-- The bytes packed count as one of the two replay slots (R107). -/
def Queue.egressRoom (e : Queue) : Bool := groupsIn e.packed + e.awaiting.length < 2

/-- Packs the bytes taken as a group, padded with zeros to 4,096 (R252). -/
def Queue.pack (e : Queue) : Queue :=
  let g : Group :=
    { seq := e.seq, bytes := e.fill ++ List.replicate (4096 - e.fill.length) 0, poison := e.fillP,
      len := e.fill.length }
  { e with packed := e.packed ++ [some g], fill := [], fillP := false, seq := e.seq + 1 }

/-- An egress takes a data token; a group is packed when it holds 4 KiB. -/
def Queue.take (e : Queue) (t : Token) : Queue :=
  let e1 := { e with fill := e.fill ++ leBytes t.data.toNat 4, fillP := e.fillP || t.p }
  if 4096 ≤ e1.fill.length then e1.pack else e1

/-- Arrivals at an ingress move on: EOS at the head of the arrivals joins the slots, with the count of the last group. -/
def Queue.passMarkers (e : Queue) : List (Option Group) → Queue
  | none :: r =>
    ({ e with arriving := r, slots := e.slots ++ [none], eos := true, lastBytes := e.lastLen,
              lastLen := 0 } : Queue).passMarkers r
  | _ => e

/-- Whether the route of an egress endpoint carries its groups. -/
def State.queueRoute (s : State) (key q peerKey : Nat) : Bool :=
  keyDev key = keyDev peerKey || s.bindingUp (keyDev key) (keyDev peerKey) (bindingId key q)

/-- A group as it leaves on the fabric: QXF's transformation applies where the route enters it (R400). -/
def Queue.onWire (e : Queue) (g : Group) : Group :=
  if e.xf = 8 ∨ e.xf = 9 then { g with bytes := (expandUnit e.xf.toNat e.sat g.bytes).1 } else g

/-- Changes one endpoint of a slot. -/
def State.setEnd (s : State) (key q : Nat) (e : Queue) : State := s.setSlot key ((s.slot key).setQueue q e)

/-- The flits of a group of egress q, or of the EOS behind its groups (R396, R401). -/
def Queue.flits (e : Queue) (key q : Nat) (ctx : Dword) (item : Option Group) : List Flit :=
  let bs := match item with | some g => g.bytes | none => []
  let n := match item with | some _ => groupFlits e.xf.toNat bs | none => 1
  (List.range n).map fun i => .bound
    { key := key, q := q, ctx := ctx, peer := e.peerKey, peerQ := e.peerQ.toNat, item := item, index := i, count := n
      xf := e.xf.toNat, body := wireFlit e.xf.toNat bs i }

/-- What has come whole to an ingress joins its arrivals: a group that is sent again goes where it belongs. -/
def Queue.receive (e : Queue) (item : Option Group) : Queue :=
  match item with
  | some g => { e with arriving := if e.replay ∧ g.seq = e.groups then some g :: e.arriving else e.arriving ++ [some g] }
  | none => let l := e.arriving ++ [none]; ({ e with arriving := l } : Queue).passMarkers l

/-- A group or EOS of egress q leaves for the far end: within the device it is there at once, else its flits enter the fabric,
ahead of others if `front`, and are charged to their slot (R363, R396). -/
def State.sendItem (s : State) (key q : Nat) (e : Queue) (item : Option Group) (front : Bool) : State :=
  if keyDev key = keyDev e.peerKey then
    s.setEnd e.peerKey e.peerQ.toNat (((s.slot e.peerKey).queue e.peerQ.toNat).receive
      (item.map fun g => { g with first := g.seq }))
  else
    let ctx := match s.thread key with | some t => t.ctxId | none => 0
    let fs := (e.flits key q ctx (item.map e.onWire)).map fun f => Flight.of f none
    ({ s with flits := if front then fs ++ s.flits else s.flits ++ fs }).chargeAt key 15 (if item.isSome then fs.length else 0)

/-- EGRESS_GROUP_SEND (R252): the next group goes to the far end when the ingress has a free slot, or the EOS behind the
groups goes. -/
def execEgressGroupSend (key : Nat) (q : BitVec 3) (s : State) : Res State :=
  .next <| s.inSlot key fun _ _ x =>
    let n := q.toNat
    let e := x.queue n
    let far := (s.slot e.peerKey).queue e.peerQ.toNat
    if !e.isEgress || !s.queueRoute key n e.peerKey then s
    else
      match e.packed with
      | [] => s
      | some g :: r =>
        if far.dm1.toNat + 1 ≤ e.awaiting.length + groupsIn far.slots then s
        else
          (s.setEnd key n
            { e with packed := r, awaiting := e.awaiting ++ [g], lastLen := g.len, eos := false, lastBytes := 0 }).sendItem
              key n e (some g) false
      | none :: r =>
        (s.setEnd key n { e with packed := r, eos := true, lastBytes := e.lastLen, lastLen := 0 }).sendItem key n e none false

/-! What an egress takes from: port qe, the east lanes with QM set, and the array. -/

/-- The head of a feeder of egress q, and the slot without it. -/
def Slot.feed (x : Slot) (q : Nat) : Nat → Option (Token × Slot)
  | 0 =>
    match (x.port (8 + q)).buf with
    | t :: r => some (t, x.setPort (8 + q) { x.port (8 + q) with buf := r })
    | [] => none
  | 1 => x.takeOut (8 + q)
  | _ =>
    match SMap.get [] x.outs (8 + q) with
    | t :: r => some (t, { x with outs := SMap.put [] x.outs (8 + q) r })
    | [] => none

/-- EGRESS_EOS (R252): EOS at an egress packs the last group and stands behind it. An endpoint that is no egress has no
stream to end and drops it. -/
def execEgressEos (key : Nat) (q : BitVec 3) (s : State) : Res State :=
  .next <| s.inSlot key fun _ _ x =>
    let n := q.toNat
    match firstSome (fun f => (x.feed n f).bind fun c => if c.1.kind = .eos then some c else none) [0, 1, 2] with
    | none => s
    | some (m, y) =>
      let e := y.queue n
      if !e.isEgress then s.commit key (y.accepted m)
      else
        let e1 := if e.fill = [] then e else e.pack
        s.commit key ((y.setQueue n { e1 with packed := e1.packed ++ [none] }).accepted m)

/-- An egress takes a data token, or drops one that is not valid or an end-of-context marker (R298, R300). -/
def Slot.acceptEgress (x : Slot) (q : Nat) : Option Slot :=
  firstSome (fun f => (x.feed q f).bind fun c =>
    let e := c.2.queue q
    match c.1.kind with
    | .eos => none
    | .eoc => some c.2
    | .data =>
      if !e.isEgress then none
      else if !c.1.v then some c.2
      else if e.egressRoom then some (c.2.setQueue q (e.take c.1)) else none) [0, 1, 2]

/-! Integrity groups at the far end (R134, R352). -/

/-- Whether the ports of some sectors have free replay-table entries for them: each port has 512 (R352). -/
def State.replayRoom (s : State) (secs : List Nat) : Bool :=
  (secs.map s.portOf).dedup.all fun p =>
    (s.replays.filter fun e => s.portOf e.sector = p).length + (secs.filter fun k => s.portOf k = p).length ≤ 512

/-- A lane group of a binding is marked failed (R352). -/
def State.failBinding (s : State) (a b bid : Nat) : State :=
  match route a b with
  | (dev, dir) :: _ =>
    let d := s.device dev
    (match d.boundGroup dir bid with
    | some (p, g) => s.setGroup dev p g fun k => { k with state := .down }
    | none => s)
  | [] => s

/-- What the check of group `seq` of ingress q does to the accumulators that it fed: a failed one poisons them (R134,
R283). -/
def Slot.groupChecked (x : Slot) (q seq : Nat) (bad : Bool) : Slot :=
  { x with accState := x.accState.foldl (fun m c => SMap.put {} m c.1
      { c.2 with p := c.2.p || (bad && c.2.fed.contains (q, seq)), fed := c.2.fed.filter fun g => g != (q, seq) }) [] }

/-- Marks failed the pooled lane group by which a store leaves its device (R352). -/
def State.failPooledGroup (s : State) (a b sel : Nat) : State :=
  match route a b with
  | (dev, dir) :: _ =>
    let d := s.device dev
    (match d.portFor dir sel with
    | some p =>
      (match (List.range 7).find? fun g => (d.lanes p (g + 1)).state = .up && (d.lanes p (g + 1)).binding = none with
      | some g => s.setGroup dev p (g + 1) fun k => { k with state := .down }
      | none => s)
    | none => s)
  | [] => s

/-- Charges data flits to a slot while it holds their context. -/
def State.chargeCtx (s : State) (p : Option (Nat × Dword)) : State :=
  match p with
  | some (key, ctx) => if (s.thread key).any fun t => t.ctxId = ctx then s.chargeAt key 15 1 else s
  | none => s

/-- The 4,096 body bytes of a pooled group. -/
def PooledRoute.body (r : PooledRoute) : List Byte :=
  padBody 4096 (r.flits.flatMap fun c => match c.1.data with | some (_, _, bs) => bs | none => [])

/-- Bytes of the masks of a flit's sectors take values that the manual leaves open. -/
def State.spoil (s : State) (f : Flit) : State :=
  match f with
  | .pooledStore _ sec bs _ _ _ =>
    bs.zipIdx.foldl (fun x c =>
      let d := x.drawMany 8
      let junk := d.1.flatMap fun v => leBytes v.toNat 8
      d.2.writeMasked (sec + c.2) (c.1.map fun b => (b.1, b.2.map fun _ => junk.getD b.1 0))) s
  | _ => s

/-- XF of a pooled group: that of the read that its replies answer (R400). -/
def PooledRoute.xf (r : PooledRoute) : Nat :=
  (r.flits.findSome? fun c => match c.1 with | .pooledReply _ _ _ _ _ _ _ _ _ xf => some (xf % 16) | _ => none).getD 0

/-- Replay-table entries of a pooled group: each of its sectors with the state from before the group. -/
def PooledRoute.entries (r : PooledRoute) : List ReplayEntry :=
  r.sectors.dedup.filterMap fun k => r.flits.findSome? fun c =>
    match c.1 with
    | .pooledStore w sec _ _ _ _ =>
      if c.1.sectors.contains k then some ⟨k, c.2.getD (k - sec) .empty, 2 ^ 40, 0, r.seq, some w, r.fails⟩ else none
    | _ => none

/-- A data flit as it is sent again. -/
def Flit.anew (f : Flit) : Flit :=
  match f with
  | .pooledStore w sec bs fill poison _ => .pooledStore w sec bs fill poison true
  | g => g

/-- The tag of the group in progress on pooled route `k` fails (R134, R352): its sectors take bytes that the manual leaves
open and are poisoned, their ports' replay tables keep the states from before, and its flits are sent again ahead of later
ones. Where a port has too few entries free, its intake is held. Three failing replays in a row mark the lane group that
the route leaves by failed. DESIGN CHOICE (notes/assumptions/85.md). -/
def State.failRoute (s : State) (k : Nat) : State :=
  let r := s.pooledAt k
  if !s.replayRoom r.sectors.dedup then s.setPooled k { r with held := true }
  else
    let s1 := r.flits.foldl (fun x c => x.spoil c.1) s
    let s2 := r.sectors.dedup.foldl (fun x j => x.setSector j .poisoned) s1
    let s3 : State := { s2 with
      replays := s2.replays ++ r.entries
      flits := (r.flits.map fun c => Flight.of c.1.anew (c.1.asker.bind s.partOf)) ++ s2.flits }
    let s4 := (r.flits.foldl (fun (x : State) c => x.chargeCtx c.1.payer) s3).setPooled k
      { r with flits := [], damage := 0, held := false, fails := if r.fails = 3 then 0 else r.fails + 1 }
    match r.flits with
    | c :: _ => if r.fails = 3 then s4.failPooledGroup c.1.src c.1.dst (bitsOf c.1.addr 12 12) else s4
    | [] => s4

/-- The group in progress on a pooled route is good: read replies of it reach their streams. -/
def State.passRoute (s : State) (k : Nat) : State :=
  let r := s.pooledAt k
  r.flits.foldl (fun x c => match c.1 with
    | .pooledReply key ctx ag v bs p _ _ g _ => x.remoteRun key ctx ag v bs p g
    | _ => x) (s.setPooled k { seq := r.seq + 1 })

/-- INTEGRITY_CHECK (R133, R134, R352, R396): the tag of the oldest group on its way into ingress q is checked. A good
group makes its slot full, or is dropped where the array has taken it already; a failed one poisons the slot's sectors, and
the accumulators that it fed, and is to be replayed. The tag fails where damage of the bits shows in it, and where the
event says so. A key from 2^32 on names a pooled route: the group in progress on it ends there.
DEDUCED (notes/assumptions/40.md). -/
def execIntegrityCheck (key : Nat) (q : BitVec 3) (good : Bool) (s : State) : Res State :=
  .next <| if 2 ^ 32 ≤ key then
      let r := s.pooledAt (key - 2 ^ 32)
      if r.flits = [] then s
      else if good && !r.held && tagGood r.xf r.body (8 * r.seq) r.damage then s.passRoute (key - 2 ^ 32) else s.failRoute (key - 2 ^ 32)
    else s.inSlot key fun _ r x =>
    let n := q.toNat
    let e := x.queue n
    let src := (s.slot e.peerKey).queue e.peerQ.toNat
    match e.arriving with
    | some g :: rest =>
      let pass := good && !e.held && tagGood src.xf.toNat g.bytes g.first g.damage
      let s0 := if g.taken then s.setSlot key (x.groupChecked n g.seq (!pass)) else s
      let secs := slotSectors key r e g.seq
      if !e.isIngress || g.seq ≠ e.groups then s
      else if pass then
        let e1 : Queue :=
          { e with arriving := rest, slots := if g.taken then e.slots else e.slots ++ [some g], groups := e.groups + 1,
                   replay := false, fails := 0, eos := false, lastBytes := 0, lastLen := g.len, discard := false }
        (s0.setEnd key n (e1.passMarkers rest)).setEnd e.peerKey e.peerQ.toNat
          { src with awaiting := src.awaiting.drop 1, groups := src.groups + 1, replay := false }
      else if !s.replayRoom secs then s.setEnd key n { e with held := true }
      else
        let es := secs.map fun k => ({ sector := k, before := s.sector k, key := key, q := q, seq := g.seq } : ReplayEntry)
        let failed := e.fails = 3
        let s1 := secs.foldl (fun y k => y.setSector k .poisoned) s0
        let s1 := { s1 with replays := s1.replays ++ es }
        let s2 := (s1.setEnd key n
          { e with arriving := rest, replay := true, held := false, discard := g.taken, fails := if failed then 0 else e.fails + 1 }).setEnd
            e.peerKey e.peerQ.toNat { src with replay := true }
        if failed then s2.failBinding (keyDev e.peerKey) (keyDev key) (bindingId e.peerKey e.peerQ.toNat) else s2
    | _ => s

/-- A replayed write finds the sector as the entry recorded it, unless the sector's state has changed since: that change
has freed the entry (R352). -/
def State.restoreSector (s : State) (e : ReplayEntry) : State :=
  if s.sector e.sector = .poisoned then s.setSector e.sector e.before else s

/-- GROUP_REPLAY (R134, R352): the producer sends the failed group again from its replay slot; the sectors end in the
state that a good first delivery would have left. -/
def execGroupReplay (key : Nat) (q : BitVec 3) (s : State) : Res State :=
  .next <| s.inSlot key fun _ _ x =>
    let n := q.toNat
    let e := x.queue n
    let src := (s.slot e.peerKey).queue e.peerQ.toNat
    match src.awaiting with
    | g :: _ =>
      if !e.isIngress || !e.replay || g.seq ≠ e.groups ||
          (e.arriving.any fun h => match h with | some k => k.seq = g.seq | none => false) ||
          (s.flits.any fun v => match v.flit with
            | .bound b => b.key = e.peerKey && b.q = e.peerQ.toNat && b.item.any fun k => k.seq = g.seq
            | _ => false) ||
          !s.queueRoute e.peerKey e.peerQ.toNat key then s
      else
        let mine (k : ReplayEntry) : Bool := k.key = key && k.q = q && k.seq = g.seq
        let s1 := (s.replays.filter mine).foldl (fun y k => y.restoreSector k)
          { s with replays := s.replays.filter fun k => !mine k }
        s1.sendItem e.peerKey e.peerQ.toNat src (some { g with taken := e.discard || g.taken }) true
    | [] => s

/-- Whether an order of the slot's array table names a source. -/
def Slot.orderNames (x : Slot) (src : Nat) : Bool := x.tableSources.contains src

/-- INGRESS_EOS (R252, R305): with its last slot taken, the ingress passes EOS on to whoever takes its slots: a binding of port
qi, the lanes joined to it, an order of the array. It waits for a consumer. -/
def execIngressEos (key : Nat) (q : BitVec 3) (s : State) : Res State :=
  .next <| s.inSlot key fun _ _ x =>
    let n := q.toNat
    let e := x.queue n
    match e.slots with
    | none :: r =>
      let toArray := x.orderNames (8 + n)
      let toLanes := x.readers (8 + n) != []
      let toPort := (List.range 8).any fun a => (x.ag a).bound && (x.ag a).port.toNat = 0x10 + n
      let put (y : Slot) (p : Nat) : Slot := y.setPort p { y.port p with buf := (y.port p).buf ++ [marker .eos 0] }
      let x1 := x.setQueue n
        { e with slots := r, arrayEos := if toArray then e.arrayEos + 1 else e.arrayEos }
      let x2 := if toLanes then put x1 (sourceKey (8 + n)) else x1
      if !toArray && !toLanes && !toPort then s else s.commit key (if toPort then put x2 (0x10 + n) else x2)
    | _ => s

/-- lq.stat (R253). -/
def execLqStat (r : Reg) (q : BitVec 3) (s : State) : Res State :=
  onThread s fun t =>
    let e := s.curSlot.queue q.toNat
    let b (v : Bool) (k : Nat) : Nat := if v then 2 ^ k else 0
    let full := if e.ingress then groupsIn e.slots else e.awaiting.length
    let v := if e.bound then
        full % 32 + b e.eos 5 + b e.replay 6 + b e.ingress 7 + e.dm1.toNat * 2 ^ 8 + 2 ^ 12 +
          e.lastBytes * 2 ^ 16 + e.groups % 2 ^ 32 * 2 ^ 32
      else 0
    retire s (t.writeG r (BitVec.ofNat 64 v)) 9 4

/-! Buffers that accept a token. -/

/-- A latch takes what its arc's E-out edges give it: a valid token, or EOS once no part of a panel stands. A marker of
a switch stays on the edges for the array when an order reads the latch. -/
def Slot.acceptLatch (x : Slot) (north : Bool) : Option (Slot × Dword × Nat) :=
  let c := if north then 1 else 0
  let l := x.latch north
  let named := x.orderNames c || (!north && x.orderNames 2)
  match x.takeOut c with
  | none => none
  | some (t, y) =>
    match t.kind with
    | .eoc => if named then none else some (y, 0, 0)
    | .eos =>
      if l.fill ≠ [] then none
      else if named then some (y.setLatch north { l with full := l.full ++ [none] }, 0, 0) else some (y, 0, 0)
    | .data =>
      if !t.v then some (y, 0, 0)
      else
        match x.latchFmt north with
        | none => none
        | some fmt =>
          if 2 ≤ l.panels.length then none
          else let r := l.take fmt t; some (y.setLatch north r.1, r.2.1, r.2.2)

/-- Appends a token to a sink port's buffer. -/
def Slot.toSink (x : Slot) (p : Nat) (t : Token) : Option Slot :=
  let b := (x.port p).buf
  if b.length < Config.portRoom then some (x.setPort p { x.port p with buf := b ++ [t] }) else none

/-- Port s or eo takes the next token of its arc. -/
def Slot.acceptSinkArc (x : Slot) (c : Nat) : Option Slot :=
  match x.takeOut c with
  | none => none
  | some (t, y) =>
    match t.kind with
    | .eoc => some y
    | .eos => y.toSink (if c = 2 then 2 else 4) t
    | .data => if t.v then y.toSink (if c = 2 then 2 else 4) t else some y

/-- Port qi takes four bytes of its ingress while a binding of the port can take data. -/
def Slot.acceptIngress (x : Slot) (q : Nat) : Option Slot :=
  if (x.openSinks (0x10 + q)).isEmpty then none
  else
    match x.ingressHead q .port with
    | some t => (x.takeIngress q .port).toSink (0x10 + q) t
    | none => none

/-- The west gather unit takes an offset, or a marker once it has read for every offset. -/
def Slot.acceptGather (x : Slot) : Option Slot :=
  let y := x.setPort 0x18 { x.port 0x18 with buf := (x.port 0x18).buf.drop 1 }
  match (x.port 0x18).buf with
  | [] => none
  | t :: _ =>
    match t.kind with
    | .data => if x.gather.length < 64 then some { y with gather := x.gather ++ [t.data] } else none
    | .eos =>
      if x.gather ≠ [] then none
      else if x.orderNames 2 then
        if x.latchA.fill = [] then
          some (({ y with latchA := { x.latchA with full := x.latchA.full ++ [none] } } : Slot).accepted t)
        else none
      else some (y.accepted t)
    | .eoc => if x.gather = [] ∧ x.orderNames 2 = false then some y else none

/-- TOKEN_ACCEPT (R258, R277, R296): the buffer of a point takes the token offered to it. -/
def execTokenAccept (key : Nat) (point : AcceptPoint) (s : State) : Res State :=
  .next <| s.inSlot key fun t r x =>
    let fin (y : Option Slot) : State := match y with | some z => s.commit key z | none => s
    match point with
    | .ein arc =>
      let a := match arc with | .west => 0 | .north => 1 | .south => 2 | .east => 3
      fin (firstSome (fun c => x.distribute (r.oiOf t.part) c) (arcSources a))
    | .latch north =>
      (match x.acceptLatch north with
      | some (y, fl, bad) => (s.raiseAt key fl bad).commit key y
      | none => s)
    | .sinkArc arc => fin (match arc with | .south => x.acceptSinkArc 2 | .east => x.acceptSinkArc 3 | _ => none)
    | .egress q => fin (x.acceptEgress q.toNat)
    | .ingressSink q => fin (x.acceptIngress q.toNat)
    | .gather => fin x.acceptGather

end Sys2Proof.Machine
end

