-- ==== Sys2Proof/Machine/CfgLoad.lean ====
section
/-!
DEFINITION. Configuration of a slot (R247 to R249, R300): loading a block, staging one, and the wavefront switch.
-/

namespace Sys2Proof.Machine

/-! Reading a block (R248, step 2): word 0 and the records behind it, one word a load. -/

/-- `n` words from virtual address `va` on. -/
def readWords (s : State) (r : Region) (t : Thread) (va : Dword) : Nat → BlockRead
  | 0 => .bytes [] 0 s
  | n + 1 =>
    match reach s r t.super t.part t.rx t.ry va 4 4 .read with
    | .busy s1 => .busy s1
    | .fault c arg s1 => .fault c arg va s1
    | .at p s1 =>
      match s1.blockWord t (r.keyAt t.part t.rx t.ry) p.addr 4 with
      | (none, s2) => .busy s2
      | (some v, s2) =>
        match readWords s2 r t (va + 4) n with
        | .bytes bs fl s3 => .bytes (v.1 ++ bs) (fl ||| v.2) s3
        | x => x

/-- `n` records from virtual address `va` on: each a descriptor word and the words that it counts. -/
def readRecords (s : State) (r : Region) (t : Thread) (va : Dword) : Nat → BlockRead
  | 0 => .bytes [] 0 s
  | n + 1 =>
    match readWords s r t va 1 with
    | .bytes d fd s1 =>
      let w := field d 0 4
      let k := (bitsOf w 19 12 + 1) * bitsOf w 11 6
      (match readWords s1 r t (va + 4) k with
      | .bytes ws fw s2 =>
        (match readRecords s2 r t (va + 4 + BitVec.ofNat 64 (4 * k)) n with
        | .bytes rest fr s3 => .bytes (d ++ ws ++ rest) (fd ||| fw ||| fr) s3
        | x => x)
      | x => x)
    | x => x

/-- Runs `f` on the records of the block at `va`; a malformed word 0 traps, with ARG 0.
DESIGN CHOICE (notes/assumptions/109.md). -/
def withCfg (s : State) (t : Thread) (r : Region) (va : Dword)
    (f : State → Thread → List Word → List CfgRecord → Res State) : Res State :=
  let done (b : BlockRead) (g : List Byte → Dword → State → Res State) : Res State :=
    match b with
    | .busy s1 => stall s1 t
    | .fault c arg ea s1 => takeBlockFault s1 t r c arg ea
    | .bytes bs fl s1 => g bs fl s1
  if va.toNat % 64 ≠ 0 then takeBlockFault s t r .alignment 0 va
  else
    done (readWords s r t va 1) fun h f0 s1 =>
      let n := field h 0 2
      if field h 2 2 ≠ 0 ∨ 4096 < n then malformedTrap (s1.dropBlock s.cur) 0 0 0
      else
        done (readRecords s1 r t (va + 4) n) fun bs f1 s2 =>
          let ws := wordsOf bs (bs.length / 4)
          match cfgRecords n ws with
          | some rs => f (s2.dropBlock s.cur) (t.raise (f0 ||| f1)) ws rs
          | none => malformedTrap (s2.dropBlock s.cur) 0 0 0

/-! Quiescent instances (R248, step 4). -/

/-- Whether an instance of a table kind holds no token of the slot. -/
def Slot.quiescent (x : Slot) (kind unit : Nat) : Bool :=
  let bare (es : List Nat) : Bool := es.all fun e => x.edge e = []
  if kind = 0 then x.agIdle (BitVec.ofNat 3 unit)
  else if kind = 1 then bare [edgeX unit, edgeY unit, edgeZ unit]
  else if kind ≤ 4 then
    let n := if kind = 2 then unit else if kind = 3 then 256 + unit else 260 + unit
    (x.box n).hold.isNone &&
      (if kind = 2 then bare [boxInput n 0, boxInput n 1, edgeEin n, edgeEout n]
       else if kind = 3 then bare [boxInput n 0, boxInput n 1, boxInput n 3]
       else bare [boxInput n 0, boxInput n 3, edgeBridge unit])
  else x.arrayEmpty && x.arms.all Arming.ended

/-- The node of a box table, for its state. -/
def boxNode (kind unit : Nat) : Nat := if kind = 2 then unit else if kind = 3 then 256 + unit else 260 + unit

/-- Boxes whose words change begin in their initial state. DESIGN CHOICE (notes/assumptions/97.md). -/
def Slot.freshBoxes (x : Slot) (m : SMap Word) (rs : List CfgRecord) : Slot :=
  rs.foldl (fun y r =>
    if 2 ≤ r.kind ∧ r.kind ≤ 4 then
      r.units.foldl (fun z u => if tableWord m r.kind u 0 = x.word r.kind u 0 then z else z.setBox (boxNode r.kind u) {}) y
    else y) x

/-- Step 1 of R248: the thread waits until every earlier access has performed. A word that traps after its wait has been
charged nothing (R365), so the wait itself is not charged. -/
def afterLoads (s : State) (t : Thread) (f : State → Thread → Res State) : Res State :=
  if t.held ≠ .none then stall s t
  else
    let x := drainCb s s.cur t
    if x.2.openIds true ≠ [] then stall x.1 x.2 else f x.1 x.2

/-- cfg.ld (R248). -/
def execCfgLd (r : Reg) (s : State) : Res State :=
  onThread s fun t =>
    onRegion s t fun g =>
      afterLoads s t fun s1 t1 =>
        withCfg s1 t1 g (t1.readG r) fun s2 t2 _ rs =>
          let x := s2.curSlot
          match cfgCheck x.words x.queues [0, 1, 2, 3, 4, 5] rs with
          | .inr b => malformedTrap s2 b.1 b.2.1 b.2.2
          | .inl m =>
            if rs.all fun c => c.units.all fun u => x.quiescent c.kind u then
              retireSlot s2 t2 { x.freshBoxes m rs with words := m }
            else stall s1 t1

/-! Staging (R249). -/

/-- cfg.stage (R249): the block goes into the tile's one staging buffer. It waits while the buffer holds another slot's
set, or the slot's own set while its switch is under way. DESIGN CHOICE (notes/assumptions/98.md). A valid block of any length
is stored. DESIGN CHOICE (notes/assumptions/108.md). -/
def execCfgStage (r : Reg) (s : State) : Res State :=
  onThread s fun t =>
    onRegion s t fun g =>
      if t.held ≠ .none ∨ t.acquiring ≠ [] then stall s t else
      withCfg s t g (t.readG r) fun s2 t2 ws rs =>
        let x := s2.curSlot
        match cfgCheck x.words x.queues [1, 2, 3, 4, 5] rs with
        | .inr b => malformedTrap s2 b.1 b.2.1 b.2.2
        | .inl _ =>
          let tile := keyTile s2.cur
          let busy := match SMap.get none s2.staging tile with
            | some st => st.slot != keySlot s2.cur || st.switching
            | none => false
          if busy then stall s t
          else
            let st : Staging := ⟨keySlot s2.cur, BitVec.ofNat 32 rs.length :: ws, false⟩
            retire { s2 with staging := SMap.put none s2.staging tile (some st) } t2 9 4

/-! The wavefront switch (R249, R300). Nodes: 0 to 263 as boxes are numbered, 264 + l lane l, 520 the array. -/

def laneNode (l : Nat) : Nat := 264 + l
def arrayNode : Nat := 520

/-- The table kind and instance of a node. -/
def switchKind (n : Nat) : Nat × Nat :=
  if n < 264 then (nodeKind n, nodeUnit n) else if n < 520 then (1, n - 264) else (5, 0)

/-- Inputs of a box that an end-of-context marker comes by; none comes out of a link queue. -/
def Slot.eocInputs (x : Slot) (n : Nat) : List Nat :=
  match x.boxOf n with
  | some f => f.inputs.filter fun i => !(f.qm && i = 3)
  | none => []

/-- Sources of the array that a marker comes by: 0 and 1 the latches, 2 the gather. -/
def Slot.arrayInputs (x : Slot) : List Nat := x.tableSources.filter fun c => c < 3

/-- Whether a node waits for the marker at an input edge. A box that takes tokens from a link queue alone waits until the
marker that it forwards has room. -/
def Slot.hasInput (x : Slot) (n : Nat) : Bool :=
  if n < 264 then x.eocInputs n != [] || (x.boxInputs n != [] && x.boxOutputs n != 0)
  else if n < 520 then x.laneInputs (n - 264) != [] else x.arrayInputs != []

/-- The tables with the words of one instance taken from staged records. -/
def takeStaged (m : SMap Word) (rs : List CfgRecord) (kind unit : Nat) : SMap Word :=
  rs.foldl (fun a r =>
    if r.kind = kind ∧ r.units.contains unit = true then
      (List.range r.len).foldl (fun b j => SMap.put 0 b (wordKey kind unit j) (r.wordAt (unit - r.first) j)) a
    else a) m

/-- The records of a tile's staged set. -/
def State.staged (s : State) (key : Nat) : List CfgRecord :=
  match SMap.get none s.staging (keyTile key) with
  | some st =>
    (match st.block with
    | h :: ws => (cfgRecords h.toNat ws).getD []
    | [] => [])
  | none => []

/-- A node takes its staged words and has switched. -/
def Slot.switchNode (x : Slot) (rs : List CfgRecord) (n : Nat) : Slot :=
  let k := switchKind n
  let m := takeStaged x.words rs k.1 k.2
  let y : Slot := if n < 264 ∧ tableWord m k.1 k.2 0 ≠ x.word k.1 k.2 0 then x.setBox n {} else x
  { y with words := m, eocLeft := x.eocLeft.filter fun c => c != n }

/-- The array's marker to the south arc; an egress drops its own. -/
def Slot.arrayMarker (x : Slot) : Slot :=
  { x with outs := SMap.put [] x.outs 1 (SMap.get [] x.outs 1 ++ [marker .eoc 0]) }

/-- cfg.sw (R249). It waits while an earlier switch of the slot is under way. DESIGN CHOICE (notes/assumptions/98.md). The trap
of a switch with nothing staged has ARG 0. DESIGN CHOICE (notes/assumptions/109.md). -/
def execCfgSw (g : BitVec 6) (s : State) : Res State :=
  onThread s fun t =>
    let x := s.curSlot
    let mine := match SMap.get none s.staging (keyTile s.cur) with
      | some st => if st.slot = keySlot s.cur then some st else none
      | none => none
    match mine with
    | none => malformedTrap s 0 0 0
    | some st =>
      if st.switching then stall s t
      else if t.tagFull g then stall s t
      else if !(sourcePorts.all x.sbRoom) then hold s t 9
      else
        let rs := s.staged s.cur
        let x1 := sourcePorts.foldl (fun y p =>
          let used := y.entries p != [] || (List.range 8).any fun a => (y.ag a).bound && (y.ag a).port.toNat = p
          if used then y.setEntries p (y.entries p ++ [.eoc])
          else y.setPort p { y.port p with buf := (y.port p).buf ++ [marker .eoc 0] }) x
        let nodes := List.range 521
        let wait := nodes.filter fun n => x.hasInput n
        let x2 : Slot := { x1 with eocTag := some g, eocLeft := nodes }
        let x3 := (nodes.filter fun n => !wait.contains n).foldl (fun y n => y.switchNode rs n) x2
        let x4 := if wait.contains arrayNode then x3 else x3.arrayMarker
        let s1 := { s with
          staging := SMap.put none s.staging (keyTile s.cur) (some { st with switching := true }) }
        let s2 := (s1.setThread s.cur (t.countTag g)).commit s.cur x4
        match s2.thread s2.cur with
        | some t2 => retire s2 t2 9 4
        | none => .next s2

/-- The marker at the inputs of a box leaves on its outputs, as `emit` puts it there; nothing while it waits. Where every input
is a link queue's, the box makes the marker itself, numbered as that source's next wave. -/
def Slot.passBox (x : Slot) (oi : BitVec 16) (emit : Token → BoxFired) (n : Nat) (ins : List Nat) : BoxFired :=
  match ins with
  | [] => emit (marker .eoc ((x.port (sourceKey (x.outside n))).start oi).iter)
  | i :: _ =>
    match x.headInput n i with
    | some t =>
      if ins.all fun c => (x.headInput n c).any fun u => u.kind = .eoc then
        (emit t).map fun r => (ins.foldl (fun y c => y.popInput n c) r.1, r.2)
      else none
    | none => none

/-- A box at the marker: each path of a pair on its own, any other operation at once. -/
def Slot.switchBox (x : Slot) (oi : BitVec 16) (link : Token → Bool) (rs : List CfgRecord) (n : Nat) : BoxFired :=
  match x.boxOf n with
  | none => none
  | some f =>
    let open_ := x.eocInputs n
    if f.op = .pair then
      let b := x.box n
      let path (k i m : Nat) : BoxFired :=
        if b.eocPath.getLsbD k then none
        else
          (x.passBox oi (x.emitBox oi link n m) n (if open_.contains i then [i] else [])).map fun r =>
            let p := b.eocPath ||| (1#2 <<< k)
            if p = 3#2 then ((r.1.setBox n { b with eocPath := 0 }).switchNode rs n, r.2)
            else (r.1.setBox n { b with eocPath := p }, r.2)
      match path 0 f.ia f.out0 with
      | some r => some r
      | none => path 1 f.ib f.out1
    else (x.passBox oi (x.emitMarker oi link n f) n open_).map fun r => (r.1.switchNode rs n, r.2)

/-- A lane at the marker. -/
def Slot.switchLane (x : Slot) (oi : BitVec 16) (rs : List CfgRecord) (l : Nat) : Option Slot :=
  let ins := x.laneInputs l
  let m := match ins with | i :: _ => x.headEdge (laneEdge l i) | [] => none
  match m with
  | none => none
  | some t =>
    if !(ins.all fun i => (x.headEdge (laneEdge l i)).any fun u => u.kind = .eoc) then none
    else if x.laneOutputs l && !x.room oi (edgeZ l) t then none
    else
      let y := ins.foldl (fun z i => z.popEdge (laneEdge l i)) x
      some ((if x.laneOutputs l then y.pushEdge (edgeZ l) t else y).switchNode rs (laneNode l))

/-- Takes the marker off one source of the array. -/
def Slot.arrayTakes (x : Slot) (c : Nat) : Option Slot :=
  if c = 2 then
    match (x.port 0x18).buf with
    | m :: r => if m.kind = .eoc ∧ x.gather = [] then some (x.setPort 0x18 { x.port 0x18 with buf := r }) else none
    | [] => none
  else (x.takeOut c).bind fun r => if r.1.kind = .eoc then some r.2 else none

/-- The array at the marker: it has come by every source, and no armed order has panels left to fire on. -/
def Slot.switchArray (x : Slot) (rs : List CfgRecord) : Option Slot :=
  if x.nextOrder.isSome then none
  else
    (x.arrayInputs.foldl (fun (y : Option Slot) c => y.bind fun z => z.arrayTakes c) (some x)).map fun y =>
      (y.switchNode rs arrayNode).arrayMarker

/-- The 32 lanes of block group g at the marker switch as one (R249, R287). -/
def Slot.switchGroup (x : Slot) (oi : BitVec 16) (rs : List CfgRecord) (g : Nat) : Option Slot :=
  (groupLanes g).foldl (fun (y : Option Slot) l => y.bind fun z => z.switchLane oi rs l) (some x)

/-- Whether a word of the lane is a group operation: then all lanes of its block group hold it (R267). -/
def Slot.inGroup (x : Slot) (l : Nat) : Bool := (x.laneWords l).any fun f => f.op.isGroup

/-- EOC_SWITCH (R249, R300): an instance on whose every input the marker stands takes its staged words and forwards the
marker, once CFG.SW has issued in its slot. DEDUCED (notes/assumptions/37.md). An instance of an engine that is stopped
waits until it runs. DESIGN CHOICE (notes/assumptions/98.md). -/
def execEocSwitch (key node : Nat) (s : State) : Res State :=
  .next <| s.inSlot key fun t r x =>
    let oi := r.oiOf t.part
    let rs := s.staged key
    let far := if 260 ≤ node ∧ node < 264 then s.linkEnd key t r (node - 260) else none
    let eng := if node < 264 then nodeEngine node else if node < 520 then 8 + laneArc (node - 264) else 12
    if !x.eocLeft.contains node || x.eocTag.isNone || !(x.engine eng).running then s
    else if node < 264 then
      match x.switchBox oi (s.linkRoom oi far) rs node with
      | none => s
      | some (y, u) => (s.commit key y).linkPush oi far u
    else
      let l := node - 264
      match if 520 ≤ node then x.switchArray rs
        else if x.inGroup l then x.switchGroup oi rs (l / 32) else x.switchLane oi rs l with
      | some y => s.commit key y
      | none => s

end Sys2Proof.Machine
end

