-- ==== Sys2Proof/Machine/LaunchExit.lean ====
section
/-!
DEFINITION. Launching, leaving and offering up a graph (R35, R52, R138, R254, R255).
-/

namespace Sys2Proof.Machine

/-- The launch record that 64 bytes hold (R35). -/
def launchOf (bs : List Byte) (dev part : Nat) (super trusted : Bool) (host : Option Nat) (launcher : Option (Nat × Dword)) (arrival n : Nat) :
    LaunchRec where
  image := BitVec.ofNat 64 (field bs 0x00 8)
  arg := BitVec.ofNat 64 (field bs 0x08 8)
  done := BitVec.ofNat 64 (field bs 0x10 8)
  seed := BitVec.ofNat 64 (field bs 0x18 8)
  group := field bs 0x20 2 % 2 ^ 14
  gsize := field bs 0x22 2
  prio := field bs 0x24 1 % 8
  tagByte := field bs 0x25 1 % 64 + field bs 0x25 1 / 128 * 128
  reserved := field bs 0x20 2 / 2 ^ 14 + 4 * (field bs 0x24 1 / 8) + 128 * (field bs 0x25 1 / 64 % 2) +
    256 * field bs 0x26 26
  dev := dev
  part := part
  super := super
  trusted := trusted
  host := host
  launcher := launcher
  arrival := arrival
  n := n
  bypass := 0
  blocking := false
  hdr := {}

/-- Whether the launch queue of a priority has no room for a record more (R320). -/
def State.queueFull (s : State) (dev part prio : Nat) : Bool :=
  64 ≤ ((s.device dev).queue part prio).length +
    (s.arrivals.filter fun r => r.dev = dev && r.part = part && r.prio = prio).length

/-- launch (R138, R254): the new graph enters level U, whatever the launcher's (R308). -/
def execLaunch (r : Reg) (s : State) : Res State :=
  onThread s fun t =>
    onRegion s t fun g =>
      afterAccesses s t 9 fun s1 t1 =>
        let va := t1.readG r
        if va.toNat % 64 ≠ 0 then blockFault s1 t1 9 g .alignment 0 va
        else
          withBlock s1 t1 9 g va 8 fun s2 t2 bs =>
            let l := launchOf bs (keyDev s2.cur) g.launch.part false t2.super none (some (s2.cur, t2.ctxId)) s2.now
              s2.nextLaunch
            let tag : BitVec 6 := BitVec.ofNat 6 l.tagByte
            let tagged := bitOf l.tagByte 7
            if tagged && t2.tagFull tag then hold s1 t1 9
            else if s2.queueFull l.dev l.part l.prio then hold s1 t1 9
            else
              retire { s2 with arrivals := s2.arrivals ++ [l], nextLaunch := s2.nextLaunch + 1 }
                { (if tagged then t2.countTag tag else t2) with synced := true } 9 4

/-- exit (R52, R255): after a release at fabric scope the thread ends; its slot goes on. -/
def execExit (s : State) : Res State :=
  onThread s fun t =>
    afterAccesses s t 9 fun s1 t1 =>
      .next (s1.setThread s1.cur
        { (t1.chargeIssue s1.curDevice 9).complete 4 with status := .exited, resident := false })

/-- yield (R255). -/
def execYield (s : State) : Res State := onThread s fun t => retire s { t with yielded := true } 9 4

end Sys2Proof.Machine
end

