-- ==== Sys2Proof/Machine/ImageCheck.lean ====
section
/-!
DEFINITION. Graph images (R26 to R32, R45, R250, R251): reading an image through the partition's translation, the
refusal causes of the check at the queue, and those of the words that the dies find when they load them.
-/

namespace Sys2Proof.Machine

/-! Reading as the scheduler does. -/

/-- The outcome of a read by the scheduler. -/
inductive VRead where
  | bytes (bs : List Byte) (s : State)
  /-- a translation or poison fault -/
  | bad (s : State)
  /-- a page is not ready, or its memory is not up (R341, R373) -/
  | busy (s : State)

/-- `n` bytes from virtual address `va` on, a sector at a time, at the level of the launch. -/
def readVirt (s : State) (l : LaunchRec) (va n : Nat) : Nat → VRead
  | 0 => .bytes [] s
  | fuel + 1 =>
    if n = 0 then .bytes [] s
    else if 2 ^ 56 ≤ va then .bad s
    else
      let k := min (64 - va % 64) n
      match translate s l.part (l.dev * 896) l.super va .read with
      | .busy s1 => .busy s1
      | .fault _ _ s1 => .bad s1
      | .ok fa s1 =>
        if s1.memOff l.dev fa then .busy s1
        else if s1.sector (sectorOf fa) = .poisoned then .bad s1
        else
          match readVirt s1 l (va + k) (n - k) fuel with
          | .bytes bs s2 => .bytes (s1.bytes fa k ++ bs) s2
          | x => x

/-- A check under way: the state after its reads, the causes found, and whether a page is busy. -/
structure Check where
  s : State
  causes : List Nat
  busy : Bool

/-- Adds a cause where a condition fails. -/
def Check.want (c : Check) (ok : Bool) (cause : Nat) : Check :=
  if ok then c else { c with causes := c.causes ++ [cause] }

/-- Reads image bytes for a check; cause 0x0C where they cannot be read. -/
def Check.read (c : Check) (l : LaunchRec) (ofs n : Nat) : Option (List Byte) × Check :=
  if c.busy then (none, c)
  else
    match readVirt c.s l (l.image.toNat + ofs) n (n / 64 + 2) with
    | .bytes bs s => (some bs, { c with s := s })
    | .bad s => (none, { c with s := s, causes := c.causes ++ [0x0C] })
    | .busy s => (none, { c with s := s, busy := true })

/-! What an image holds. -/

/-- Every multi-byte offset of the header, in order: streams, engines, config, generators, queues, data (R26). -/
def headerOffsets (h : List Byte) : List Nat := (List.range 6).map fun i => field h (0x30 + 8 * i) 8

/-- Index of a position in the directories. -/
def ImageInfo.posIndex (x : ImageInfo) (rx ry : Nat) : Nat := ry * x.hdr.w + rx

/-! The sections. -/

/-- Whether [o, o + n) lies in the image. -/
def ImageInfo.inside (x : ImageInfo) (o n : Nat) : Bool := o + n ≤ x.length

/-- The stream directory (R27). -/
def checkDir (c : Check) (l : LaunchRec) (x : ImageInfo) : Check × ImageInfo :=
  let o := x.ofs.getD 0 0
  let n := x.hdr.w * x.hdr.h
  if !x.inside o (16 * n) then (c.want false 0x04, x)
  else
    match c.read l o (16 * n) with
    | (none, c1) => (c1, x)
    | (some bs, c1) =>
      let es := (List.range n).map fun i => (bs.drop (16 * i)).take 16
      let ds := es.map fun e => (⟨field e 0 8, field e 8 4, field e 12 1 % 16⟩ : DirEntry)
      let c2 := c1.want (es.all fun e => field e 12 1 < 16 && field e 13 3 = 0) 0x02
      let c3 := c2.want (ds.all fun d => d.words = 0 || (d.stream % 64 = 0 && x.inside d.stream (4 * d.words))) 0x04
      (c3, { x with dir := ds })

/-- The length of a block that its own words give (R29); nothing where word 0 is malformed or the words end early. -/
def blockRecords (ws : List Word) : Option (List CfgRecord) :=
  match ws with
  | [] => none
  | h :: r =>
    let n := wbits h 15 0
    if wbits h 31 16 ≠ 0 ∨ 4096 < n then none
    else
      match cfgRecords n r with
      | some rs => if 1 + (rs.foldl (fun (a : Nat) d => a + 1 + d.count * d.len) 0) = ws.length then some rs else none
      | none => none

/-- One set-directory entry of a section whose blocks lie behind the directory, from `lo` on (R29): its records. A block
ahead of it is refused with cause 0x04. DESIGN CHOICE (notes/assumptions/101.md). -/
def checkSet (c : Check) (l : LaunchRec) (x : ImageInfo) (lo : Nat) (generator set0 : Bool) (e : List Byte) :
    Check × List CfgRecord :=
  let b := field e 0 8
  let n := field e 8 4
  let c1 := c.want (field e 12 4 = 0) 0x02
  if b = 0 then (c1.want (n = 0) 0x08, [])
  else if b % 64 ≠ 0 ∨ !x.inside b (4 * n) ∨ b < lo then (c1.want false 0x04, [])
  else
    match c1.read l b (4 * n) with
    | (none, c2) => (c2, [])
    | (some bs, c2) =>
      match blockRecords (wordsOf bs n) with
      | none => (c2.want false 0x08, [])
      | some rs =>
        (c2.want (rs.all fun r => if generator then r.kind = 0 else 1 ≤ r.kind && r.kind ≤ 6 && (set0 || r.kind != 6)) 0x08, rs)

/-- The four sets of some positions of a section, and the records of set 0. -/
def checkSets (l : LaunchRec) (x : ImageInfo) (lo : Nat) (generator : Bool) : List (List Byte) → Check → Check × List (List CfgRecord)
  | [], c => (c, [])
  | p :: r, c =>
    let s0 := checkSet c l x lo generator true (p.take 16)
    let c1 := ([1, 2, 3]).foldl (fun y n => (checkSet y l x lo generator false ((p.drop (16 * n)).take 16)).1) s0.1
    let rest := checkSets l x lo generator r c1
    (rest.1, s0.2 :: rest.2)

/-- A set directory and its blocks (R29). -/
def checkSection (c : Check) (l : LaunchRec) (x : ImageInfo) (o : Nat) (generator : Bool) :
    Check × List (List CfgRecord) :=
  let n := x.hdr.w * x.hdr.h
  if !x.inside o (64 * n) then (c.want false 0x04, [])
  else
    match c.read l o (64 * n) with
    | (none, c1) => (c1, [])
    | (some bs, c1) => checkSets l x (o + 64 * n) generator ((List.range n).map fun i => (bs.drop (64 * i)).take 64) c1

/-- The records of a section with a 64-byte header whose count takes `nb` bytes (R30, R251). -/
def checkRecords (c : Check) (l : LaunchRec) (x : ImageInfo) (o nb size : Nat) : Check × List (List Byte) :=
  if !x.inside o 64 then (c.want false 0x04, [])
  else
    match c.read l o 64 with
    | (none, c1) => (c1, [])
    | (some h, c1) =>
      let n := field h 0 nb
      let c2 := c1.want (field h nb (64 - nb) = 0) 0x02
      if !x.inside (o + 64) (size * n) then (c2.want false 0x04, [])
      else
        match c2.read l (o + 64) (size * n) with
        | (none, c3) => (c3, [])
        | (some bs, c3) => (c3, (List.range n).map fun i => (bs.drop (size * i)).take size)

/-- Pairs of a list, each with an earlier element. -/
def anyPair {α : Type} (f : α → α → Bool) : List α → Bool
  | [] => false
  | a :: r => r.any (f a) || anyPair f r

/-- The engine section (R30). -/
def checkEngines (c : Check) (l : LaunchRec) (x : ImageInfo) : Check × ImageInfo :=
  let r := checkRecords c l x (x.ofs.getD 1 0) 4 80
  let es := r.2.map fun b =>
    (⟨field b 0 1, field b 1 1, field b 2 1 % 4, wordsOf ((b.drop 16).take (4 * field b 3 1)) (field b 3 1)⟩ : EngineRec)
  let c1 := r.1.want (r.2.all fun b =>
    field b 2 1 < 4 && field b 4 12 = 0 && field b (16 + 4 * field b 3 1) (64 - 4 * field b 3 1) = 0) 0x02
  let c2 := c1.want ((es.all fun e => e.rx < x.hdr.w && e.ry < x.hdr.h && 1 ≤ e.words.length && e.words.length ≤ 16) &&
    !anyPair (fun a b => a.rx = b.rx && a.ry = b.ry && a.e = b.e) es) 0x0A
  (c2, { x with engines := es })

/-- The queue configuration of a position: endpoint, then DIR, slots and first slot of its QCFG (R250). -/
def ImageInfo.qcfgs (x : ImageInfo) (rx ry : Nat) : List (Nat × Bool × Nat × Nat) :=
  ((x.cfg.getD (x.posIndex rx ry) []).filter fun r => r.kind = 6).flatMap fun r =>
    (List.range r.count).filterMap fun i =>
      let w := r.wordAt i 0
      if isQcfg w then some (r.first + i, wbit w 26, wbits w 25 22 + 1, wbits w 21 15) else none

/-- Whether two byte ranges meet. -/
def meets (a n b k : Nat) : Bool := a < b + k && b < a + n

/-- The data section (R30). Bytes of a record that lie in the image but not behind the section's records are refused
with cause 0x0A. DESIGN CHOICE (notes/assumptions/101.md). -/
def checkData (c : Check) (l : LaunchRec) (x : ImageInfo) : Check × ImageInfo :=
  let o := x.ofs.getD 5 0
  let r := checkRecords c l x o 4 16
  let behind (d : DataRec) : Bool := o + 64 + 16 * r.2.length ≤ d.dofs
  let ds := r.2.map fun b =>
    (⟨field b 0 1, field b 1 1, field b 2 1 = 1, bitOf (field b 3 1) 0, field b 4 4, field b 8 4, field b 12 4⟩ : DataRec)
  let c1 := r.1.want (r.2.all fun b => field b 3 1 < 2) 0x02
  let c2 := c1.want (ds.all fun d => d.dofs % 64 = 0 && x.inside d.dofs d.len) 0x04
  let near (a b : Nat) : Bool := a ≤ b + 1 && b ≤ a + 1
  let clash (a b : DataRec) : Bool :=
    a.vault = b.vault && meets a.ofs a.len b.ofs b.len &&
      (if a.vault then near a.rx b.rx && near a.ry b.ry else a.rx = b.rx && a.ry = b.ry)
  let good (d : DataRec) : Bool :=
    d.rx < x.hdr.w && d.ry < x.hdr.h && d.ofs % 64 = 0 && d.len != 0 && d.len % 64 = 0 &&
      d.ofs + d.len ≤ (if d.vault then x.hdr.vault else x.hdr.spad) &&
      (d.vault || !(x.qcfgs d.rx d.ry).any fun q => meets d.ofs d.len (q.2.2.2 * 4096) (q.2.2.1 * 4096))
  (c2.want ((ds.all good) && (ds.all behind) && (r.2.all fun b => field b 2 1 < 2) && !anyPair clash ds) 0x0A, { x with data := ds })

/-- The binding section (R251), as far as its records show. -/
def checkBindings (c : Check) (l : LaunchRec) (x : ImageInfo) : Check × ImageInfo :=
  let r := checkRecords c l x (x.ofs.getD 4 0) 2 16
  let end_ (b : List Byte) (o : Nat) : QueueEnd := ⟨field b o 1, field b (o + 1) 1, field b (o + 2) 1, field b (o + 3) 1 % 8⟩
  let bs := r.2.map fun b => (end_ b 0, end_ b 4)
  let ends := bs.flatMap fun b => [b.1, b.2]
  let c1 := r.1.want (r.2.all fun b => field b 3 1 < 8 && field b 7 1 < 8 && field b 8 8 = 0) 0x02
  let c2 := c1.want ((ends.all fun e => e.rx < x.hdr.w && e.ry < x.hdr.h && e.part < x.hdr.parts) &&
    !anyPair (fun a b => a = b) ends) 0x09
  let links := bs.filterMap fun b => if b.1.part = b.2.part then none else some (b.1.part, b.2.part)
  (c2, { x with bindings := bs, hdr := { x.hdr with links := links } })

/-- The image of a launch: causes 0x01 to 0x05 and 0x08 to 0x0C as its structure shows them (R28, R45 point 1). -/
def checkImage (s : State) (l : LaunchRec) : Check × Option ImageInfo :=
  match ({ s := s, causes := [], busy := false } : Check).read l 0 128 with
  | (none, c) => (c, none)
  | (some h, c) =>
    if field h 0 4 ≠ 0x47565A31 ∨ field h 4 2 ≠ 1 then (c.want false 0x01, none)
    else
      let hdr : ImageHdr :=
        { w := field h 0x0C 1, h := field h 0x0D 1, parts := field h 0x0E 2,
          latency := (List.range 16).map fun i => field h (0x10 + i) 1, msMax := field h 0x20 8,
          spad := field h 0x28 4, vault := field h 0x2C 4 }
      let x : ImageInfo :=
        { hdr := hdr, length := field h 8 4, ofs := headerOffsets h, dir := [], cfg := [], engines := [], data := [],
          bindings := [] }
      let c1 := c.want (field h 6 2 = 0 && field h 0x60 32 = 0) 0x02
      let c2 := c1.want (1 ≤ hdr.w && hdr.w ≤ 32 && 1 ≤ hdr.h && hdr.h ≤ 28 && 1 ≤ hdr.parts && hdr.parts ≤ 256) 0x03
      let c3 := c2.want (x.length % 64 = 0 && x.ofs.all fun o => o % 64 = 0) 0x04
      let c4 := c3.want (hdr.msMax % 4096 = 0 && hdr.msMax ≤ 2 ^ 28 && hdr.spad % 2 ^ 14 = 0 && hdr.spad ≤ 2 ^ 19 &&
        hdr.vault % 2 ^ 16 = 0 && hdr.vault ≤ 2 ^ 21) 0x05
      let d := checkDir c4 l x
      let a := checkSection d.1 l x (x.ofs.getD 3 0) true
      let g := checkSection a.1 l x (x.ofs.getD 2 0) false
      let sets := (List.range (hdr.w * hdr.h)).map fun i => a.2.getD i [] ++ g.2.getD i []
      let e := checkEngines g.1 l { d.2 with cfg := sets }
      let q := checkBindings e.1 l e.2
      let t := checkData q.1 l q.2
      (t.1, some t.2)

/-! Whether the region can ever fit (R32, R326). -/

/-- Whether the rectangle at an origin lies in quads that the partition owns. -/
def Partition.ownsRect (p : Partition) (dev ox oy w h : Nat) : Bool :=
  ox + w ≤ 32 && oy + h ≤ 28 &&
    (List.range h).all fun y => (List.range w).all fun x =>
      p.quads.contains (quadKey (planeTile dev (ox + x) (oy + y)))

/-- Every origin, row by row (R325, key 4). -/
def originsOf : List (Nat × Nat) := (List.range 28).flatMap fun oy => (List.range 32).map fun ox => (ox, oy)

/-- Whether a device could hold a part with every slot free. -/
def Partition.canHold (p : Partition) (dev : Nat) (h : ImageHdr) : Bool :=
  originsOf.any fun o => p.ownsRect dev o.1 o.2 h.w h.h

/-- Causes 0x10 to 0x12. -/
def State.fitCauses (s : State) (part : Nat) (h : ImageHdr) : List Nat :=
  let p := s.partition part
  let ok := p.devices.filter fun d => p.canHold d h
  let rich := ok.filter fun d => h.msMax ≤ ((s.device d).pol part).msq * 4096
  if ok = [] then [0x10] else if ok.length < h.parts then [0x11] else if rich.length < h.parts then [0x12] else []

/-! The words that the dies check (R45 point 3, R159, R250, R268, R281). -/

/-- The queue endpoints of a position as bound: what an array word that names one is checked against. -/
def ImageInfo.queuesAt (x : ImageInfo) (rx ry : Nat) : SMap Queue :=
  (x.qcfgs rx ry).foldl (fun (m : SMap Queue) q =>
    SMap.put {} m q.1 { bound := true, ingress := q.2.1, dm1 := BitVec.ofNat 4 (q.2.2.1 - 1),
                        base := BitVec.ofNat 7 q.2.2.2 }) []

/-- Causes 0x08 and 0x09 of the records of one position. A malformed record or word of a queue endpoint has cause 0x09.
DESIGN CHOICE (notes/assumptions/101.md). -/
def lateWords (qs : SMap Queue) (rs : List CfgRecord) : List Nat :=
  let m := rs.foldl (fun a r => r.write a) []
  let earlier (k : Nat) : List (Nat × Nat) := (rs.take k).flatMap fun r => r.units.map fun u => (r.kind, u)
  (rs.zipIdx).flatMap fun r =>
    if (r.1.bad m qs [0, 1, 2, 3, 4, 5, 6] []).isSome then [if r.1.kind = 6 then 0x09 else 0x08]
    else if r.1.units.any fun u => (earlier r.2).contains (r.1.kind, u) then [0x08] else []

/-- Causes 0x09 of endpoints and records that do not match. -/
def ImageInfo.lateQueues (x : ImageInfo) : List Nat :=
  let holds (e : QueueEnd) (ingress : Bool) : Bool := (x.qcfgs e.rx e.ry).any fun q => q.1 = e.q && q.2.1 == ingress
  let named (rx ry q part : Nat) : Bool := x.bindings.any fun b => b.1 = ⟨rx, ry, part, q⟩ || b.2 = ⟨rx, ry, part, q⟩
  let positions := (List.range x.hdr.h).flatMap fun y => (List.range x.hdr.w).map fun c => (c, y)
  let cfgOk := positions.all fun c => (x.qcfgs c.1 c.2).all fun q =>
    (q.2.2.2 + q.2.2.1) * 4096 ≤ x.hdr.spad && (List.range x.hdr.parts).all fun p => named c.1 c.2 q.1 p
  if cfgOk && x.bindings.all fun b => holds b.1 false && holds b.2 true then [] else [0x09]

/-- The lowest cause that the dies would report, or 0. -/
def ImageInfo.lateCause (x : ImageInfo) : Nat :=
  let words := (List.range (x.hdr.w * x.hdr.h)).flatMap fun i =>
    lateWords (x.queuesAt (i % x.hdr.w) (i / x.hdr.w)) (x.cfg.getD i [])
  let tables := if x.engines.all fun e => e.words.all saddleWordOk then [] else [0x0A]
  ((words ++ x.lateQueues ++ tables).min?).getD 0

/-! The check when a record enters a queue (R45 point 1). -/

/-- Whether IMAGE can name an image at all; where it cannot, no cause of the image holds (DEDUCED: R26, R45). -/
def LaunchRec.imageOk (l : LaunchRec) : Bool := l.image.toNat % 4096 = 0 && l.image.toNat < 2 ^ 56

/-- Whether a launch record is well formed (R35). -/
def LaunchRec.recordOk (l : LaunchRec) : Bool :=
  l.reserved = 0 && l.imageOk && l.done.toNat % 64 = 0 && l.done.toNat < 2 ^ 56 && (l.group = 0 || (1 ≤ l.gsize && l.gsize ≤ 4096))

/-- STATUS and DETAIL of a list of causes, the lowest code first; nothing without a cause.
DEDUCED (notes/assumptions/42.md). -/
def refusalOf (causes : List Nat) : Option (Nat × Nat) :=
  (causes.min?).map fun c => (if 0x10 ≤ c then 3 else 2, c)

/-- The outcome of the check at the queue. -/
inductive Entry where
  | accept (l : LaunchRec) (s : State)
  | attest (s : State)
  | refuse (status detail : Nat) (s : State)
  | busy (s : State)

def State.checkLaunch (s : State) (l : LaunchRec) : Entry :=
  if l.image = 0 then
    let causes := (if l.recordOk then [] else [0x06]) ++ if l.trusted then [] else [0x0B]
    match refusalOf causes with
    | some r => .refuse r.1 r.2 s
    | none => .attest s
  else
    let c := checkImage s l
    if !l.imageOk then .refuse 2 0x06 s
    else if c.1.busy then .busy c.1.s
    else
      let own := if l.recordOk then [] else [0x06]
      let fit := match c.2 with | some x => s.fitCauses l.part x.hdr | none => []
      match refusalOf (own ++ c.1.causes ++ fit), c.2 with
      | some r, _ => .refuse r.1 r.2 c.1.s
      | none, some x => .accept { l with hdr := x.hdr } c.1.s
      | none, none => .busy s

end Sys2Proof.Machine
end

