-- ==== Sys2Proof/Machine/Place.lean ====
section
/-!
DEFINITION. Placement of graphs (R31, R325 to R327, R330, R384): what placed regions and reservations hold, whether a
part fits at an origin, the order among candidates, and the clock spine that a placed tile selects.
-/

namespace Sys2Proof.Machine

/-! Orders. -/

/-- Lexicographic order of keys. -/
def lexLess : List Nat → List Nat → Bool
  | a :: r, b :: t => a < b || (a = b && lexLess r t)
  | _, _ => false

/-- The first candidate whose key no other candidate's is below. -/
def pickLow {α : Type} (key : α → List Nat) : List α → Option α
  | [] => none
  | a :: r =>
    match pickLow key r with
    | none => some a
    | some b => if lexLess (key b) (key a) then some b else some a

/-! Rectangles. -/

/-- Plane column and row of a tile. -/
def planeX (tile : Nat) : Nat := tileDie tile % 2 * 16 + tileX tile
def planeY (tile : Nat) : Nat := tileDie tile / 2 * 14 + tileY tile

/-- Tiles of a part, row by row. -/
def Holding.tiles (h : Holding) : List Nat :=
  (List.range h.h).flatMap fun y => (List.range h.w).map fun x => planeTile h.dev (h.ox + x) (h.oy + y)

/-- Quads that a part touches. -/
def Holding.quads (h : Holding) : List Nat := (h.tiles.map quadKey).dedup

/-- Dies that a part touches. -/
def Holding.dies (h : Holding) : List Nat := (h.tiles.map tileDie).dedup

/-- Die crossings of a rectangle (R325). -/
def Holding.crossings (h : Holding) : Nat :=
  (if h.ox ≤ 15 ∧ 16 < h.ox + h.w then 1 else 0) + (if h.oy ≤ 13 ∧ 14 < h.oy + h.h then 1 else 0)

/-! What is taken. -/

def Region.holding (r : Region) (part : Nat) (o : Origin) : Holding :=
  ⟨part, o.dev, r.slot, o.ox, o.oy, r.w, r.h, r.spadBytes, r.vaultBytes, r.spadUnits, r.vaultUnits, r.baseCode, r.msMax⟩

def Region.holdings (r : Region) : List Holding :=
  if r.state = .saved then [] else (r.origins.zipIdx).map fun c => r.holding c.2 c.1

/-- Parts that placed regions and answered reservations hold. -/
def State.holdings (s : State) : List Holding :=
  (s.regions.flatMap fun c => match c.2 with | some r => r.holdings | none => []) ++
    s.reservations.filterMap fun v => match v.answer with | .placed h => some h | _ => none

/-- The lowest `n` of `limit` units that are not used, if so many are free. -/
def freeUnits (used : List Nat) (n limit : Nat) : Option (List Nat) :=
  let l := ((List.range limit).filter fun u => !used.contains u).take n
  if l.length = n then some l else none

/-- Units of a tile's scratchpad, and of a quad's vault, that are taken. -/
def spadUsed (hs : List Holding) (tile : Nat) : List Nat := hs.flatMap fun h => SMap.get [] h.spadUnits tile
def vaultUsed (hs : List Holding) (quad : Nat) : List Nat := hs.flatMap fun h => SMap.get [] h.vaultUnits quad

/-- Units for every key, or nothing where one of them has too few. -/
def unitsFor (free : Nat → Option (List Nat)) : List Nat → Option (SMap (List Nat))
  | [] => some []
  | k :: r =>
    match free k, unitsFor free r with
    | some b, some m => some (SMap.put [] m k b)
    | _, _ => none

/-- The must-save charge of a partition on a device (R326), but for one region and one launch. -/
def State.msCharge (s : State) (part dev : Nat) (rid : Option Nat) (n : Nat) : Nat :=
  let sum (l : List Nat) : Nat := l.foldl (fun a b => a + b) 0
  sum (s.regions.map fun c => match c.2 with
    | some r => if some c.1 != rid && r.launch.part = part && r.origins.any (fun o => o.dev = dev) then r.msMax else 0
    | none => 0) +
  sum (s.doneRetry.map fun d =>
    if (s.region d.rid).isNone && d.launch.part = part && d.devs.contains dev then d.launch.hdr.msMax else 0) +
  sum (s.reservations.map fun v => match v.answer with
    | .placed h => if v.bid.launch.part = part && v.dev = dev && v.bid.launch.n != n then h.ms else 0
    | _ => 0)

/-! Spines (R384). -/

def Device.spineCode (d : Device) (die i : Nat) : Nat := SMap.get 0 d.spines (die * 8 + i)

/-- Whether a tile of the device selects a spine, now or from the next boundary on. -/
def Device.spineUsed (d : Device) (die i : Nat) : Bool :=
  (d.tileSpine ++ d.spineNext).any fun c => c.1 / 224 = die && c.2 = i + 1

/-- Whether a spine is boosted: a region on spines of its own selects it. -/
def State.spineBoosted (s : State) (dev die i : Nat) : Bool :=
  let d := s.device dev
  s.regions.any fun c => match c.2 with
    | some r =>
      r.state != .saved && r.lease.onSpine && r.keys.any fun k =>
        keyDev k = dev && tileDie (keyTile k) = die && SMap.get 0 d.tileSpine (tileIndex (keyTile k)) = i + 1
    | none => false

/-- Appends to the trace ring of a tile's quad (R388). -/
def Device.addTrace (d : Device) (tile time code spine why : Nat) : Device :=
  let k := tileDie tile * 64 + tileQuad tile
  let n := SMap.get 0 d.traceNext k
  let e : TraceEntry := ⟨time, code, tileX tile % 2 + 2 * (tileY tile % 2), spine, why, n⟩
  let l := (SMap.get [] d.trace k).filter fun o => o.idx != n
  { d with trace := SMap.put [] d.trace k (l ++ [e]), traceNext := SMap.put 0 d.traceNext k ((n + 1) % 256) }

/-- The spine that a tile selects, plus 1, as the next boundary leaves it; 0 for none. -/
def Device.selected (d : Device) (i : Nat) : Nat :=
  if SMap.get 0 d.spineNext i = 0 then SMap.get 0 d.tileSpine i else SMap.get 0 d.spineNext i

/-- Whether a tile runs on the spine of a granted lease. -/
def State.tileBoosted (s : State) (tile : Nat) : Bool :=
  s.regions.any fun c => match c.2 with
    | some r => r.lease.onSpine && r.held.any fun k => keyTile k = tile
    | none => false

/-- Tiles that must run at one code with some tiles: a tile runs on one spine, and a region at one code (R23), so that the
tiles of every region that holds one of them belong to them, in `n` rounds. -/
def State.tileMates (s : State) : Nat → List Nat → List Nat
  | 0, ts => ts
  | n + 1, ts => s.tileMates n ((ts ++ s.regions.flatMap fun c => match c.2 with
      | some r => let l := r.held.map keyTile; if l.any fun t => ts.contains t then l else []
      | none => []).dedup)

/-- The code that they run at: the least of the base codes. -/
def State.mateCode (s : State) (ts : List Nat) (code : Nat) : Nat :=
  s.regions.foldl (fun a c => match c.2 with
    | some r => if r.held.any fun k => ts.contains (keyTile k) then min a r.baseCode else a
    | none => a) code

/-- Spines of a die that no tile selects. -/
def Device.freeSpines (d : Device) (die : Nat) : List Nat := (List.range 8).filter fun i => !d.spineUsed die i

/-- A spine of a die that tiles run on at a code, boosted spines apart. -/
def State.runningSpine (s : State) (dev die code : Nat) : Option Nat :=
  (List.range 8).find? fun i =>
    (s.device dev).spineCode die i = code && (s.device dev).spineUsed die i && !s.spineBoosted dev die i

/-- Codes for which answered reservations hold a free spine of a die (R327). -/
def State.spinesHeld (s : State) (dev die : Nat) : List Nat :=
  (s.reservations.filterMap fun v => match v.answer with
    | .placed h => if h.dev = dev ∧ h.dies.contains die = true ∧ s.runningSpine dev die h.code = none then some h.code else none
    | _ => none).dedup

/-- Whether a die offers a spine for a code: one that runs it, or a free one that no reservation holds for another code. -/
def State.spineOffered (s : State) (dev die code : Nat) : Bool :=
  (s.runningSpine dev die code).isSome ||
    decide (((s.spinesHeld dev die).filter fun c => c != code).length < ((s.device dev).freeSpines die).length)

/-- The spine of a die for a base code: one that tiles already run on at that code, else a free one. -/
def State.spineFor (s : State) (dev die code : Nat) : Option Nat :=
  if (s.runningSpine dev die code).isSome then s.runningSpine dev die code else ((s.device dev).freeSpines die).head?

/-- The tiles of a placed graph select, on each of its dies, a spine that runs the base code, or a free one that is set to it,
from the next interval boundary on (R384), and tiles of graphs that share tiles with it go with them. Tiles on such a spine
already keep it. DEDUCED (notes/assumptions/56.md). -/
def State.selectSpines (s : State) (hs : List Holding) : State :=
  let ts := s.tileMates (s.regions.length + 1) (hs.flatMap Holding.tiles)
  let code := s.mateCode ts ((hs.map fun h => h.code).headD 0)
  ((ts.map fun t => (tileDev t, tileDie t)).dedup).foldl (fun x die =>
    let d := x.device die.1
    let mine := ts.filter fun t => (tileDev t, tileDie t) = die
    let own := mine.findSome? fun t =>
      let k := d.selected (tileIndex t)
      if k ≠ 0 ∧ d.spineCode die.2 (k - 1) = code then some (k - 1) else none
    match (if own.isSome then own else x.spineFor die.1 die.2 code) with
    | some i => x.setDevice die.1 { d with
        spineNext := mine.foldl (fun m t =>
          if d.selected (tileIndex t) = i + 1 then m else SMap.put 0 m (tileIndex t) (i + 1)) d.spineNext
        spines := SMap.put 0 d.spines (die.2 * 8 + i) code }
    | none => x) s

/-! Candidates (R325). -/

/-- What a part needs: the bid's partition, header, base code, the must-save charge already held elsewhere on the
device, and for a restore with vault space the parities of the origin that it left, where they matter, so that each quad's
allocation stays together (R141, R318). DEDUCED (notes/assumptions/46.md). -/
structure Need where
  part : Nat
  hdr : ImageHdr
  code : Nat
  rid : Option Nat
  n : Nat
  image : Dword
  parity : Option (Option Nat × Option Nat)

/-- A part at an origin, if it fits there. A tile on the spine of a granted lease takes no other region (R23, R384).
DEDUCED (notes/assumptions/56.md). -/
def State.placeAt (s : State) (hs : List Holding) (d : Need) (idx dev slot ox oy : Nat) : Option Holding :=
  let p := s.partition d.part
  let h : Holding := ⟨idx, dev, slot, ox, oy, d.hdr.w, d.hdr.h, d.hdr.spad, d.hdr.vault, [], [], d.code, d.hdr.msMax⟩
  let fits := (match d.parity with | some q => q.1.all (fun k => ox % 2 = k) && q.2.all (fun k => oy % 2 = k) | none => true) &&
    p.ownsRect dev ox oy h.w h.h &&
    (hs.all fun o => !(o.dev = dev && o.slot = slot && meets o.ox o.w ox h.w && meets o.oy o.h oy h.h)) &&
    (h.tiles.all fun t => !s.tileBoosted t) &&
    h.dies.all fun k => s.spineOffered dev k (s.mateCode (s.tileMates (s.regions.length + 1) h.tiles) d.code)
  if !fits then none
  else
    match unitsFor (fun t => freeUnits (spadUsed hs t) (h.spad / 2 ^ 14) 32) h.tiles,
        unitsFor (fun q => freeUnits (vaultUsed hs q) (h.vault / 2 ^ 16) 32) h.quads with
    | some a, some b => some { h with spadUnits := a, vaultUnits := b }
    | _, _ => none

/-- What was kept of an image with the tag of a slot, where the tag names it and the slot holds the words of a position. -/
def State.keptInfo (s : State) (key part : Nat) (image : Dword) (rx ry : Nat) : Option ImageInfo :=
  (SMap.get none s.residency key).bind fun v =>
    if v.part = part ∧ v.image = image ∧ v.rx = rx ∧ v.ry = ry then some v.info else none

/-- Whether the words of an image occupy the slot on every tile of a part, each tile those of its own position (R330).
DEDUCED (notes/assumptions/50.md). -/
def State.isResident (s : State) (h : Holding) (part : Nat) (image : Dword) : Bool :=
  (List.range h.h).all fun y => (List.range h.w).all fun x =>
    (s.keptInfo (planeTile h.dev (h.ox + x) (h.oy + y) * 4 + h.slot) part image x y).isSome

/-- The score of a part (R325, key 2). -/
def State.score (s : State) (h : Holding) (part holder : Nat) : Nat :=
  let d := s.device h.dev
  let p := (s.device holder).pol part
  p.wearW * (h.quads.map fun q => (SMap.get {} d.wear (q % 224 / 56 * 64 + q % 56)).wear.toNat).foldl
    (fun (a : Nat) b => a + b) 0 + p.xpen * h.crossings

/-- Whether a device can be chosen for a part at all. -/
def State.canTake (s : State) (d : Need) (dev : Nat) : Bool :=
  let p := s.partition d.part
  p.devices.contains dev && p.admitted.contains dev && (s.device dev).module = .up &&
    s.msCharge d.part dev d.rid d.n + d.hdr.msMax ≤ ((s.device dev).pol d.part).msq * 4096

/-- The places of a part in a slot of a device. -/
def State.placesIn (s : State) (hs : List Holding) (d : Need) (idx dev slot : Nat) : List Holding :=
  if s.canTake d dev then originsOf.filterMap fun o => s.placeAt hs d idx dev slot o.1 o.2 else []

/-- The best of some places by keys 2 and 4 of R325. -/
def State.lowestScore (s : State) (d : Need) (holder : Nat) (l : List Holding) : Option Holding :=
  pickLow (fun h => [s.score h d.part holder, h.oy, h.ox]) l

/-- The places whose words are resident. -/
def State.residentOnly (s : State) (d : Need) (l : List Holding) : List Holding :=
  l.filter fun h => s.isResident h d.part d.image

/-- The best place for a part in a slot of a device. -/
def State.bestIn (s : State) (hs : List Holding) (d : Need) (idx dev slot holder : Nat) : Option Holding :=
  let l := s.placesIn hs d idx dev slot
  match s.lowestScore d holder (s.residentOnly d l) with
  | some h => some h
  | none => s.lowestScore d holder l

/-- Devices of a partition in order of hops from one device, then of DEV. DEDUCED (notes/assumptions/44.md). -/
def Partition.near (p : Partition) (dev : Nat) : List Nat :=
  (List.range 13).flatMap fun k => (List.range 256).filter fun d => p.devices.contains d && (route dev d).length = k

/-- Places for `n` further parts on devices of a list, in its order, so that `ok` holds of all of them: the first devices
that can hold a part, or later ones where those do not do. -/
def takeParts (best : Nat → Nat → Option Holding) (ok : List Holding → Bool) : Nat → Nat → List Holding → List Nat →
    Option (List Holding)
  | 0, _, l, _ => if ok l then some l else none
  | _ + 1, _, _, [] => none
  | n + 1, idx, l, dev :: r =>
    match best idx dev with
    | some h =>
      (match takeParts best ok n (idx + 1) (l ++ [h]) r with
      | some x => some x
      | none => takeParts best ok (n + 1) idx l r)
    | none => takeParts best ok (n + 1) idx l r

/-- The places of all parts where each has a resident one on the device that it was given (R325, key 1). -/
def State.allResident (s : State) (hs : List Holding) (d : Nat → Need) (holder : Nat) : List Holding → Option (List Holding)
  | [] => some []
  | h :: l =>
    match s.lowestScore (d h.part) holder
        (s.residentOnly (d h.part) (s.placesIn hs (d h.part) h.part h.dev h.slot)), s.allResident hs d holder l with
    | some a, some r => some (a :: r)
    | _, _ => none

/-- The best candidate of a bid in one slot with part 0 on a device: one that is resident in all its parts, else the one of
the lowest score. Every binding between parts finds a lane group (R251). -/
def State.candidateIn (s : State) (hs : List Holding) (d : Nat → Need) (parts holder dev slot : Nat) :
    Option (List Holding) :=
  let p := s.partition (d 0).part
  let best (idx k : Nat) : Option Holding := s.lowestScore (d idx) holder (s.placesIn hs (d idx) idx k slot)
  let ok (l : List Holding) : Bool := (s.holdLinks (d 0).n (l.map Holding.dev) 0 (d 0).hdr.links).isSome
  match best 0 dev with
  | some h =>
    (takeParts best ok (parts - 1) 1 [h] ((p.near dev).filter fun k => k != dev)).map fun l =>
      (s.allResident hs d holder l).getD l
  | none => none

/-- The best candidate of a bid (R325): part 0 lies on the bid's device where that device can take it in any slot, else on
the nearest one that can. DEDUCED (notes/assumptions/45.md). -/
def State.candidate (s : State) (d : Nat → Need) (parts holder : Nat) : Option (List Holding) :=
  let hs := s.holdings
  let d0 := d 0
  ((s.partition d0.part).near holder).findSome? fun dev =>
    pickLow (fun l =>
        [if l.all fun h => s.isResident h d0.part d0.image then 0 else 1,
          (l.map fun h => s.score h d0.part holder).foldl (fun (a : Nat) b => a + b) 0] ++
          (l.map fun h => h.slot).take 1)
      ((List.range 4).filterMap fun slot => s.candidateIn hs d parts holder dev slot)

end Sys2Proof.Machine
end

