-- ==== Sys2Proof/Machine/Sched.lean ====
section
/-!
DEFINITION. The scheduler (R320 to R332, R36, R43 to R54): launch queues, rounds, reservations, the start of a graph and
its end.
-/

namespace Sys2Proof.Machine

/-! Refusals and records of launches that have no region. -/

/-- The completion record of a launch that never ran (R44, R45): CTX_ID 0 and no energy. The manual gives no value for
its times. DEDUCED (notes/assumptions/43.md). -/
def State.endLaunch (s : State) (l : LaunchRec) (status detail : Nat) : State :=
  let a := s.draw
  let b := a.2.draw
  b.2.writeDone { rid := 0, launch := l, bytes := completionRecord status detail 0 a.1.toNat b.1.toNat [], devs := []
                  admission := 0, saveset := [], ctx := 0 }

/-- Removes a record from its queue. -/
def State.dequeue (s : State) (l : LaunchRec) : State :=
  let d := s.device l.dev
  s.setDevice l.dev (d.setQueue l.part l.prio ((d.queue l.part l.prio).filter fun r => r.n != l.n))

/-- LAUNCH_ENQUEUE (R320, R45): the oldest record on its way to a device enters its queue, or is refused; one without an
image asks for an attestation (R411). It waits while its queue is full. -/
def execLaunchEnqueue (dev : Nat) (s : State) : Res State :=
  .next <|
    match s.arrivals.find? fun r => r.dev = dev with
    | none => s
    | some l =>
      let d := s.device dev
      let s0 := { s with arrivals := s.arrivals.erase l }
      if d.module ≠ .up ∨ 64 ≤ (d.queue l.part l.prio).length then s
      else
        match s0.checkLaunch l with
        | .busy s1 => { s1 with arrivals := s.arrivals }
        | .attest s1 => { s1 with attestations := s1.attestations ++ [l] }
        | .refuse st c s1 => s1.endLaunch l st c
        | .accept r s1 =>
          let d1 := s1.device dev
          s1.setDevice dev (d1.setQueue l.part l.prio (d1.queue l.part l.prio ++ [{ r with arrival := s1.now }]))

/-! Groups (R54). -/

def State.group (s : State) (part g : Nat) : GroupRec := SMap.get {} s.groups (part * 2 ^ 14 + g)

/-- Whether a launch's group refuses it. -/
def State.groupRefuses (s : State) (l : LaunchRec) : Bool :=
  let g := s.group l.part l.group
  l.group != 0 && g.gsize != 0 && (g.gsize != l.gsize || l.gsize ≤ g.admitted.length)

/-- An admitted graph joins its group. -/
def State.joinGroup (s : State) (l : LaunchRec) (rid : Nat) : State :=
  if l.group = 0 then s
  else
    let g := s.group l.part l.group
    let g1 : GroupRec := { g with gsize := l.gsize, admitted := g.admitted ++ [rid] }
    { s with groups := SMap.put {} s.groups (l.part * 2 ^ 14 + l.group) g1 }

/-- Refuses the heads of a queue that their groups refuse. -/
def State.checkHeads (s : State) (dev part prio : Nat) : Nat → State
  | 0 => s
  | fuel + 1 =>
    match (s.device dev).queue part prio with
    | l :: _ => if s.groupRefuses l then ((s.dequeue l).endLaunch l 2 0x07).checkHeads dev part prio fuel else s
    | [] => s

/-! Bids (R321, R322). -/

/-- Bids that a device holds for a partition. -/
def State.bids (s : State) (dev part : Nat) : List Bid :=
  ((List.range 8).filterMap fun prio =>
    match (s.device dev).queue part prio with
    | l :: _ => some ⟨l, none, l.arrival, l.bypass, l.blocking⟩
    | [] => none) ++
  s.regions.filterMap fun c => match c.2 with
    | some r =>
      if r.state = .saved && r.due && r.launch.dev = dev && r.launch.part = part then
        some ⟨r.launch, some c.1, r.preempted, r.bypass, r.blocking⟩
      else none
    | none => none

/-- The keys of R322; bids that they leave equal go in the order of their launches.
DEDUCED (notes/assumptions/45.md). -/
def Bid.key (b : Bid) : List Nat :=
  [if b.blocking then 0 else 1, 7 - b.launch.prio, if b.rid.isSome then 0 else 1, b.time, b.launch.n]

/-- A bid, or a reservation to be answered here. -/
structure Ranked where
  bid : Bid
  /-- part and slot of the reservation -/
  res : Option (Nat × Nat)

def insertRanked (b : Ranked) : List Ranked → List Ranked
  | [] => [b]
  | a :: r => if lexLess b.bid.key a.bid.key then b :: a :: r else a :: insertRanked b r

def rankAll (l : List Ranked) : List Ranked := l.foldl (fun a b => insertRanked b a) []

/-- What a bid needs for a part. DEDUCED (notes/assumptions/49.md). -/
def State.needOf (s : State) (b : Bid) (idx : Nat) : Need :=
  match b.rid with
  | none => ⟨b.launch.part, b.launch.hdr, ((s.device b.launch.dev).pow b.launch.part).base, none, b.launch.n,
      b.launch.image, none⟩
  | some rid =>
    match s.region rid with
    | some r => ⟨b.launch.part, b.launch.hdr, r.baseCode, some rid, b.launch.n, b.launch.image,
        if r.vaultBytes = 0 then none else (r.origins[idx]?).map fun o =>
          ⟨if r.w = 1 then none else some (o.ox % 2), if r.h = 1 then none else some (o.oy % 2)⟩⟩
    | none => ⟨b.launch.part, b.launch.hdr, 0, some rid, b.launch.n, b.launch.image, none⟩

def State.bidCandidate (s : State) (b : Bid) : Option (List Holding) :=
  s.candidate (s.needOf b) b.launch.hdr.parts b.launch.dev

/-! Admission. -/

/-- The units of all parts of a graph. -/
def unionUnits (f : Holding → SMap (List Nat)) (l : List Holding) : SMap (List Nat) :=
  l.foldl (fun a h => (f h).foldl (fun m c => SMap.put [] m c.1 c.2) a) []

/-- The region of a new graph. -/
def newRegion (l : LaunchRec) (hs : List Holding) (ctx adm : Nat) : Region where
  ctxId := BitVec.ofNat 64 ctx
  launch := l
  w := l.hdr.w
  h := l.hdr.h
  parts := l.hdr.parts
  slot := (hs.map fun h => h.slot).headD 0
  origins := hs.map fun h => ⟨h.dev, h.ox, h.oy⟩
  spadBytes := l.hdr.spad
  vaultBytes := l.hdr.vault
  spadUnits := unionUnits Holding.spadUnits hs
  vaultUnits := unionUnits Holding.vaultUnits hs
  msMax := l.hdr.msMax
  admission := adm
  state := .starting
  acks := (hs.map fun h => h.dev).dedup
  restoring := false
  loaded := false
  badWord := 0
  savesetBase := 0
  saveset := []
  lease := {}
  baseCode := (hs.map fun h => h.code).headD 0
  curCode := (hs.map fun h => h.code).headD 0
  tStart := 0
  oi := []
  gateTick := none
  preempted := 0
  due := false
  bypass := 0
  blocking := false
  moved := false
  imageFrames := []
  imageHashes := []
  leaving := false

/-! A context that comes back on other tiles is known by its new keys. -/

def AccId.move (w : AccId) (ctx : Dword) (f : Nat → Nat) : AccId := if w.ctx = ctx then { w with key := f w.key } else w

def LaunchRec.move (l : LaunchRec) (ctx : Dword) (f : Nat → Nat) : LaunchRec :=
  { l with launcher := l.launcher.map fun c => if c.2 = ctx then (f c.1, c.2) else c }

def Flit.move (x : Flit) (ctx : Dword) (f : Nat → Nat) : Flit :=
  match x with
  | .loadReq w d a n b => .loadReq (w.move ctx f) d a n b
  | .loadReply r => .loadReply { r with who := r.who.move ctx f }
  | .atomicReq w d a n op u v => .atomicReq (w.move ctx f) d a n op u v
  | .atomicReply r => .atomicReply { r with who := r.who.move ctx f }
  | .invocation i => .invocation { i with who := i.who.move ctx f }
  | .invResult v => .invResult { v with who := v.who.move ctx f }
  | .storeAck w fl src fa n => .storeAck (w.move ctx f) fl src fa n
  | .pooledReadReq k c a v fa n xf => .pooledReadReq (if c = ctx then f k else k) c a v fa n xf
  | .pooledStore w sec b fill p again => .pooledStore (w.move ctx f) sec b fill p again
  | .pooledReply k c a v b p src fa g xf => .pooledReply (if c = ctx then f k else k) c a v b p src fa g xf
  | .launch h l src => .launch h (l.move ctx f) src
  | .sched m src dst => .sched m src dst
  | .bound b => if b.ctx = ctx then .bound { b with key := f b.key, peer := f b.peer } else .bound b

/-- Renames the thread keys of a context wherever something is on its way to it.
DESIGN CHOICE (notes/assumptions/52.md). -/
def State.moveContext (s : State) (ctx : Dword) (f : Nat → Nat) : State :=
  { s with
    invocations := s.invocations.map fun i => { i with who := i.who.move ctx f }
    results := s.results.map fun i => { i with who := i.who.move ctx f }
    replies := s.replies.map fun i => { i with who := i.who.move ctx f }
    updates := s.updates.map fun u => if u.ctx = ctx then { u with key := f u.key } else u
    flits := s.flits.map fun x => { x with flit := x.flit.move ctx f }
    pooled := s.pooled.map fun c => (c.1, { c.2 with flits := c.2.flits.map fun x => (x.1.move ctx f, x.2) })
    replays := s.replays.map fun e => { e with who := e.who.map fun w => w.move ctx f }
    arrivals := s.arrivals.map fun l => l.move ctx f
    attestations := s.attestations.map fun l => l.move ctx f
    doneRetry := s.doneRetry.map fun d => { d with launch := d.launch.move ctx f }
    regions := s.regions.map fun c => (c.1, c.2.map fun r => { r with launch := r.launch.move ctx f })
    devices := s.devices.map fun c =>
      (c.1, { c.2 with queues := c.2.queues.map fun q => (q.1, q.2.map fun l => l.move ctx f) }) }

/-- The key of the same position in another placement of a region. -/
def Region.rekey (old new : Region) (key : Nat) : Nat :=
  match old.positions.find? fun c => old.keyAt c.1 c.2.1 c.2.2 = key with
  | some c => new.keyAt c.1 c.2.1 c.2.2
  | none => key

/-- The place in a region's new shares of an address in its old ones. -/
def Region.remap (old new : Region) (a : Nat) : Nat :=
  match (old.shares.zip new.shares).find? fun c => c.1.1 ≤ a && a < c.1.1 + c.1.2.2 with
  | some c => c.2.1 + (a - c.1.1)
  | none => a

/-- The sectors that a thread's combining buffer and a stream's write combiner gather follow the shares (R106). -/
def Thread.remap (t : Thread) (f : Nat → Nat) : Thread :=
  { t with cb := t.cb.map fun e => { e with sector := f (e.sector * 64) / 64 }
           places := t.places.map fun c => (c.1, f c.2.1, c.2.2) }
def Slot.remap (x : Slot) (f : Nat → Nat) : Slot :=
  { x with ags := x.ags.map fun c => (c.1, { c.2 with combSector := c.2.combSector.map fun k => f (k * 64) / 64 }) }

/-- A switched-out graph takes its new places: its region leads to them, and what is on its way to it follows. -/
def State.admitRestore (s : State) (rid : Nat) (r : Region) (hs : List Holding) : State :=
  let r1 : Region := { r with
    slot := (hs.map fun h => h.slot).headD 0
    origins := hs.map fun h => ⟨h.dev, h.ox, h.oy⟩
    spadUnits := unionUnits Holding.spadUnits hs
    vaultUnits := unionUnits Holding.vaultUnits hs
    state := .starting, restoring := true, loaded := false, acks := (hs.map fun h => h.dev).dedup
    due := false, bypass := 0, blocking := false, curCode := r.baseCode
    moved := decide (r.origins ≠ hs.map fun h => (⟨h.dev, h.ox, h.oy⟩ : Origin)) }
  let f := r.rekey r1
  let s1 := (s.setRegion rid r1).moveContext r.ctxId f
  match SMap.get none s1.images rid with
  | some im =>
    let g := r.remap r1
    let im1 : Image := { im with
      threads := im.threads.map fun c => (c.1, c.2.map fun t => t.remap g)
      slots := im.slots.map fun c => (c.1, c.2.map fun x =>
        { x.remap g with queues := x.queues.map fun q => (q.1, { q.2 with peerKey := f q.2.peerKey }) }) }
    { s1 with images := SMap.put none s1.images rid (some im1) }
  | none => s1

/-- Admits a bid at its places (R31, R322, R326). -/
def State.admitBid (s : State) (b : Bid) (hs : List Holding) : State :=
  let d := s.device b.launch.dev
  let p := d.pol b.launch.part
  let s0 := s.setDevice b.launch.dev (d.setPol b.launch.part { p with admits := (p.admits + 1) % 2 ^ 32 })
  let s1 := match b.rid with
    | none =>
      let s2 := { s0.dequeue b.launch with
        nextRid := s0.nextRid + 1, nextCtx := s0.nextCtx + 1, nextAdmission := s0.nextAdmission + 1 }
      (s2.setRegion s0.nextRid (newRegion b.launch hs s0.nextCtx s0.nextAdmission)).joinGroup b.launch s0.nextRid
    | some rid =>
      (match s0.region rid with
      | some r => s0.admitRestore rid r hs
      | none => s0)
  { s1 with reservations := s1.reservations.filter fun v => v.bid.launch.n != b.launch.n }.selectSpines hs

/-! Reservations (R327). -/

/-- Sends the reservations of a bid whose parts are not all on its own device, each in a control flit; a part on it is held
at once, and so are the lane groups of the bindings between parts. -/
def State.reserve (s : State) (b : Bid) (hs : List Holding) : State :=
  let vs : List Reservation := hs.map fun h =>
    let own : Bool := h.dev = b.launch.dev
    ⟨b, h.dev, h.part, h.slot, if own then .placed h else .waiting, own, own⟩
  let s1 := (s.holdLinks b.launch.n (hs.map Holding.dev) 0 b.launch.hdr.links).getD s
  (vs.filter fun v => !v.asked).foldl (fun x v => x.send (.sched (.reserve v) b.launch.dev v.dev))
    { s1 with reservations := s1.reservations ++ vs }

/-- Releases the reservations of a launch and the lane groups held for it. -/
def State.release (s : State) (n : Nat) : State :=
  { s.unbindRoutes (linkOf n) with reservations := s.reservations.filter fun v => v.bid.launch.n != n }

/-- Changes the reservation of a part of a launch. -/
def State.onReservation (s : State) (n part : Nat) (f : Reservation → Reservation) : State :=
  { s with reservations := s.reservations.map fun v => if v.bid.launch.n = n ∧ v.part = part then f v else v }

/-- Answers one reservation with a place in its slot, or refuses it; the answer travels back in a control flit.
DEDUCED (notes/assumptions/47.md). -/
def State.answerReservation (s : State) (b : Bid) (dev idx slot : Nat) (blocked : Bool) : State :=
  let a : Answer := if blocked then .refused
    else match s.bestIn s.holdings (s.needOf b idx) idx dev slot b.launch.dev with
      | none => .refused
      | some h => .placed h
  (s.onReservation b.launch.n idx fun v => { v with answer := a }).send
    (.sched (.reserved ⟨b, dev, idx, slot, a, true, true⟩) dev b.launch.dev)

/-! Rounds (R322 to R324). -/

/-- A round under way: the state, whether a blocking bid found no place, and the bids passed over so far, each with
whether it had a place when the round began and whether a bid below it has been admitted. -/
structure Round where
  s : State
  blocked : Bool
  passed : List (Bid × Bool × Bool)

/-- The bids passed over, after an admission below them. -/
def Round.below (r : Round) : List (Bid × Bool × Bool) := r.passed.map fun c => (c.1, c.2.1, true)

/-- A bid that finds no place. -/
def Round.pass (r : Round) (b : Bid) (had : Bool) : Round :=
  { r with blocked := r.blocked || b.blocking, passed := r.passed ++ [(b, had, false)] }

/-- One bid in rank order, whose group is asked again after the admissions above it (R54); `s0` is the state in which the round began. -/
def Round.bid (s0 : State) (r : Round) (b : Bid) : Round :=
  let mine := r.s.reservations.filter fun v => v.bid.launch.n = b.launch.n
  let clear : State := r.s.release b.launch.n
  if b.rid = none ∧ r.s.groupRefuses b.launch = true then
    { r with s := (clear.dequeue b.launch).endLaunch b.launch 2 0x07 }
  else if mine.any fun v => v.back && v.answer = .refused then ({ r with s := clear } : Round).pass b false
  else if mine ≠ [] then
    let hs := mine.filterMap fun v => match v.back, v.answer with | true, .placed h => some h | _, _ => none
    if hs.length = mine.length then
      if r.blocked then { r with s := clear } else { r with s := r.s.admitBid b hs, passed := r.below }
    else { r with blocked := r.blocked || b.blocking }
  else if r.blocked then r
  else
    match r.s.bidCandidate b with
    | none => r.pass b (s0.bidCandidate b).isSome
    | some hs =>
      if hs.all fun h => h.dev = b.launch.dev then { r with s := r.s.admitBid b hs, passed := r.below }
      else { r with s := r.s.reserve b hs, blocked := b.blocking }

/-- One entry of the rank order on device `dev`. -/
def Round.entry (s0 : State) (dev : Nat) (r : Round) (x : Ranked) : Round :=
  match x.res with
  | none => Round.bid s0 r x.bid
  | some (idx, slot) => { r with s := r.s.answerReservation x.bid dev idx slot r.blocked }

/-- Adds a bypass to a bid's count, held at the limit (R323). -/
def State.bypassed (s : State) (b : Bid) (limit : Nat) : State :=
  match b.rid with
  | some rid =>
    (match s.region rid with
    | some r => s.setRegion rid { r with bypass := min (r.bypass + 1) limit }
    | none => s)
  | none =>
    let d := s.device b.launch.dev
    s.setDevice b.launch.dev (d.setQueue b.launch.part b.launch.prio
      ((d.queue b.launch.part b.launch.prio).map fun l =>
        if l.n = b.launch.n then { l with bypass := min (l.bypass + 1) limit } else l))

/-- Marks a bid blocking. -/
def State.setBlocking (s : State) (b : Bid) : State :=
  match b.rid with
  | some rid => (match s.region rid with | some r => s.setRegion rid { r with blocking := true } | none => s)
  | none =>
    let d := s.device b.launch.dev
    s.setDevice b.launch.dev (d.setQueue b.launch.part b.launch.prio
      ((d.queue b.launch.part b.launch.prio).map fun l => if l.n = b.launch.n then { l with blocking := true } else l))

/-- The best-ranked bid at the limit becomes blocking where no bid of the partition is (R323). -/
def State.makeBlocking (s : State) (dev part : Nat) : State :=
  let bs := s.bids dev part
  let limit := ((s.device dev).pol part).bypassMax
  if bs.any Bid.blocking then s
  else
    match pickLow Bid.key (bs.filter fun b => limit ≤ b.bypass) with
    | some b => s.setBlocking b
    | none => s

/-- A bid of the rank order as it stands now. -/
def State.refresh (s : State) (dev part : Nat) (x : Ranked) : Ranked :=
  match x.res, (s.bids dev part).find? fun b => b.launch.n = x.bid.launch.n with
  | none, some b => { x with bid := b }
  | _, _ => x

/-- The entries of the rank order in turn. With the blocking bid admitted, one that waits at the limit becomes blocking at
once, and the bids that are left rank below it (R323). -/
def Round.run (s0 : State) (dev part : Nat) : Nat → Round → List Ranked → Round
  | 0, r, _ => r
  | _, r, [] => r
  | n + 1, r, x :: l =>
    let r1 := Round.entry s0 dev r x
    let r2 : Round := { r1 with s := r1.s.makeBlocking dev part }
    Round.run s0 dev part n r2 (rankAll (l.map (r2.s.refresh dev part)))

/-- Whether a resident graph stands at a yield point (R324). -/
def State.atYield (s : State) (rid : Nat) (r : Region) : Bool :=
  (s.threadsOf rid r).all fun t => t.status = .exited || t.yielded

/-- The graph that makes room for a blocking bid (R324): of a lower PRIO, at a yield point first.
DEDUCED (notes/assumptions/48.md). -/
def State.victim (s : State) (dev : Nat) (b : Bid) : Option Nat :=
  let rs := s.regions.filterMap fun c => match c.2 with
    | some r =>
      if r.state = .resident && r.launch.part = b.launch.part && r.launch.prio < b.launch.prio &&
          r.origins.any fun o => o.dev = dev then some (c.1, r) else none
    | none => none
  if rs.any fun c => c.2.leaving then none
  else (pickLow (fun c => [if s.atYield c.1 c.2 then 0 else 1, c.2.launch.prio, c.1]) rs).map fun c => c.1

/-- Pre-emption for a blocking bid (R324). -/
def State.makeRoom (s : State) (dev part : Nat) : State :=
  let p := (s.device dev).pol part
  match (s.bids dev part).find? Bid.blocking with
  | some b =>
    if p.preemptEn && p.preemptMin ≤ b.launch.prio then
      match s.victim dev b with
      | some rid => (match s.region rid with | some r => s.setRegion rid { r with leaving := true } | none => s)
      | none => s
    else s
  | none => s

/-- The walks again of the completion records that a dry pool holds back (R47). -/
def State.retryDone (s : State) (dev part : Nat) : State :=
  let mine := s.doneRetry.filter fun d => d.launch.dev = dev && d.launch.part = part
  mine.foldl (fun x d => x.settleDone d)
    { s with doneRetry := s.doneRetry.filter fun d => !(d.launch.dev = dev && d.launch.part = part) }

/-- Clears every YIELDED bit of a partition, in images too (R324). -/
def State.clearYielded (s : State) (part : Nat) : State :=
  let clear (l : SMap (Option Thread)) : SMap (Option Thread) := l.map fun c => (c.1, c.2.map fun t =>
    if (s.region t.rid).any fun r => r.launch.part = part then { t with yielded := false } else t)
  { s with threads := clear s.threads
           images := s.images.map fun c => (c.1, c.2.map fun im => { im with threads := clear im.threads }) }

/-- One round of a partition's arbiter on a device. -/
def State.round (s : State) (dev part : Nat) : State :=
  if (s.device dev).module ≠ .up then s
  else
    let s1 := (List.range 8).foldl (fun x prio => x.checkHeads dev part prio 64) (s.retryDone dev part)
    let own := (s1.bids dev part).map fun b => (⟨b, none⟩ : Ranked)
    let asked := s1.reservations.filterMap fun v =>
      if v.dev = dev && v.asked && v.bid.launch.part = part && v.answer = .waiting then
        some (⟨{ v.bid with blocking := false }, some (v.part, v.slot)⟩ : Ranked)
      else none
    let l := rankAll (own ++ asked)
    let r := Round.run s1 dev part l.length ⟨s1, false, []⟩ l
    let p := (r.s.device dev).pol part
    let lost := r.passed.filter fun c => !c.2.1 && c.2.2
    let s2 := lost.foldl (fun x c => x.bypassed c.1 p.bypassMax) r.s
    let d2 := s2.device dev
    let s3 := s2.setDevice dev (d2.setPol part { p with bypasses := (p.bypasses + lost.length) % 2 ^ 32 })
    ((s3.makeBlocking dev part).makeRoom dev part).clearYielded part

/-- SCHEDULER_ROUND (R322). -/
def execSchedulerRound (dev part : Nat) (s : State) : Res State := .next (s.round dev part)

/-- BID_BLOCKING (R323). -/
def execBidBlocking (dev part : Nat) (s : State) : Res State := .next (s.makeBlocking dev part)

/-- RESERVATION (R327): a scheduler that a reservation has reached ranks and answers it in its next round. -/
def execReservation (dev part : Nat) (s : State) : Res State :=
  .next <|
    if s.reservations.any fun v => v.dev = dev && v.asked && v.bid.launch.part = part && v.answer = .waiting then s.round dev part
    else s

/-! The start of a graph (R36 to R39, R49, R162, R329). -/

/-- Native latencies of the classes (R160). -/
def nativeLatency : List Nat := [1, 3, 20, 2, 4, 5, 16, 2, 6, 18, 20, 8, 24, 2, 2, 4]

/-- LAT_MODE for the latency bytes of a header. -/
def latencyBits (l : List Nat) : Dword :=
  BitVec.ofNat 64 ((List.range 16).foldl (fun a c =>
    if l.getD c 0 ≠ 0 ∧ l.getD c 0 < nativeLatency.getD c 0 then a + 2 ^ c else a) 0)

/-- The position word and the shape word (R38). -/
def Region.positionWord (r : Region) (part rx ry : Nat) : Dword :=
  let tile := r.tileAt part rx ry
  BitVec.ofNat 64 (rx + ry * 2 ^ 8 + part * 2 ^ 16 + r.slot * 2 ^ 24 + tileDie tile * 2 ^ 26 + tileIndex tile * 2 ^ 32)

def Region.shapeWord (r : Region) (part : Nat) : Dword :=
  let o := (r.origins[part]?).getD ⟨0, 0, 0⟩
  BitVec.ofNat 64 (r.w + r.h * 2 ^ 8 + (r.parts - 1) * 2 ^ 16 + o.ox * 2 ^ 24 + o.oy * 2 ^ 32)

/-- DOM_MEMB (R49) but for PH: the members are the threads of the region whose JOIN bit for the level is set. The
manual gives no count for a level without members, where `free` stands. -/
def Region.domMemb (r : Region) (join : Nat → Nat → Nat) (free : Nat) (part rx ry : Nat) : Nat :=
  let own := r.tileAt part rx ry
  let count (l m : Nat) : Nat :=
    let n := (r.positions.filter fun c =>
      bitOf (join c.2.1 c.2.2) (l - 1) &&
        (let t := r.tileAt c.1 c.2.1 c.2.2
        if l = 1 then quadKey t = quadKey own else if l = 2 then dieKey t = dieKey own else true)).length
    if n = 0 then free % m else (n - 1) % m
  join rx ry + count 1 4 * 2 ^ 8 + count 2 256 * 2 ^ 16 + count 3 (2 ^ 18) * 2 ^ 24 + r.launch.group * 2 ^ 42

/-- The initial state of a control thread (R37, R39). -/
def newThread (rid : Nat) (r : Region) (x : ImageInfo) (free part rx ry : Nat) : Thread where
  rid := rid
  rx := rx
  ry := ry
  part := part
  stream := r.launch.image + BitVec.ofNat 64 ((x.dir[x.posIndex rx ry]?).map DirEntry.stream |>.getD 0)
  words := (x.dir[x.posIndex rx ry]?).map DirEntry.words |>.getD 0
  g := ([(1, r.launch.arg), (2, r.positionWord part rx ry), (3, r.shapeWord part), (4, r.launch.image)] :
    List (Nat × Dword)).foldl (fun m c => SMap.put 0 m c.1 c.2) []
  ctxId := r.ctxId
  domMemb := BitVec.ofNat 64
    (r.domMemb (fun a b => (x.dir[x.posIndex a b]?).map DirEntry.join |>.getD 0) free part rx ry)
  srSeed := r.launch.seed
  latMode := latencyBits x.hdr.latency
  status := if ((x.dir[x.posIndex rx ry]?).map DirEntry.words |>.getD 0) = 0 then .exited else .running
  resident := ((x.dir[x.posIndex rx ry]?).map DirEntry.words |>.getD 0) != 0
  super := r.launch.super

/-- The far end of a queue endpoint of a position, by its part, and the region's key of it. -/
def ImageInfo.peer (x : ImageInfo) (r : Region) (part rx ry q : Nat) : Nat × Nat :=
  let e : QueueEnd := ⟨rx, ry, part, q⟩
  match x.bindings.findSome? fun b => if b.1 = e then some b.2 else if b.2 = e then some b.1 else none with
  | some f => (r.keyAt f.part f.rx f.ry, f.q)
  | none => (0, 0)

/-- The slot of a position with the image's set-0 words and bindings. -/
def newSlot (r : Region) (x : ImageInfo) (part rx ry : Nat) : Slot :=
  let rs := x.cfg.getD (x.posIndex rx ry) []
  let m := rs.foldl (fun a c => c.write a) []
  let qs := (x.qcfgs rx ry).foldl (fun (a : SMap Queue) q =>
    let p := x.peer r part rx ry q.1
    let w := tableWord m 6 q.1 1
    let e : Queue :=
      { bound := true, ingress := q.2.1, dm1 := BitVec.ofNat 4 (q.2.2.1 - 1), base := BitVec.ofNat 7 q.2.2.2
        xf := if isQxf w then BitVec.ofNat 4 (wbits w 26 23) else 0
        sat := isQxf w && wbit w 22, peerKey := p.1, peerQ := BitVec.ofNat 3 p.2 }
    SMap.put {} a q.1 e) []
  { words := m, queues := qs }

/-- Writes one data record at a position (R30, R34). -/
def State.loadData (s : State) (r : Region) (part : Nat) (d : DataRec) (bs : List Byte) : State :=
  let tile := r.tileAt part d.rx d.ry
  let at_ (off : Nat) : Nat := if d.vault then r.vaultAt (quadKey tile) off else r.spadAt tile off
  (List.range ((d.len + 63) / 64)).foldl (fun y i =>
    let a := at_ (d.ofs + 64 * i)
    let z := y.writeBytes a ((bs.drop (64 * i)).take 64)
    if d.empty then z else z.setSector (sectorOf a) .full) s

/-- The saddle entries 4s to 4s + 3 of a tile's unit (R112). -/
def State.setSaddles (s : State) (tile slot : Nat) (f : Nat → SaddleEntry) : State :=
  (List.range 4).foldl (fun x e =>
    { x with saddles := SMap.put [] x.saddles ((2 ^ 40 + tile) * 16 + 4 * slot + e) (f e) }) s

/-- Loads one position of a graph: words, bindings, engine tables, thread, residency tag. -/
def State.loadPosition (s : State) (rid : Nat) (r : Region) (x : ImageInfo) (free : Nat) (c : Nat × Nat × Nat) : State :=
  let tile := r.tileAt c.1 c.2.1 c.2.2
  let key := tile * 4 + r.slot
  let s1 := (s.setSlot key (newSlot r x c.1 c.2.1 c.2.2)).setThread key (newThread rid r x free c.1 c.2.1 c.2.2)
  let s2 := s1.setSaddles tile r.slot fun e =>
    match x.engines.find? fun k => k.rx = c.2.1 && k.ry = c.2.2 && k.e = e with
    | some k => k.words
    | none => []
  { s2 with residency := SMap.put none s2.residency key (some ⟨r.launch.part, r.launch.image, c.2.1, c.2.2, x⟩) }

/-- Switches the bindings between parts: the lane groups held since the admission carry them by name, with the filter-table
entries of their QXF (R251, R329, R400). -/
def State.bindQueues (s : State) (r : Region) : State :=
  ((r.info.bindings.filter fun b => b.1.part != b.2.part).zipIdx).foldl (fun x c =>
    let a := r.keyAt c.1.1.part c.1.1.rx c.1.1.ry
    let b := r.keyAt c.1.2.part c.1.2.rx c.1.2.ry
    let e := (x.slot a).queue c.1.1.q
    x.nameLink (linkId r.launch.n c.2) (bindingId a c.1.1.q) (e.xf.toNat + if e.sat then 16 else 0)
      (route (keyDev a) (keyDev b))) s

/-- Whether every binding between parts holds its lane groups. -/
def State.linksHeld (s : State) (r : Region) : Bool :=
  (r.info.bindings.filter fun b => b.1.part != b.2.part).all fun b =>
    let a := r.keyAt b.1.part b.1.rx b.1.ry
    (route (keyDev a) (keyDev (r.keyAt b.2.part b.2.rx b.2.ry))).all fun h =>
      ((s.device h.1).boundGroup h.2 (bindingId a b.1.q)).isSome

/-- The image of a region that every tile of it still holds (R330). -/
def State.residentInfo (s : State) (r : Region) : Option ImageInfo :=
  match r.positions.map fun c => s.keptInfo (r.keyAt c.1 c.2.1 c.2.2) r.launch.part r.launch.image c.2.1 c.2.2 with
  | some x :: l => if l.all fun y => y = some x then some x else none
  | _ => none

/-- The image of a graph as step 1 of R36 takes it: what was kept with the tags of a resident placement, which is not read
again, or what the check reads and finds. -/
def State.imageOf (s : State) (r : Region) : Check × Option ImageInfo :=
  match s.residentInfo r with
  | some x => (⟨s, [], false⟩, some x)
  | none => checkImage s r.launch

/-- Steps 1 and 2 of R36. What cannot be read, or breaks the checks of the dies, is kept for their report.
DEDUCED (notes/assumptions/50.md). -/
def State.loadGraph (s : State) (rid : Nat) (r : Region) : State :=
  let bad (x : State) (c : Nat) : State := x.setRegion rid { r with loaded := true, badWord := c }
  let c := s.imageOf r
  if c.1.busy then c.1.s
  else
    match c.2 with
    | none => bad c.1.s 0x0C
    | some x =>
      let cause := ((c.1.causes ++ if x.lateCause = 0 then [] else [x.lateCause]).min?).getD 0
      if cause ≠ 0 then bad c.1.s cause
      else
        let f := c.1.s.draw
        let s1 := r.positions.foldl (fun y p => y.loadPosition rid r x f.1.toNat p) f.2
        let l := x.data.foldl (fun (k : Check) d =>
          let g := k.read r.launch d.dofs d.len
          match g.1 with
          | some bs => { g.2 with s := (List.range r.parts).foldl (fun y p => y.loadData r p d bs) g.2.s }
          | none => g.2) ({ s := s1, causes := [], busy := false } : Check)
        if l.busy then l.s
        else if l.causes ≠ [] then bad l.s 0x0C
        else
          let r1 : Region := { r with loaded := true, info := x }
          (l.s.setRegion rid r1).bindQueues r1

/-- GRAPH_START (R36): steps 1 and 2 at once, and the release once every acknowledgement is in. -/
def execGraphStart (rid : Nat) (s : State) : Res State :=
  .next <|
    match s.region rid with
    | none => s
    | some r =>
      if r.state ≠ .starting ∨ r.restoring = true ∨
          (r.origins.any fun o => (s.device o.dev).module ≠ .up) = true then s
      else if !r.loaded then s.loadGraph rid r
      else if r.acks = [] then s.setRegion rid { r with state := .resident, tStart := s.now }
      else s

/-- A whole graph is refused for a malformed word that a die reports (R329, R159). -/
def State.refuseGraph (s : State) (rid : Nat) (r : Region) : State :=
  let a := s.draw
  let b := a.2.draw
  b.2.endRegion rid r (completionRecord (if 0x10 ≤ r.badWord then 3 else 2) r.badWord 0 a.1.toNat b.1.toNat []) []

/-- A device's acknowledgement reaches the scheduler that holds the graph: of its start, or of a gate request, for
which it counts up to 200 ns before the tick (R355). -/
def State.takeAck (s : State) (rid dev : Nat) : State :=
  match s.region rid with
  | none => s
  | some r =>
    let late : Bool := match r.gateTick with | some g => decide (g < s.now + 200) | none => false
    if r.state = .starting ∧ r.badWord ≠ 0 then s.refuseGraph rid r
    else if late = true then s
    else s.setRegion rid { r with acks := r.acks.filter fun d => d != dev }

/-- CONFIG_ACK (R329): the dies of a device have written and checked their words, and the link-queue routes are switched; a
remote device's acknowledgement, or report, travels in a control flit. -/
def execConfigAck (rid dev : Nat) (s : State) : Res State :=
  .next <|
    match s.region rid with
    | none => s
    | some r =>
      if r.state ≠ .starting ∨ r.loaded = false ∨ r.acks.contains dev = false ∨ (r.badWord = 0 ∧ s.linksHeld r = false) then s
      else if dev = r.launch.dev then s.takeAck rid dev
      else if s.flits.any fun v => v.flit = .sched (.configured rid) dev r.launch.dev then s
      else s.send (.sched (.configured rid) dev r.launch.dev)

/-! The end of a graph. -/

/-- The completion conditions of R43; an access that stopped at a fault has not performed. -/
def State.graphDone (s : State) (rid : Nat) (r : Region) : Bool :=
  ((s.threadsOf rid r).all fun t =>
    t.status = .exited && t.outstanding = [] && t.pool = [] && t.held = .none && t.cb = []) &&
  (r.keys.all fun k => (s.slot k).ags.all fun c => !c.2.bound ||
    ((!isSink c.2.port.toNat || c.2.idle) && c.2.combSector = none && !c.2.waiting && !c.2.fault)) &&
  (s.flits.all fun f => !f.flit.of r.ctxId) && (s.invocations.all fun i => i.who.ctx != r.ctxId) &&
    s.results.all fun i => i.who.ctx != r.ctxId

/-- GRAPH_COMPLETION (R43). -/
def execGraphCompletion (rid : Nat) (s : State) : Res State :=
  .next <|
    match s.region rid with
    | some r => if r.state = .resident ∧ s.graphDone rid r = true then s.endGraph rid 0 0 else s
    | none => s

/-- The queued record that a launch number names. -/
def State.queuedLaunch (s : State) (n : Nat) : Option LaunchRec :=
  s.devices.findSome? fun c => c.2.queues.findSome? fun q => q.2.find? fun l => l.n = n

/-- KILL (R43, R52, R332): a graph by its region, or from 2^32 on a record that still waits in a queue, by its launch
number. DESIGN CHOICE (notes/assumptions/53.md). -/
def execKill (rid : Nat) (s : State) : Res State :=
  .next <|
    if rid < 2 ^ 32 then s.endGraph rid 1 0
    else
      match s.queuedLaunch (rid - 2 ^ 32) with
      | some l =>
        ((s.dequeue l).release l.n).endLaunch l 1 0
      | none => s

end Sys2Proof.Machine
end

