-- ==== Sys2Proof/Machine/Image.lean ====
section
/-!
DEFINITION. The bytes of a context image in the frames that the partition's pool gave for it (R318), and their snapshot
delta (R358). The manual leaves the formats inside the segments open: their places and sizes are R318's, the order of what
they hold is the model's. DESIGN CHOICE (notes/assumptions/29.md).
-/

namespace Sys2Proof.Machine

/-! Segments of a tile; the header is beside the selection of a thread. -/

/-- The segment of the combining buffer, binding contexts and scoreboards. -/
def bindingSegment (t : Thread) (x : Slot) : List Byte :=
  (t.cb.flatMap fun e => qwords [e.id, e.sector, sectorMask e.bytes, e.tok.toNat, e.opened] ++ sectorBytes e.bytes) ++
    qwords (x.ags.flatMap fun c =>
      [c.1, c.2.port.toNat, c.2.prog.toNat, c.2.n, c.2.done, c.2.chunk, c.2.base.toNat, c.2.skip] ++
        match c.2.combSector with | some k => [k, sectorMask c.2.combBytes] | none => []) ++
    qwords (x.scoreboard.flatMap fun c => c.1 :: c.2.flatMap fun e => match e with
      | .cmd ag n b _ => [1, ag.toNat, n, b.toNat]
      | .drain n => [2, n]
      | .eoc => [3])

/-- The segment of configuration words and of a staged set. -/
def wordSegment (x : Slot) (st : Option Staging) : List Byte :=
  (x.words.flatMap fun c => leBytes c.1 4 ++ leBytes c.2.toNat 4) ++
    match st with | some v => v.block.flatMap fun w => leBytes w.toNat 4 | none => []

/-- A token in an image: data, ITER, kind, V and P. -/
def Token.bytes (t : Token) : List Byte :=
  leBytes t.data.toNat 4 ++ leBytes t.iter.toNat 2 ++
    leBytes ((match t.kind with | .data => 0 | .eos => 1 | .eoc => 2) + (if t.v then 4 else 0) + if t.p then 8 else 0) 2

/-- The segment of lanes, boxes, token buffers and queue endpoints. -/
def tokenSegment (x : Slot) : List Byte :=
  (x.lanes.flatMap fun c => qwords [c.1, c.2.pbits.toNat + if c.2.fresh then 16 else 0] ++
    ([c.2.l0, c.2.l1, c.2.l2, c.2.l3].flatMap fun w => leBytes w.toNat 4)) ++
    qwords (x.boxes.flatMap fun c => [c.1, c.2.left, c.2.count, c.2.eocPath.toNat]) ++
    ((x.edges ++ x.outs).flatMap fun c => qwords [c.1, c.2.length] ++ c.2.flatMap Token.bytes) ++
    (x.ports.flatMap fun c => qwords [c.1, c.2.sent, c.2.iter.toNat, c.2.buf.length] ++ c.2.buf.flatMap Token.bytes) ++
    (x.carry.flatMap fun c => qwords [c.1, c.2.length] ++ c.2) ++
    qwords (x.queues.flatMap fun c =>
      [c.1, c.2.peerKey, c.2.peerQ.toNat, c.2.seq, c.2.groups, c.2.taken, c.2.lastLen, c.2.slots.length])

/-- The segment of the latches. -/
def latchSegment (x : Slot) : List Byte :=
  ([x.latchA, x.latchB].flatMap fun l =>
    qwords [l.fill.length, l.full.length, l.eos] ++ l.fill ++
      l.full.flatMap fun p => (p.map fun q => qwords [q.came.getD 4096] ++ q.bytes).getD []) ++
    x.gather.flatMap fun w => leBytes w.toNat 4

/-- The segment of the accumulators' elements. -/
def accSegment (x : Slot) : List Byte := (List.range 16384).flatMap fun i => leBytes (SMap.get 0 x.acc i).toNat 4

/-- The segment of accumulator states and armings. -/
def armSegment (x : Slot) : List Byte :=
  qwords ((x.accState.flatMap fun c => [c.1, (if c.2.held then 1 else 0) + if c.2.p then 2 else 0]) ++
    x.arms.flatMap fun a => [a.idx.toNat, a.left.getD 0, a.fired, a.outputs])

/-- The segments of a tile, in their places (R318). -/
def tileSegments (r : Region) (tile : Nat) (t : Thread) (held : List Reply) (x : Slot) (st : Option Staging)
    (share : List Byte) : List Byte :=
  t.withRecords 0 (segment 0x1000 (t.headerSegment r tile held)) ++
    t.withRecords 0x1000 (segment 0x1000 (bindingSegment t x)) ++ segment 0x3000 (wordSegment x st) ++
    segment 0x3000 (tokenSegment x) ++ segment 0x9000 (latchSegment x) ++ segment 0x10000 (accSegment x) ++
    segment 0x1000 (armSegment x) ++ share

/-- The record of the region: oldest-iteration counters, arrivals, lease and energy counters. -/
def Region.recordSegment (r : Region) (ts : List Thread) : List Byte :=
  segment 0x1000 (qwords ((r.oi.flatMap fun c => [c.1, c.2.toNat]) ++ [r.lease.step.toNat, r.lease.remain.toNat] ++
    ts.flatMap fun t => t.energy.toNat :: t.arrivals.flatMap fun a => [a.1, a.2]))

/-- Results that a slot's reply edge buffer holds for registers of a context (R163, R356). -/
def State.repliesFor (s : State) (key : Nat) (ctx : Dword) : List Reply :=
  s.replies.filter fun v => v.who.key = key && v.who.ctx = ctx

/-- The bytes of a region's image, in order. -/
def State.imageBytes (s : State) (r : Region) : List Byte :=
  (r.positions.flatMap fun c =>
    let key := r.keyAt c.1 c.2.1 c.2.2
    let tile := keyTile key
    match s.thread key with
    | some t =>
      tileSegments r (tileIndex tile) t (s.repliesFor key r.ctxId) (s.slot key)
        (match SMap.get none s.staging tile with
        | some st => if st.slot = r.slot then some st else none
        | none => none)
        ((List.range (r.spadBytes / 2 ^ 14)).flatMap fun k => s.bytes (r.spadAt tile (k * 2 ^ 14)) (2 ^ 14))
    | none => List.replicate r.tileImage 0) ++
    (r.vaultShares.flatMap fun c => s.bytes c.1 c.2.2) ++
    r.recordSegment (r.keys.filterMap s.thread)

/-! Snapshot delta (R358). -/

/-- Writes the blocks of an image from block `k` on into its frames: each only where its hash differs from that of the same
block in the previous image, which is kept beside the image. -/
def State.writeBlocks (s : State) (rid : Nat) : Nat → Nat → List Byte → State
  | 0, _, _ => s
  | fuel + 1, k, bs =>
    match bs, s.region rid with
    | [], _ => s
    | _, none => s
    | _, some r =>
      let b := bs.take 4096
      let h := blockHash b
      let s1 := if SMap.get 0 r.imageHashes k = h then s
        else (s.storeRange (r.imageAddr (k * 4096)) b).setRegion rid { r with imageHashes := SMap.put 0 r.imageHashes k h }
      s1.writeBlocks rid fuel (k + 1) (bs.drop 4096)

/-- Whether the frames of an image must wait for translations that a write to them makes void (R345). -/
def State.imageWaits (s : State) (r : Region) : Bool :=
  (List.range r.imageSize).any fun k => s.rangeInUse (r.imageAddr (k * 4096)) 4096

/-- Step 4 of a pre-emption: the image is written as a snapshot delta. -/
def State.writeImage (s : State) (rid : Nat) (r : Region) : State :=
  let bs := s.imageBytes r
  s.writeBlocks rid (bs.length / 4096 + 1) 0 bs

end Sys2Proof.Machine
end

