-- ==== Sys2Proof/Machine/Preempt.lean ====
section
/-!
DEFINITION. Pre-emption and restore (R141, R318, R354 to R360, R366 to R369, R387): gating, readout into an image, the
return on other tiles or the same, and what reaches a context while it is switched out.
-/

namespace Sys2Proof.Machine

/-- Whether a region lies on one die (R355). -/
def Region.oneDie (r : Region) : Bool :=
  match r.keys with
  | [] => true
  | k :: l => l.all fun j => dieKey (keyTile j) = dieKey (keyTile k)

/-! Gating. -/

/-- A thread's access that is parked leaves its port (R211). An instruction that waits is issued again after restore, and
is charged again then (R365). -/
def Thread.unpark (t : Thread) : Thread :=
  match t.wait with
  | .parked a => { t with wait := .unparked a, charged := false }
  | .unparked _ => { t with charged := false }
  | .issue | .dsync _ => { t with charged := false }
  | _ => t

/-- A filling write that waits at a full sector of another device is withdrawn: its thread issues it again after restore, its
stream has the sector in its combiner again (R211, R229). -/
def State.withdrawFill (s : State) (v : Flight) : State :=
  match v.flit with
  | .pooledStore who sec bs _ poison _ =>
    let s1 : State := { s with flits := s.flits.erase v }
    if 2 ^ 32 ≤ who.id then
      let x := s1.slot who.key
      let a := who.id - 2 ^ 32
      s1.setSlot who.key (x.setAg a
        { x.ag a with combSector := some sec, combBytes := bs.headD [], combPoison := poison })
    else
      match s1.thread who.key with
      | some t =>
        (match t.wait with
        | .away a => s1.setThread who.key { (if a.late then t else t.close a.id) with wait := .unparked a, charged := false }
        | _ => s1)
      | none => s1
  | _ => s

/-- Withdraws every filling write of a context that waits at its sector. -/
def State.withdrawFills (s : State) (ctx : Dword) : State :=
  (s.flits.filter fun v => v.flit.of ctx && v.dev = v.flit.dst && s.fillWaits v.flit).foldl (fun x v => x.withdrawFill v) s

/-- Whether a flit is of the binding of an egress endpoint. -/
def Flit.onBinding (f : Flit) (key q : Nat) : Bool := match f with | .bound b => b.key = key && b.q = q | _ => false

/-- A group that failed its tag, or whose check at its last flit is not done, counts as not received: the egress sends it
again after restore with the markers behind it, and the poisoned sectors of the slot get their states back (R357, R352).
DEDUCED (notes/assumptions/55.md). -/
def State.discardGroups (s : State) (key q : Nat) : State :=
  let e := (s.slot key).queue q
  let src0 := (s.slot e.peerKey).queue e.peerQ.toNat
  if !e.isIngress || (!e.replay && src0.awaiting = [] && e.arriving = []) then s
  else
    let mine (k : ReplayEntry) : Bool := k.key = key && k.q.toNat = q
    let s1 := (s.replays.filter mine).foldl (fun y k => y.restoreSector k)
      { s with replays := s.replays.filter fun k => !mine k }
    let src := (s1.slot e.peerKey).queue e.peerQ.toNat
    let s2 := { s1 with flits := s1.flits.filter fun v => !v.flit.onBinding e.peerKey e.peerQ.toNat }.setEnd key q
      { e with arriving := [], replay := false, held := false, fails := 0, discard := false }
    -- what the ingress has not received whole, in the order in which it was sent
    let l := e.arriving ++ s1.flits.filterMap fun v => match v.flit with
      | .bound b => if b.key = e.peerKey ∧ b.q = e.peerQ.toNat ∧ b.index + 1 = b.count then some b.item else none
      | _ => none
    let within (g : Group) : Bool := l.any fun h => h.any fun k => k.seq = g.seq
    let used (g : Group) : Bool := (e.discard && g.seq = e.groups) || l.any fun h => h.any fun k => k.taken && k.seq = g.seq
    let again (g : Group) : Option Group := some { g with taken := used g }
    let back := (src.awaiting.filter fun g => !within g).map again ++ l.filterMap fun h => match h with
      | none => some none
      | some k => (src.awaiting.find? fun g => g.seq = k.seq).map again
    s2.setEnd e.peerKey e.peerQ.toNat
      { src with awaiting := [], packed := back ++ src.packed, replay := false
                 eos := src.eos && l.all Option.isSome, lastBytes := if l.all Option.isSome then src.lastBytes else 0 }

/-- Gates a region (R355, R356): nothing of its slot acts any more, and parked accesses are withdrawn. -/
def State.gateRegion (s : State) (rid : Nat) (r : Region) : State :=
  let ks := r.keys
  let s1 := { (s.dropWalks r.launch.part ks).setRegion rid { r with state := .gated, gateTick := none, acks := [] } with
    parked := s.parked.filter fun c => !ks.contains c.2
    blockLoads := s.blockLoads.filter fun b => b.ctx != r.ctxId }
  let s2 := ks.foldl (fun x k => match x.thread k with
    | some t => x.setThread k t.unpark
    | none => x) s1
  ks.foldl (fun x k => (List.range 8).foldl (fun y q => y.discardGroups k q) x) s2

/-- The scheduler that holds a graph asks every other scheduler of it to gate at a tick. -/
def State.askGate (s : State) (rid tick : Nat) (r : Region) : State :=
  let far := ((r.origins.map Origin.dev).dedup).filter fun d => d != r.launch.dev
  far.foldl (fun x d => x.send (.sched (.gate rid tick) r.launch.dev d))
    (s.setRegion rid { r with gateTick := some tick, acks := far })

/-- GATE_REQUEST (R355): the scheduler that holds a graph on several dies asks for the tick G; another request meanwhile
joins the pending one (R362). -/
def execGateRequest (rid tick : Nat) (s : State) : Res State :=
  .next <|
    match s.region rid with
    | none => s
    | some r =>
      if r.state ≠ .resident ∨ r.gateTick.isSome = true ∨ tick < s.now + 2000 then s
      else s.askGate rid tick r

/-- GATE_REQUEST_WITHDRAWAL (R355): an acknowledgement is missing 200 ns before G; the scheduler asks for a new G, the
earliest that it may choose. DESIGN CHOICE (notes/assumptions/54.md). -/
def execGateRequestWithdrawal (rid : Nat) (s : State) : Res State :=
  .next <|
    match s.region rid with
    | none => s
    | some r =>
      match r.gateTick with
      | none => s
      | some g =>
        if r.acks = [] ∨ s.now + 200 < g then s else s.askGate rid (s.now + 2000) r

/-- GATE (R355): at tick G every die of the graph gates its slot; nothing of it has acted since (Region.acts). -/
def execGate (rid : Nat) (s : State) : Res State :=
  .next <|
    match s.region rid with
    | none => s
    | some r =>
      match r.gateTick with
      | none => s
      | some g => if r.state = .resident ∧ r.acks = [] ∧ g ≤ s.now then s.gateRegion rid r else s

/-! The image (R318). -/

/-- A slot as it is saved: the partial unit of a filter table is read again after restore (R235). -/
def Slot.saved (x : Slot) : Slot := (List.range 8).foldl (fun y a => y.rewind (BitVec.ofNat 3 a)) x

/-- Bytes and sector states of the shares under image keys. -/
def State.readShares (s : State) (l : List (Nat × Nat × Nat)) : SMap Byte × SMap SectorState :=
  l.foldl (fun a c =>
    ((s.mem.filter fun b => c.1 ≤ b.1 && b.1 < c.1 + c.2.2).foldl (fun m b => SMap.put 0 m (b.1 - c.1 + c.2.1) b.2) a.1,
      (s.sect.filter fun b => c.1 / 64 ≤ b.1 && b.1 < (c.1 + c.2.2) / 64).foldl
        (fun m b => SMap.put .empty m (b.1 - c.1 / 64 + c.2.1 / 64) b.2) a.2)) ([], [])

/-- The image of a region. -/
def State.makeImage (s : State) (rid : Nat) (r : Region) : Image :=
  let mem := s.readShares r.shares
  let at_ (c : Nat × Nat × Nat) : Nat := r.keyAt c.1 c.2.1 c.2.2
  let pos (c : Nat × Nat × Nat) : Nat := posKey c.1 c.2.1 c.2.2
  { rid := rid
    threads := r.positions.foldl (fun m c => SMap.put none m (pos c) (s.thread (at_ c))) []
    slots := r.positions.foldl (fun m c => SMap.put none m (pos c) (some (s.slot (at_ c)).saved)) []
    bytes := mem.1
    sectors := mem.2
    staged := r.positions.foldl (fun m c => match SMap.get none s.staging (keyTile (at_ c)) with
      | some st => if st.slot = r.slot then SMap.put none m (pos c) (some st) else m
      | none => m) []
    saddles := r.positions.foldl (fun m c => (List.range 4).foldl (fun n e =>
      SMap.put [] n (4 * pos c + e)
        (SMap.get [] s.saddles ((2 ^ 40 + keyTile (at_ c)) * 16 + 4 * r.slot + e))) m) []
    replies := r.positions.flatMap fun c => (s.repliesFor (at_ c) r.ctxId).map fun v =>
      { v with who := { v.who with key := pos c } } }

/-- Frees the tiles of a region that has its image (R354, step 5). -/
def State.leaveTiles (s : State) (rid : Nat) (r : Region) : State :=
  let ks := r.keys
  let s1 := ks.foldl (fun x k =>
    let y := (x.dropThread k).dropSlot k
    match SMap.get none y.staging (keyTile k) with
    | some st => if st.slot = r.slot then { y with staging := SMap.put none y.staging (keyTile k) none } else y
    | none => y) s
  let s2 := r.shares.foldl (fun x c => x.scrub c.1 c.2.2)
    { s1 with replies := s1.replies.filter fun v => v.who.ctx != r.ctxId }
  (s2.unbindRoutes fun b => ks.contains (b / 8) || linkOf r.launch.n b).freeSpines rid ks

/-- The lease at a pre-emption: a pending request is refused, a granted lease pauses (R387, R392). -/
def Lease.paused (l : Lease) : Lease := { l with state := if l.state = 1 then 3 else l.state, onSpine := false }

/-- PREEMPTION (R354): a region on one die is gated at once; once its accesses in flight have returned and the pool has
given frames, its image is written and its tiles are freed. It is due for restore from then on. -/
def execPreemption (rid : Nat) (s : State) : Res State :=
  .next <|
    match s.region rid with
    | none => s
    | some r0 =>
      if r0.state ≠ .resident ∧ r0.state ≠ .gated then s
      else if r0.state = .resident ∧ r0.oneDie = false then s
      else
        let s1 := (if r0.state = .resident then s.gateRegion rid r0 else s).withdrawFills r0.ctxId
        match s1.region rid with
        | none => s1
        | some r1 =>
          if (s1.flits.any fun f => f.flit.of r1.ctxId) || (s1.invocations.any fun i => i.who.ctx = r1.ctxId) ||
              s1.pooled.any fun c => c.2.flits.any fun f => f.1.of r1.ctxId then s1
          else
            let f := s1.takeImageFrames rid r1.imageSize (r1.imageSize + 1)
            if !f.2 then f.1
            else
              match f.1.region rid with
              | none => f.1
              | some r =>
                if f.1.imageWaits r then f.1 else
                let im := f.1.makeImage rid r
                let s1 := f.1.writeImage rid { r with lease := r.lease.paused }
                let s2 := s1.leaveTiles rid r
                let r1 := (s1.region rid).getD r
                let s3 := s2.setRegion rid
                  { r1 with state := .saved, preempted := s2.now, due := true, leaving := false, bypass := 0,
                            blocking := false, lease := r.lease.paused }
                { s3 with images := SMap.put none s3.images rid (some im) }

/-! Restore (R359). -/

/-- Writes the shares of an image into the region's new places. -/
def State.writeShares (s : State) (im : Image) (l : List (Nat × Nat × Nat)) : State :=
  l.foldl (fun x c =>
    let y := (im.bytes.filter fun b => c.2.1 ≤ b.1 && b.1 < c.2.1 + c.2.2).foldl
      (fun z b => z.setByte (b.1 - c.2.1 + c.1) b.2) x
    (im.sectors.filter fun b => c.2.1 / 64 ≤ b.1 && b.1 < (c.2.1 + c.2.2) / 64).foldl
      (fun z b => z.setSector (b.1 - c.2.1 / 64 + c.1 / 64) b.2) y) s

/-- DOM_MEMB at a restore: the counts anew, PH kept (R49). -/
def Thread.rejoin (t : Thread) (r : Region) (join : Nat → Nat → Nat) (free : Nat) : Thread :=
  let v := BitVec.ofNat 64 (r.domMemb join free t.part t.rx t.ry)
  { t with domMemb := v ||| (t.domMemb &&& (0x1F#64 <<< 56)), latMode := latencyBits r.launch.hdr.latency }

/-- The age of combining-buffer entries does not count the time for which the context was switched out (R136). -/
def Thread.later (t : Thread) (n : Nat) : Thread := { t with cb := t.cb.map fun e => { e with opened := e.opened + n } }

/-- JOIN masks of the positions of an image of threads. -/
def Image.join (im : Image) (rx ry : Nat) : Nat :=
  match SMap.get none im.threads (posKey 0 rx ry) with
  | some t => t.domMemb.toNat % 16
  | none => 0

/-- Puts one position of an image into place. -/
def State.restorePosition (s : State) (r : Region) (im : Image) (free : Nat) (c : Nat × Nat × Nat) : State :=
  let pos := posKey c.1 c.2.1 c.2.2
  let key := r.keyAt c.1 c.2.1 c.2.2
  let s1 := s.setSlot key ((SMap.get none im.slots pos).getD {})
  let s2 := match SMap.get none im.threads pos with
    | some t => s1.setThread key (t.rejoin r im.join free)
    | none => s1
  let s3 := match SMap.get none im.staged pos with
    | some st =>
      let st1 : Staging := { st with slot := r.slot }
      { s2 with staging := SMap.put none s2.staging (keyTile key) (some st1) }
    | none => s2
  let s4 := s3.setSaddles (keyTile key) r.slot fun e => SMap.get [] im.saddles (4 * pos + e)
  { s4 with residency := SMap.put none s4.residency key (some ⟨r.launch.part, r.launch.image, c.2.1, c.2.2, r.info⟩) }

/-- Loads the image of an admitted context into its placement (steps 1 and 2 of R36 for a restore). -/
def State.loadImage (s : State) (rid : Nat) (r : Region) (im : Image) : State :=
  let f := s.draw
  let s1 := r.positions.foldl (fun x c => x.restorePosition r im f.1.toNat c) f.2
  let s2 := s1.writeShares im r.shares
  let r1 : Region := { r with loaded := true }
  let s3 := s2.setRegion rid r1
  -- results that were held become visible again in their order (R163)
  let back := r.positions.flatMap fun c => (im.replies.filter fun v => v.who.key = posKey c.1 c.2.1 c.2.2).map fun v =>
    { v with who := { v.who with key := r.keyAt c.1 c.2.1 c.2.2 } }
  { s3 with images := SMap.put none s3.images rid none, replies := s3.replies ++ back }.bindQueues r1

/-- The lease of a graph that comes back: a move forfeits it (R387), all fields with it, and leaves the requests of the
power-control interval (R202). DESIGN CHOICE (notes/assumptions/106.md). -/
def Lease.back (l : Lease) (moved : Bool) : Lease := if moved then { askers := l.askers, asked := l.asked } else l

/-- Releases the threads of a graph that has come back. -/
def State.releaseBack (s : State) (rid : Nat) (r : Region) : State :=
  let s1 := r.keys.foldl (fun x k => match x.thread k with
    | some t => x.setThread k (t.later (s.now - r.preempted))
    | none => x) s
  s1.setRegion rid { r with state := .resident, restoring := false, lease := r.lease.back r.moved, moved := false }

/-- RESTORE (R359): the image of an admitted context is loaded into its placement, and its threads are released as at a start
(R36), once every die has acknowledged. The load waits while the staging buffer of a tile that it needs is taken.
DEDUCED (notes/assumptions/51.md). -/
def execRestore (rid : Nat) (s : State) : Res State :=
  .next <|
    match s.region rid with
    | none => s
    | some r =>
      if r.state ≠ .starting ∨ r.restoring = false ∨ (r.origins.any fun o => (s.device o.dev).module ≠ .up) = true then s
      else
        match SMap.get none s.images rid with
        | none => if r.loaded = true ∧ r.acks = [] then s.releaseBack rid r else s
        | some im =>
          let stagingTaken := r.positions.any fun c =>
            (SMap.get none im.staged (posKey c.1 c.2.1 c.2.2)).isSome &&
              (SMap.get none s.staging (r.tileAt c.1 c.2.1 c.2.2)).isSome
          if stagingTaken then s else s.loadImage rid r im

/-! Updates of a context that is switched out (R360). -/

/-- Applies an update to the thread of its context's image. -/
def State.updateImage (s : State) (u : Update) : State :=
  match s.regions.findSome? fun c => match c.2 with
      | some r => if r.ctxId = u.ctx then some (c.1, r) else none
      | none => none with
  | none => s
  | some (rid, r) =>
    match r.positions.find? fun c => r.keyAt c.1 c.2.1 c.2.2 = u.key with
    | some c =>
      (match s.threadAt rid r c.1 c.2.1 c.2.2 with
      | some t => s.putThreadAt rid r c.1 c.2.1 c.2.2 (t.apply u)
      | none => s)
    | none => s

/-- IMAGE_UPDATE: the oldest update is applied to the live thread if it is back, or to its image; one for a context
that has ended is dropped. -/
def execImageUpdate (s : State) : Res State :=
  .next <|
    match s.updates with
    | [] => s
    | u :: rest =>
      let s0 := { s with updates := rest }
      match s0.thread u.key with
      | some t => if t.ctxId = u.ctx then s0.setThread u.key (t.apply u) else s0.updateImage u
      | none => s0.updateImage u

end Sys2Proof.Machine
end

