-- ==== Sys2Proof/Machine/Power.lean ====
section
/-!
DEFINITION. Clock spines, power control, temperature and wear (R366, R384 to R391), and the writes to a device's control
space (R312, R328, R364, R385).
-/

namespace Sys2Proof.Machine

/-! The power-control interval (R386). -/

/-- Placed regions of which some tile lies on a device. -/
def State.regionsOn (s : State) (dev : Nat) : List (Nat × Region) :=
  s.regions.filterMap fun c => match c.2 with
    | some r => if r.state != .saved && r.origins.any (fun o => o.dev = dev) then some (c.1, r) else none
    | none => none

/-- Dies of a region, as device and die. -/
def Region.dies (r : Region) : List (Nat × Nat) := (r.keys.map fun k => (keyDev k, tileDie (keyTile k))).dedup

/-- Tiles of a region on one die. -/
def Region.tilesOf (r : Region) (d : Nat × Nat) : List Nat :=
  (r.keys.map keyTile).filter fun t => tileDev t = d.1 && tileDie t = d.2

/-- The caps of a die as its latest interval set them. -/
def State.thermalCap (s : State) (d : Nat × Nat) : Nat := 56 - SMap.get 0 (s.device d.1).capLoss (2 * d.2)
def State.currentCap (s : State) (d : Nat × Nat) : Nat := 56 - SMap.get 0 (s.device d.1).capLoss (2 * d.2 + 1)
def State.capOf (s : State) (d : Nat × Nat) : Nat := min (s.thermalCap d) (s.currentCap d)

def listMin (d : Nat) (l : List Nat) : Nat := l.foldl min d

/-- The code that a region wants: on spines of its own, the STEP of its lease. -/
def Region.want (r : Region) : Nat := if r.lease.onSpine then r.lease.step.toNat else r.baseCode

/-- The code that a region's want and the caps of its dies allow, with the reason (R388).
DEDUCED (notes/assumptions/59.md). -/
def State.regionCode (s : State) (r : Region) : Nat × Nat :=
  let tc := listMin 56 (r.dies.map s.thermalCap)
  let cc := listMin 56 (r.dies.map s.currentCap)
  let c := min r.want (min tc cc)
  (c, if c = r.want then (if r.lease.onSpine then 3 else 0) else if c = tc then 1 else 2)

/-- Steps 1 and 2: temperatures and caps as the sensors give them. -/
def Device.sense (d : Device) (sense : List SensorReading) : Device :=
  sense.foldl (fun x r =>
    let y := (r.temps.zipIdx).foldl (fun (z : Device) t =>
      let k := r.die * 64 + t.2
      let w : Wear := { SMap.get {} z.wear k with temp := BitVec.ofNat 8 t.1 }
      { z with wear := SMap.put {} z.wear k w }) x
    let m := SMap.put 0 y.capLoss (2 * r.die) (56 - min r.tc 56)
    { y with capLoss := SMap.put 0 m (2 * r.die + 1) (56 - min r.cc 56) }) d

/-- Records and weights that were written come into force. -/
def Device.newInterval (d : Device) (now : Nat) : Device :=
  { d with
    power := d.powerWritten
    weights := d.weightsNext.foldl (fun m c => SMap.put none m c.1 c.2) d.weights
    weightsNext := []
    hbmSet := d.hbmTemp
    boosted := d.boosted.filter fun c => now < c.1 + 10000000
    interval := now + 1 }

/-- Boosted time of a module in the last 10 ms with what the granted leases on it may still use.
DEDUCED (notes/assumptions/58.md). -/
def State.boostedTime (s : State) (dev : Nat) : Nat :=
  (s.device dev).boosted.foldl (fun (a : Nat) c => a + c.2) 0 +
    (s.regionsOn dev).foldl (fun (a : Nat) c =>
      if c.2.lease.state = 2 ∧ ¬ (c.2.state = .starting ∧ c.2.moved = true) then a + c.2.lease.remain.toNat else a) 0

/-- Whether another placed graph, or an answered reservation, holds a slot on a tile of a region. -/
def State.sharesTile (s : State) (rid : Nat) (r : Region) : Bool :=
  let ts := r.keys.map keyTile
  (s.regions.any fun c => match c.2 with
    | some q => c.1 != rid && q.held.any fun k => ts.contains (keyTile k)
    | none => false) ||
  s.reservations.any fun v => match v.answer with
    | .placed h => h.tiles.any fun t => ts.contains t
    | _ => false

/-- Moves the tiles of a region to a free spine of each of its dies, which no reservation holds; nothing where a die has
none. -/
def State.toFreeSpines (s : State) (r : Region) : List (Nat × Nat) → Option State
  | [] => some s
  | die :: rest =>
    let d := s.device die.1
    match (d.freeSpines die.2).drop (s.spinesHeld die.1 die.2).length with
    | [] => none
    | i :: _ =>
      let d1 := (r.tilesOf die).foldl (fun (x : Device) t =>
        { x with tileSpine := SMap.put 0 x.tileSpine (tileIndex t) (i + 1) }) d
      (s.setDevice die.1 d1).toFreeSpines r rest

/-- Spines of its own for a region on every die, for its lease: a tile that another graph shares can move to none.
DEDUCED (notes/assumptions/59.md). -/
def State.ownSpines (s : State) (rid : Nat) (r : Region) : Option State :=
  if s.sharesTile rid r then none else s.toFreeSpines r r.dies

/-- Moves the tiles of a region back to a spine at its base code. -/
def State.toBaseSpines (s : State) (r : Region) : State :=
  r.dies.foldl (fun x die =>
    let d := x.device die.1
    let own := ((r.tilesOf die).map fun t => SMap.get 0 d.tileSpine (tileIndex t)).headD 0
    match (List.range 8).find? fun i =>
        i + 1 != own && d.spineUsed die.2 i && d.spineCode die.2 i = r.baseCode && !x.spineBoosted die.1 die.2 i with
    | some i => x.setDevice die.1 ((r.tilesOf die).foldl (fun (y : Device) t =>
        { y with tileSpine := SMap.put 0 y.tileSpine (tileIndex t) (i + 1) }) d)
    | none => x) s

/-- Devices of a region. -/
def Region.devs (r : Region) : List Nat := (r.origins.map Origin.dev).dedup

/-- Step 3 for one pending request, under the power record of the device that holds the graph. -/
def State.decideBoost (s : State) (rid : Nat) : State :=
  match s.region rid with
  | none => s
  | some r =>
    let l := r.lease
    let p := (s.device ((r.origins.map Origin.dev).headD 0)).pow r.launch.part
    let refused := s.setRegion rid { r with lease := { l with state := 3 } }
    if !p.boostEn || l.step.toNat ≤ r.curCode || (r.dies.any fun d => s.capOf d ≤ r.baseCode) ||
        r.devs.any fun d => 10000 < s.boostedTime d + l.dur.toNat then refused
    else
      match if l.onSpine then some s else s.ownSpines rid r with
      | none => refused
      | some s1 => s1.setRegion rid { r with lease := { l with state := 2, remain := l.dur, onSpine := true } }

/-- Placed regions of the domain. -/
def State.placed (s : State) : List (Nat × Region) :=
  s.regions.filterMap fun c => match c.2 with
    | some r => if r.state != .saved then some (c.1, r) else none
    | none => none

/-- Pending requests of resident graphs, in the order of their arrival. A graph that pre-emption has gated has its
request refused when it is saved (R392). -/
def State.pendingBoosts (s : State) : List Nat :=
  let ps := s.placed.filter fun c => c.2.lease.state = 1 && c.2.state = .resident
  let ts := (ps.map fun c => c.2.lease.time).dedup
  (ts.foldl (fun l t => l.filter (fun a => a < t) ++ t :: l.filter (fun a => t < a)) []).flatMap fun t =>
    (ps.filter fun c => c.2.lease.time = t).map fun c => c.1

/-- Spines of a region at the boundary: a lease that has ended gives its spine back; a lease that came back with a
restore takes one. -/
def State.settleSpines (s : State) (rid : Nat) : State :=
  match s.region rid with
  | none => s
  | some r =>
    if r.lease.onSpine ∧ r.lease.state ≠ 2 then
      let r1 : Region := { r with lease := { r.lease with onSpine := false } }
      (s.setRegion rid r1).toBaseSpines r1
    else if r.state = .resident ∧ r.lease.state = 2 ∧ r.lease.onSpine = false then
      match s.ownSpines rid r with
      | some s1 => s1.setRegion rid { r with lease := { r.lease with onSpine := true } }
      | none => s
    else s

/-- Selections of a device that take effect at the boundary (R384). -/
def Device.switchSpines (d : Device) : Device :=
  { d with tileSpine := d.spineNext.foldl (fun m c => SMap.put 0 m c.1 c.2) d.tileSpine, spineNext := [] }

/-- A placed region at a boundary: its number, the spines that its tiles select, as device * 32 + 8 * die + spine, its
code with the reason, and whether it is boosted. -/
structure Run where
  rid : Nat
  spines : List Nat
  code : Nat × Nat
  boosted : Bool

def State.runOf (s : State) (c : Nat × Region) : Run :=
  let sel (k : Nat) : Option Nat :=
    let n := SMap.get 0 (s.device (keyDev k)).tileSpine (tileIndex (keyTile k))
    if n = 0 then none else some (keyDev k * 32 + tileDie (keyTile k) * 8 + (n - 1))
  ⟨c.1, (c.2.keys.filterMap sel).dedup, s.regionCode c.2, c.2.lease.onSpine⟩

/-- The lower of two codes, with its reason. -/
def lowerCode (a b : Nat × Nat) : Nat × Nat := if b.1 < a.1 then b else a

/-- Regions that share a spine run at one code, the least of theirs, and so does what each of them runs on: `n` rounds
spread it (R23, R384). A boosted spine takes its lease's code alone (R386). DEDUCED (notes/assumptions/59.md). -/
def shareCodes : Nat → List Run → List Run
  | 0, l => l
  | n + 1, l => shareCodes n (l.map fun a =>
      let near := l.filter fun b => !b.boosted && b.spines.any fun k => a.spines.contains k
      if a.boosted then a else { a with code := near.foldl (fun c b => lowerCode c b.code) a.code })

/-- Step 4 for all devices: the codes of the regions that run. -/
def State.runs (s : State) : List Run :=
  let l := s.placed.map s.runOf
  shareCodes l.length l

/-- The code of spine `k`, with its reason: that of the boosted region, else of those that share it. -/
def spineRun (rs : List Run) (k : Nat) : Option (Nat × Nat) :=
  let users := rs.filter fun a => a.spines.contains k
  match users.find? Run.boosted, users with
  | some a, _ => some a.code
  | none, u :: _ => some u.code
  | none, [] => none

/-- Step 4: each spine of a device that a region selects takes its code. -/
def State.setCodes (s : State) (rs : List Run) (dev : Nat) : State :=
  let d := s.device dev
  let put (m : SMap Nat) (k : Nat) : SMap Nat :=
    match spineRun rs (dev * 32 + k) with
    | some c => SMap.put 0 m k c.1
    | none => m
  s.setDevice dev { d with spines := (List.range 32).foldl put d.spines }

/-- The code of a tile's spine, and the spine plus 1. -/
def Device.tileCode (d : Device) (i : Nat) : Nat × Nat :=
  let n := SMap.get 0 d.tileSpine i
  (if n = 0 then 0 else d.spineCode (i / 224) (n - 1), n)

/-- Trace entries of the tiles of a device whose code has changed (R388); `why` gives the reason of a spine. -/
def Device.traceChanges (d old : Device) (dev now : Nat) (why : Nat → Nat) : Device :=
  d.tileSpine.foldl (fun x c =>
    let a := old.tileCode c.1
    let b := d.tileCode c.1
    if a.1 = b.1 ∨ b.2 = 0 then x
    else x.addTrace (dev * 896 + c.1) now b.1 (b.2 - 1) (why (c.1 / 224 * 8 + (b.2 - 1)))) d

/-- A lease that has run down ends (R386, step 5). -/
def Lease.finish (l : Lease) : Lease := if l.state = 2 ∧ l.remain = 0 then { l with state := 0 } else l

/-- Steps 4 and 5 for one region: its code, its lease, and its boosted time on every device that it lies on. -/
def State.runLease (s : State) (u : Run) : State :=
  match s.region u.rid with
  | none => s
  | some r =>
    let l := r.lease
    if l.state = 2 ∧ r.state = .resident then
      if u.code.1 < l.step.toNat then
        s.setRegion u.rid { r with curCode := u.code.1, lease := { l with clipped := true } }
      else
        let k := min 50 l.remain.toNat
        let s1 := r.devs.foldl (fun x dev =>
          x.setDevice dev { x.device dev with boosted := (x.device dev).boosted ++ [(s.now, k)] }) s
        s1.setRegion u.rid
          { r with curCode := u.code.1,
                   lease := ({ l with clipped := false, remain := l.remain - BitVec.ofNat 14 k } : Lease).finish }
    else s.setRegion u.rid { r with curCode := u.code.1 }

/-- The slot-return delay of a quad's router ports (R389). DESIGN CHOICE (notes/assumptions/64.md). -/
def State.paceOf (s : State) (dev k : Nat) : Nat :=
  let d := s.device dev
  let t := (SMap.get {} d.wear k).temp.toNat
  let quad := dev * 224 + k / 64 * 56 + k % 64
  let ps := (s.regionsOn dev).filterMap fun c =>
    if c.2.keys.any fun y => quadKey (keyTile y) = quad then some c.2.launch.part else none
  (ps.map fun p =>
    let w := d.pow p
    if w.thot < t then min 255 (w.pace * (t - w.thot)) else 0).foldl max 0

/-- Devices whose modules are up. -/
def State.upDevices (s : State) : List Nat :=
  s.devices.filterMap fun c => if c.2.module = .up then some c.1 else none

/-- The slot-return delays of a device (R389). -/
def State.setDelays (s : State) (dev : Nat) : State :=
  let ks := (List.range 4).flatMap fun die => (List.range 56).map fun q => die * 64 + q
  s.setDevice dev { s.device dev with delay := ks.foldl (fun (m : SMap Nat) k => SMap.put 0 m k (s.paceOf dev k)) [] }

/-- Steps 3 to 5 at a boundary, once every controller has read its sensors and they have agreed (R386). -/
def State.boundary (s : State) : State :=
  let devs := s.upDevices
  let s1 := devs.foldl (fun x dev => x.setDevice dev (x.device dev).switchSpines) s
  let s2 := s1.pendingBoosts.foldl State.decideBoost s1
  let s3 := (s2.placed.map fun c => c.1).foldl State.settleSpines s2
  let rs := s3.runs
  let s4 := devs.foldl (fun x dev => x.setCodes rs dev) s3
  let s5 := devs.foldl (fun x dev => x.setDevice dev ((x.device dev).traceChanges (s.device dev) dev s.now fun k =>
    ((spineRun rs (dev * 32 + k)).getD (0, 0)).2)) s4
  devs.foldl State.setDelays (rs.foldl State.runLease s5)

/-- POWER_INTERVAL (R386, R389): once at each boundary for each device; the last of the devices that are up to read its
sensors brings the codes and leases of the domain. DEDUCED (notes/assumptions/57.md). -/
def execPowerInterval (dev : Nat) (sense : List SensorReading) (s : State) : Res State :=
  .next <|
    let d0 := s.device dev
    if s.now % 50000 ≠ 0 ∨ s.now < d0.interval ∨ d0.module ≠ .up then s
    else
      let s1 := s.setDevice dev ((d0.newInterval s.now).sense sense)
      if s1.upDevices.all fun k => s.now < (s1.device k).interval then s1.boundary else s1

/-- LEASE_END (R386, step 5): a lease with no time left ends; its spine is released at the next boundary. -/
def execLeaseEnd (rid : Nat) (s : State) : Res State :=
  .next <|
    match s.region rid with
    | some r => s.setRegion rid { r with lease := r.lease.finish }
    | none => s

/-! HBM temperature (R390). -/

/-- HBM_TEMP_READ (R390): a read that fails counts as code 7; its settings apply from the next interval. -/
def execHbmTempRead (dev stack : Nat) (code : Option (BitVec 3)) (s : State) : Res State :=
  .next (if 8 ≤ stack then s else
    let d := s.device dev
    s.setDevice dev { d with hbmTemp := SMap.put 0 d.hbmTemp stack (code.getD 7) })

/-- Refresh rate and bandwidth cap per channel, in per cent, of a stack (R390). -/
def Device.hbmSettings (d : Device) (stack : Nat) : Nat × Nat :=
  let c := (SMap.get 0 d.hbmSet stack).toNat
  if c ≤ 3 then (1, 100) else if c = 4 then (2, 100) else if c = 5 then (4, 75) else if c = 6 then (4, 50) else (4, 25)

/-! Wear (R391). -/

/-- The wear index of a quad; the manual gives none where no quad of the device has any life left. -/
def wearIndex (eolh most dev : Nat) : BitVec 8 :=
  if most = 0 then Config.wearAllZero dev else BitVec.ofNat 8 (255 * (most - eolh) / most)

/-- WEAR_UPDATE (R391): the predicted life of each quad, die by die, from its sensor. -/
def execWearUpdate (dev : Nat) (eolh : List (BitVec 32)) (s : State) : Res State :=
  .next <|
    let d := s.device dev
    let most := (eolh.map BitVec.toNat).foldl max 0
    s.setDevice dev ((eolh.zipIdx).foldl (fun (x : Device) c =>
      let k := c.2 / 56 * 64 + c.2 % 56
      let w : Wear := { SMap.get {} x.wear k with eolh := c.1, wear := wearIndex c.1.toNat most dev }
      { x with wear := SMap.put {} x.wear k w }) d)

/-! The static share (R366). -/

/-- STATIC_SHARE: one clock of a tile. -/
def execStaticShare (tile : Nat) (s : State) : Res State :=
  .next <|
    let d := s.device (tileDev tile)
    let ks := (List.range 4).map fun i => tile * 4 + i
    let mine := ks.filter fun k => match s.thread k with
      | some t => t.resident && (match s.region t.rid with | some r => r.acts s.now | none => false)
      | none => false
    let share := d.weight 16 * 60 / (24 + (d.tileCode (tileIndex tile)).1) / mine.length
    mine.foldl (fun x k => match x.thread k with
      | some t => x.setThread k (t.charge share)
      | none => x) s

/-! Writes to control space. -/

/-- A write of a partition's policy record (R328): word 0 by Tack or Tree, MSQ by Tree alone. -/
def State.policyWrite (s : State) (dev part word : Nat) (v : Dword) (tree : Bool) : State :=
  let d := s.device dev
  let p := d.pol part
  let x := v.toNat
  if word = 0 then
    s.setDevice dev (d.setPol part { p with
      bypassMax := if bitsOf x 7 0 = 0 then p.bypassMax else bitsOf x 7 0
      xpen := bitsOf x 15 8, wearW := bitsOf x 23 16, preemptMin := bitsOf x 26 24, preemptEn := bitOf x 27 })
  else if word = 1 ∧ tree = true then
    let m := bitsOf x 16 0
    let others := (List.range 16).foldl (fun (a : Nat) q => if q = part then a else a + (d.pol q).msq) 0
    if 65536 < others + m ∨ m * 4096 < s.msCharge part dev none s.nextLaunch then s
    else s.setDevice dev (d.setPol part { p with msq := m })
  else s

/-- Whether a module is in hold-up mode. -/
def Device.held (d : Device) : Bool := match d.module with | .holdUp _ => true | _ => false

/-- Whether the cores of a device act: Tack once boot step 5 has started it and not in hold-up mode, Tree while there is
power (R372, R373, R407). -/
def Device.coreActs (d : Device) (tack : Bool) : Bool :=
  match d.module with
  | .up => true
  | .booting n => !tack || 6 ≤ n
  | .holdUp _ | .recovery => !tack
  | .dead => false

/-- POLICY_RECORD_WRITE (R328), by Tree or by Tack while it acts. -/
def execPolicyRecordWrite (dev part word : Nat) (v : Dword) (tree : Bool) (s : State) : Res State :=
  .next (if (s.device dev).coreActs (!tree) then s.policyWrite dev part word v tree else s)

/-- A write of word 0 of a partition's power record (R385), in force from the next interval. -/
def State.powerWrite (s : State) (dev part : Nat) (v : Dword) : State :=
  let d := s.device dev
  let p := SMap.get {} d.powerWritten part
  let x := v.toNat
  let q : Power :=
    { base := if 56 < bitsOf x 5 0 then p.base else bitsOf x 5 0, boostEn := bitOf x 8, thot := bitsOf x 23 16
      pace := bitsOf x 31 24 }
  s.setDevice dev { d with powerWritten := SMap.put {} d.powerWritten part q }

/-- POWER_RECORD_WRITE (R385), by Tack while it acts. -/
def execPowerRecordWrite (dev part : Nat) (v : Dword) (s : State) : Res State :=
  .next (if (s.device dev).coreActs true then s.powerWrite dev part v else s)

/-- A write of an energy weight by Tree (R364), in force from the next interval. -/
def State.weightWrite (s : State) (dev word : Nat) (v : Dword) : State :=
  let d := s.device dev
  if word ≤ 16 then
    s.setDevice dev { d with weightsNext := SMap.put none d.weightsNext word (some (v.toNat % 2 ^ 32)) }
  else s

/-- ENERGY_WEIGHT_WRITE (R364), by Tree while it acts. -/
def execEnergyWeightWrite (dev word : Nat) (v : Dword) (s : State) : Res State :=
  .next (if (s.device dev).coreActs false then s.weightWrite dev word v else s)

/-- The oldest load of a management set reads its words, unless a lazy page makes it wait; a read that faults is refused. -/
def State.readSdl (s : State) (dev part : Nat) : State :=
  let p := SMap.get {} (s.device dev).mgmt part
  let put (x : State) (q : PrivSet) : State :=
    x.setDevice dev { x.device dev with mgmt := SMap.put {} (x.device dev).mgmt part { q with sdlTgt := p.sdlTgt } }
  match p.sdlReads with
  | [] => s
  | (tgt, a) :: r =>
    let q := { p with sdlTgt := tgt, sdlReads := r }
    let l : LaunchRec := { image := 0, arg := 0, done := 0, seed := 0, group := 0, gsize := 0, prio := 0, tagByte := 0
                           reserved := 0, dev := dev, part := part, super := true, trusted := true, host := none
                           launcher := none, arrival := 0, n := 0, bypass := 0, blocking := false, hdr := {} }
    match readVirt s l a.toNat 64 3 with
    | .bytes bs s1 => put s1 (q.sdlRead s1 part (wordsOf bs 16))
    | .bad s1 => put s1 { q with sdlStat := 2 }
    | .busy s1 => s1

/-- A write to CSR `n` of a partition's block, by Tree or by Tack (R312, R317). A management set has no thread whose
ag0 could read the words of SDL_LOAD: the walk is that of the device's first tile. -/
def State.blockWrite (s : State) (dev part n : Nat) (v : Dword) (tack : Bool) : State :=
  let d := s.device dev
  let p := SMap.get {} d.mgmt part
  let put (x : State) (q : PrivSet) : State :=
    x.setDevice dev { x.device dev with mgmt := SMap.put {} (x.device dev).mgmt part q }
  if tack ∧ n ≠ 2 ∧ n ≠ 8 then s.fenceViolation dev
  else if n = 0x21 then
    if v.toNat % 64 ≠ 0 then put s { p with sdlStat := 2 }
    else (put s { p with sdlStat := 3, sdlReads := p.sdlReads ++ [(p.sdlTgt, v)] }).readSdl dev part
  else
    match privWrite s part p n v with
    | some (s1, q) => put s1 q
    | none => s

/-- SDL_LOAD_APPLY (R315): each invocation runs as one action, so the entry is free whenever this event occurs. The
key names the S thread whose load waits, or 2^32 + dev*16 + part a management set. Nothing takes effect in a module that is
not up (R319). -/
def execSdlLoadApply (key : Nat) (s : State) : Res State :=
  .next <|
    if 2 ^ 32 ≤ key then
      let dev := (key - 2 ^ 32) / 16
      let part := (key - 2 ^ 32) % 16
      let d := s.device dev
      if d.module ≠ .up then s
      else if (SMap.get {} d.mgmt part).sdlReads ≠ [] then s.readSdl dev part
      else
        let x := s.sdlApply part (SMap.get {} d.mgmt part)
        x.1.setDevice dev { d with mgmt := SMap.put {} d.mgmt part x.2 }
    else
      match s.thread key with
      | some t =>
        (match if (s.device (keyDev key)).module = .up then s.region t.rid else none with
        | some g =>
          let x := s.sdlApply g.launch.part t.priv
          x.1.setThread key { t with priv := x.2 }
        | none => s)
      | none => s

/-- An 8-byte store to control space by Tree or by Tack. Locations that are not listed, and read-only ones, ignore it. -/
def State.controlWrite (s : State) (dev off : Nat) (v : Dword) (tack : Bool) : State :=
  let o := off / 8 * 8
  if (s.device dev).coreActs tack = false then s
  else if 0x1_0000 ≤ o ∧ o < 0x1_0400 then s.policyWrite dev ((o - 0x1_0000) / 64) (o % 64 / 8) v (!tack)
  else if 0x3_0000 ≤ o ∧ o < 0x3_0100 then
    if tack then s else s.weightWrite dev ((o - 0x3_0000) / 8) v
  else if 0x4_0000 ≤ o ∧ o < 0x4_0400 then
    if o % 64 = 0 then s.powerWrite dev ((o - 0x4_0000) / 64) v else s
  else if 0x20_0000 ≤ o ∧ o < 0x24_0000 then
    s.blockWrite dev ((o - 0x20_0000) / 0x4000) (o % 0x4000 / 8) v tack
  else s

/-- CONTROL_SPACE_WRITE (R312): an 8-byte store by Tree, or from offset 2^39 on by Tack.
DEDUCED (notes/assumptions/62.md). -/
def execControlSpaceWrite (dev off : Nat) (v : Dword) (s : State) : Res State :=
  .next (s.controlWrite dev (off % 2 ^ 39) v (2 ^ 39 ≤ off))

/-! Partitions (R316, R330). -/

/-- Whether a resident graph or a pending launch of a partition exists; `f` says which regions count. -/
def State.partitionBusy (s : State) (part : Nat) (f : Region → Bool) : Bool :=
  (s.regions.any fun c => match c.2 with | some r => r.launch.part = part && f r | none => false) ||
    (s.arrivals.any fun l => l.part = part) || (s.attestations.any fun l => l.part = part) ||
    s.devices.any fun c => c.2.queues.any fun q => q.2.any fun l => l.part = part

/-- Partitions that own a part of a resource. -/
def State.ownersOf (s : State) (f : Partition → Bool) : List Nat :=
  (List.range 16).filter fun p => f (s.partition p)

/-- Changes the partition numbered `owner`, if there is one. -/
def State.giveTo (s : State) (owner : Nat) (f : Partition → Partition) : State :=
  if owner < 16 then s.setPartition owner (f (s.partition owner)) else s

/-- Ranges without the granules [lo, lo + n). -/
def cutRanges (rs : List (Nat × Nat)) (lo n : Nat) : List (Nat × Nat) :=
  rs.flatMap fun c =>
    ([(c.1, min (c.1 + c.2) lo - c.1), (max c.1 (lo + n), c.1 + c.2 - max c.1 (lo + n))] : List (Nat × Nat)).filter
      fun d => d.2 != 0

/-- Clears what a quad's tiles and vault hold, with their residency tags and cached translations (R330, R346). -/
def State.scrubQuad (s : State) (quad : Nat) : State :=
  let tiles := (List.range 224).map fun i => quad / 224 * 896 + quad % 224 / 56 * 224 + i
  let s1 := (tiles.filter fun t => quadKey t = quad).foldl (fun x t =>
    let y := x.scrub (spadAddr t 0) (2 ^ 19)
    { y with residency := y.residency.filter fun c => c.1 / 4 != t
             tlb := y.tlb.filter fun e => e.owner != 2 * t }) s
  { s1 with walkCache := s1.walkCache.filter fun e => e.quad != quad }.scrub (vaultAddr quad 0) (2 ^ 21)

/-- PARTITION_CHANGE (R316): Tree gives a resource unit to a partition, or from 16 on to none, scrubbed; it refuses while
the old owner uses it, and where a partition would come to more than 16 ranges on a device. An endpoint may serve several
partitions: it is taken from partition `owner - 16`. DESIGN CHOICE (notes/assumptions/63.md). -/
def execPartitionChange (res : Resource) (owner : Nat) (s : State) : Res State :=
  .next <|
    match res with
    | .quad dev die q =>
      let k := dev * 224 + die * 56 + q
      let old := s.ownersOf fun p => p.quads.contains k
      let others := s.ownersOf fun p => p.quads.any fun j => j / 224 = dev
      if (old.any fun p => s.partitionBusy p fun r =>
            r.state != .saved && r.keys.any fun y => quadKey (keyTile y) = k) ||
          (owner < 16 && !others.contains owner && 4 ≤ others.length) then s
      else
        let s1 := old.foldl (fun x p =>
          x.giveTo p fun w => { w with quads := w.quads.filter fun j => j != k }) s
        (s1.scrubQuad k).giveTo owner fun w => { w with quads := w.quads ++ [k] }
    | .hbm lo n =>
      let old := s.ownersOf fun p => p.hbm.any fun c => meets c.1 c.2 lo n
      let dev := lo * 2 ^ 21 / 2 ^ 48
      let mine := ((cutRanges (s.partition owner).hbm lo n).filter fun c => c.1 * 2 ^ 21 / 2 ^ 48 = dev).length
      if n = 0 || !isHbm (lo * 2 ^ 21) || !isHbm ((lo + n) * 2 ^ 21 - 1) ||
          ((lo + n) * 2 ^ 21 - 1) / 2 ^ 48 ≠ dev || (old.any fun p => s.partitionBusy p fun _ => true) ||
          (owner < 16 && 16 ≤ mine) ||
          old.any fun p => 16 < ((cutRanges (s.partition p).hbm lo n).filter fun c => c.1 * 2 ^ 21 / 2 ^ 48 = dev).length then s
      else
        let s1 := old.foldl (fun x p =>
          (x.giveTo p fun w => { w with hbm := cutRanges w.hbm lo n }).dropTranslations p) s
        let s2 := s1.scrub (lo * 2 ^ 21) (n * 2 ^ 21)
        let inside (k : Nat) : Bool := lo * 2 ^ 15 ≤ k && k < (lo + n) * 2 ^ 15
        { s2 with marks := s2.marks.filter fun c => !inside c.1 }.giveTo owner fun w => { w with hbm := w.hbm ++ [(lo, n)] }
    | .device dev =>
      if owner < 16 then
        s.giveTo owner fun w => if w.devices.contains dev then w else { w with devices := w.devices ++ [dev] }
      else if s.partitionBusy (owner - 16) fun r => r.origins.any fun o => o.dev = dev then s
      else s.giveTo (owner - 16) fun w =>
        { w with devices := w.devices.filter fun d => d != dev, admitted := w.admitted.filter fun d => d != dev }
    | .window bridge part =>
      if (s.device bridge).bridge = false then s
      else if owner = part then
        s.giveTo part fun w => if w.bridges.contains bridge then w else { w with bridges := w.bridges ++ [bridge] }
      else if s.partitionBusy part fun _ => false then s
      else s.giveTo part fun w => { w with bridges := w.bridges.filter fun b => b != bridge }

end Sys2Proof.Machine
end

