-- ==== Sys2Proof/Machine/ControlSpace.lean ====
section
/-!
DEFINITION. What device control space holds, as the management and security cores read it with 8-byte loads (R310, R312,
R317): policy, power and wear records, energy weights, frequency traces, and the block of each partition; and what the
cores reach beyond it.
-/

namespace Sys2Proof.Machine

/-- Word `w` of a partition's policy record (R328). -/
def Device.policyWord (d : Device) (part w : Nat) : Nat :=
  let p := d.pol part
  match w with
  | 0 => p.bypassMax + p.xpen * 2 ^ 8 + p.wearW * 2 ^ 16 + p.preemptMin * 2 ^ 24 + (if p.preemptEn then 2 ^ 27 else 0)
  | 1 => p.msq
  | 2 => leNat ((List.range 8).map fun k => BitVec.ofNat 8 (d.queue part k).length)
  | 3 => p.admits % 2 ^ 32 + p.bypasses % 2 ^ 32 * 2 ^ 32
  | 4 => p.doneLost
  | 5 => p.lostCtx.toNat
  | _ => 0

/-- Word 0 of a partition's power record as written (R385); the other words read zero. -/
def Device.powerWord (d : Device) (part : Nat) : Nat :=
  let p : Power := SMap.get {} d.powerWritten part
  p.base + (if p.boostEn then 2 ^ 8 else 0) + p.thot * 2 ^ 16 + p.pace * 2 ^ 24

/-- Word `w` of the energy weight table as written (R364). -/
def Device.weightWord (d : Device) (w : Nat) : Nat :=
  if 16 < w then 0
  else match SMap.get none d.weightsNext w with
    | some v => v
    | none => d.weight w

/-- The wear record of a quad (R391). -/
def Device.wearWord (d : Device) (die q : Nat) : Nat :=
  let w : Wear := SMap.get {} d.wear (die * 64 + q)
  w.eolh.toNat + w.wear.toNat * 2 ^ 32 + w.temp.toNat * 2 ^ 40

/-- Half `h` of the entry in place `n` of a quad's trace ring (R388). -/
def Device.traceWord (d : Device) (die q n h : Nat) : Nat :=
  match (SMap.get [] d.trace (die * 64 + q)).find? fun e => e.idx = n with
  | none => 0
  | some e =>
    if h = 0 then e.time else e.code + e.tile * 2 ^ 8 + e.spine * 2 ^ 10 + e.why * 2 ^ 13 + e.idx * 2 ^ 16

/-- A read of CSR `n` of a partition's block through its management set; Tack reads TNEXT, TSEL, TSTATE, TCAUSE and TTHR
alone (R312, R317). -/
def State.blockRead (s : State) (dev part n : Nat) (tack : Bool) : Dword × State :=
  if tack ∧ ¬ (n = 1 ∨ n = 2 ∨ n = 3 ∨ n = 5 ∨ n = 8) then (0, s.fenceViolation dev)
  else
    match privRead s false part (SMap.get {} (s.device dev).mgmt part) n with
    | some (v, s1, p) => (v, s1.setDevice dev { s1.device dev with mgmt := SMap.put {} (s1.device dev).mgmt part p })
    | none => (0, s)

/-- The 8 bytes of control space at an offset, and the state after they are read. Offsets that are not listed read
zero (R312). -/
def State.controlWord (s : State) (dev o : Nat) (tack : Bool) : Dword × State :=
  let d := s.device dev
  if 0x1_0000 ≤ o ∧ o < 0x1_0400 then
    (BitVec.ofNat 64 (d.policyWord ((o - 0x1_0000) / 64) (o % 64 / 8)), s)
  else if 0x3_0000 ≤ o ∧ o < 0x3_0100 then (BitVec.ofNat 64 (d.weightWord ((o - 0x3_0000) / 8)), s)
  else if 0x4_0000 ≤ o ∧ o < 0x4_0400 then
    (if o % 64 = 0 then BitVec.ofNat 64 (d.powerWord ((o - 0x4_0000) / 64)) else 0, s)
  else if 0x5_0000 ≤ o ∧ o < 0x5_4000 then
    (if o % 0x1000 / 8 < 56 then BitVec.ofNat 64 (d.wearWord ((o - 0x5_0000) / 0x1000) (o % 0x1000 / 8)) else 0, s)
  else if 0x6_0000 ≤ o ∧ o < 0x16_0000 then
    let t := o - 0x6_0000
    (BitVec.ofNat 64 (d.traceWord (t / 0x4_0000) (t % 0x4_0000 / 0x1000) (t % 0x1000 / 16) (t % 16 / 8)), s)
  else if 0x20_0000 ≤ o ∧ o < 0x24_0000 then
    s.blockRead dev ((o - 0x20_0000) / 0x4000) (o % 0x4000 / 8) tack
  else (0, s)

/-- An answer to a core joins those not yet taken. -/
def State.answerCore (s : State) (v : Dword) : State := { s with coreReads := s.coreReads ++ [v] }

/-- A management core's load of control space, while it acts. -/
def State.controlLoad (s : State) (dev off : Nat) : State :=
  let tack : Bool := 2 ^ 39 ≤ off
  if (s.device dev).coreActs tack then
    let r := s.controlWord dev (off % 2 ^ 39 / 8 * 8) tack
    r.2.answerCore r.1
  else s

/-! The cores' reach beyond control space (R310, R317). -/

/-- What a core of a device meets at an address. -/
inductive CoreSpace where
  /-- bytes that it may reach -/
  | bytes
  | control (dev off : Nat)
  /-- a fence violation: nothing is performed, and a read gives zero -/
  | fenced
  /-- an address fault (R310) -/
  | fault
  /-- no memory answers -/
  | nothing
  deriving DecidableEq, Repr

/-- The space of an address for Tack or Tree: HBM, control space, Tree space; and by the model's addresses vaults,
scratchpads and save stores. Tack never reaches tenant memory, Tree space or the save store. HBM that no partition owns is
no tenant's. In hold-up mode a module's SRAM is not read (R372). DEDUCED (notes/assumptions/62.md). -/
def State.coreSpace (s : State) (dev : Nat) (tack : Bool) (fa : Nat) : CoreSpace :=
  let target := if fa < 2 ^ 62 then addrDev fa else (fa - 2 ^ 62) / 2 ^ 30
  let space := bitsOf fa 47 39
  let sram := 2 ^ 60 ≤ fa ∧ fa < 2 ^ 62
  if (s.device dev).coreActs tack = false ∨ (target ≠ dev ∧ (s.device target).module ≠ .up) then .nothing
  else if 2 ^ 60 ≤ fa then
    if tack then .fenced else if sram ∧ (s.device target).held then .nothing else .bytes
  else if 2 ^ 56 ≤ fa then .fault
  else if space = 1 then .control target (fa % 2 ^ 39)
  else if space = 2 then (if tack then .fenced else .bytes)
  else if space ≠ 0 then .fault
  else if tack && (List.range 16).any fun p => (s.partition p).ownsHbm (fa / 8 * 8) 8 then .fenced
  else .bytes

/-- An address fault is given to a core. -/
def State.coreFault (s : State) (dev : Nat) (tack : Bool) (fa : Nat) : State :=
  { s with coreFaults := s.coreFaults ++ [(dev, tack, fa)] }

/-- A core reads 8 bytes. -/
def State.coreRead (s : State) (dev : Nat) (tack : Bool) (fa : Nat) : State :=
  match s.coreSpace dev tack fa with
  | .bytes => s.answerCore (BitVec.ofNat 64 (s.readNat (fa / 8 * 8) 8))
  | .control d o => let r := s.controlWord d (o / 8 * 8) tack; r.2.answerCore r.1
  | .fenced => (s.fenceViolation dev).answerCore 0
  | .fault => s.coreFault dev tack fa
  | .nothing => s

/-- A core writes 8 bytes. It waits while its write makes translations void that are in use (R345); only the cinch writes to
a save store (R376, R382). -/
def State.coreWrite (s : State) (dev : Nat) (tack : Bool) (fa : Nat) (v : Dword) : State :=
  match s.coreSpace dev tack fa with
  | .bytes =>
    if 2 ^ 62 ≤ fa ∨ s.inUse (sectorOf fa) (fun _ => false) = true then s
    else s.storeBytes (fa / 8 * 8) (leBytes v.toNat 8)
  | .control d o => s.controlWrite d o v tack
  | .fenced => s.fenceViolation dev
  | .fault => s.coreFault dev tack fa
  | .nothing => s

end Sys2Proof.Machine
end

