-- ==== Sys2Proof/Machine/Fabric.lean ====
section
/-!
DEFINITION. The fabric (R394 to R402, R410): delivery of flits at their targets, and the ports' lane groups. Also table
walks and invalidations as events of their own (R336, R344).
-/

namespace Sys2Proof.Machine

/-! Inside a device (R394). -/

/-- The die of a port (R11). -/
def portDie (p : Nat) : Nat := if p < 8 then p / 2 else p - 8

/-- The dies that a flit passes on the ring 0-1-3-2-0 from one die to another: two dies apart, by way of the one with the
lower number. -/
def diePath (a b : Nat) : List Nat :=
  if a = b then [a] else if a + b = 3 then [a, if a = 0 ∨ a = 3 then 1 else 0, b] else [a, b]

/-- The die that a flit has to reach on its last device: that of its target stack, or of the tile that it answers. -/
def Flit.endDie (f : Flit) : Nat :=
  match f with
  | .loadReq _ _ _ _ _ | .atomicReq _ _ _ _ _ _ _ | .pooledReadReq _ _ _ _ _ _ _ | .invocation _
  | .pooledStore _ _ _ _ _ _ => addrDie f.addr
  | .loadReply r | .atomicReply r => tileDie (keyTile r.who.key)
  | .invResult v => tileDie (keyTile v.who.key)
  | .storeAck w _ _ _ _ => tileDie (keyTile w.key)
  | .pooledReply k _ _ _ _ _ _ _ _ _ => tileDie (keyTile k)
  | .launch _ _ _ | .sched _ _ _ => 0
  | .bound b => tileDie (keyTile b.peer)

/-! From port to port (R394, R395, R402). -/

/-- The port by which a flight leaves the device that it has reached; nothing where it is at its end or both ports of its
direction are down. A binding's flits leave by the port of its lane group (R399). -/
def State.nextPort (s : State) (v : Flight) : Option Nat :=
  (hopDir v.dev v.flit.dst).bind fun dir =>
    match v.flit with
    | .bound b => ((s.device v.dev).boundGroup dir (bindingId b.key b.q)).map fun g => g.1
    | f => (s.device v.dev).portFor dir (bitsOf f.addr 12 12)

/-- The dateline class of a flight behind the hop by a port (R395): 0 in a dimension that it enters, 1 from the link between
the last coordinate and 0 on. -/
def Flight.classAfter (v : Flight) (port : Nat) : Nat :=
  let dim := port / 4
  let c := devCoord v.dev dim
  let edge := if port / 2 % 2 = 0 then ringLen dim - 1 else 0
  if c = edge then 1 else if c = devCoord v.flit.src dim then 0 else v.cls

/-- Whether a lane group carries a flit: group 0 the control plane, an unbound data group the pooled planes, a bound one its
binding (R395, R399). -/
def LaneGroup.carries (l : LaneGroup) (g : Nat) (f : Flit) : Bool :=
  match f with
  | .bound b => l.binding = some (bindingId b.key b.q)
  | f => if f.vc ≤ 2 then g = 0 else 1 ≤ g && g ≤ 7 && l.binding = none

/-- Whether two flits keep their order: same source, destination and channel (R395). -/
def Flit.together (a b : Flit) : Bool := a.src = b.src && a.dst = b.dst && a.vc = b.vc

/-- Flights that a lane group may send next, in order: not yet sent, leaving by its port, behind no flit of their own order
that waits at the device or that another group has. -/
def State.mayLeave (s : State) (dev port g : Nat) : List Flight → List Flight → List Flight
  | _, [] => []
  | front, v :: r =>
    let k := 8 * port + g
    let ok := v.dev = dev && v.sent = none && s.nextPort v = some port &&
      ((s.device dev).lanes port g).carries g v.flit &&
      front.all fun e => !(e.dev = dev && e.flit.together v.flit) || e.sent.any fun n => n.1 = k
    (if ok then [v] else []) ++ s.mayLeave dev port g (front ++ [v]) r

/-- The flight that a group sends next: sources take turns. -/
def LaneGroup.pick (l : LaneGroup) (vs : List Flight) : Option Flight :=
  let turn (v : Flight) : Nat := (v.flit.src + 255 - l.lastSrc) % 256
  match vs.map turn with
  | [] => none
  | ts => vs.find? fun v => turn v = listMin 256 ts

/-- Flights in the replay buffer of a group. -/
def State.buffered (s : State) (dev k : Nat) : List Flight :=
  s.flits.filter fun v => v.dev = dev && v.sent.any fun n => n.1 = k

/-- A list with its first `a` changed to `b`. -/
def replaceFirst (a b : Flight) : List Flight → List Flight
  | [] => []
  | c :: r => if c = a then b :: r else c :: replaceFirst a b r

/-- A lane group sends while its replay buffer has room: 32 flits (R402). -/
def State.fillBuffer (s : State) (dev port g : Nat) : Nat → State
  | 0 => s
  | fuel + 1 =>
    let k := 8 * port + g
    let l := (s.device dev).lanes port g
    let n := (s.buffered dev k).length
    match if n < 32 then l.pick (s.mayLeave dev port g [] s.flits) else none with
    | none => s
    | some v =>
      let s1 : State := { s with flits := replaceFirst v { v with sent := some (k, l.seq + n) } s.flits }
      (s1.setGroup dev port g fun x => { x with lastSrc := v.flit.src }).fillBuffer dev port g fuel

/-- A flight that has come in by a port of a device. -/
def Flight.enter (v : Flight) (dev port : Nat) : Flight :=
  let p := portPartner dev port
  let w := { v with dev := dev, die := portDie port, sent := none, cls := v.classAfter p.2
                    bridges := v.bridges + (diePath v.die (portDie p.2)).length - 1 }
  if dev = v.flit.dst then { w with die := v.flit.endDie, bridges := w.bridges + (diePath w.die v.flit.endDie).length - 1 }
  else w

/-- Data flits of a pooled route in the order of its integrity groups: those of the group in progress, then those on their
way. -/
def State.routeFlits (s : State) (k : Nat) (vs : List Flight) : List Flit :=
  (s.pooledAt k).flits.map (fun c => c.1) ++ (vs.filter fun v => v.flit.data.isSome && v.flit.vc < 8 && v.flit.pooledKey = k).map Flight.flit

/-- The frame of a flight under number `seq` of its lane group: index, LAST and tag are those of its integrity group (R396). A
pooled group has eight flits, and its tag counts the flits of its route. DEDUCED (notes/assumptions/91.md). -/
def State.frameOf (s : State) (v : Flight) (seq : Nat) : List Byte :=
  match v.flit with
  | .bound b =>
    let tag := match b.item with | some g => groupTag g.bytes (seq - b.index) | none => 0
    v.flit.frame seq b.index (b.index + 1 = b.count) b.xf tag
  | f =>
    if f.data.isNone then f.frame seq 0 false 0 0
    else
      let k := f.pooledKey
      let i := (s.routeFlits k (s.flits.takeWhile fun w => w != v)).length
      let group := ((s.routeFlits k s.flits).drop (i / 8 * 8)).take 8
      let body := padBody 4096 (group.flatMap fun g => match g.data with | some (_, _, bs) => bs | none => [])
      let xf := match f with | .pooledReply _ _ _ _ _ _ _ _ _ xf => xf % 16 | _ => 0
      f.frame seq (i % 8) (i % 8 = 7) xf (groupTag body (8 * ((s.pooledAt k).seq + i / 8)))

/-- A flit of a binding has come to its device: with its last flit a group, or EOS, is at the ingress. -/
def State.boundArrives (s : State) (b : BoundFlit) (seq : Nat) : State :=
  if b.index + 1 = b.count then
    s.setEnd b.peer b.peerQ (((s.slot b.peer).queue b.peerQ).receive (b.item.map fun g => { g with first := seq - b.index }))
  else s

/-- Whether a port that is to take the last flit of a group has its intake held (R352). -/
def State.boundHeld (s : State) (f : Flit) : Bool :=
  match f with
  | .bound b =>
    match b.item, (s.thread b.peer).bind fun t => s.region t.rid with
    | some g, some r =>
      let e := (s.slot b.peer).queue b.peerQ
      !(e.replay && g.seq = e.groups) && (slotSectors b.peer r e g.seq).any fun k => s.heldPorts.contains (s.portOf k)
    | _, _ => false
  | _ => false

/-- Whether a module trains its ports: from step 6 of the boot on (R407). -/
def ModuleState.trains (m : ModuleState) : Bool :=
  match m with | .up => true | .booting n => 6 ≤ n | _ => false

/-- FLIT_RECEIVE (R402): the oldest flit that a lane group has sent and the far end has not accepted arrives at a port. A
good frame goes on from there and leaves the sender's replay buffer. A bad CRC-32 discards it with every later flit of the
group, all of which are sent again from its number; each costs its slot another data flit (R363). A bound group's flits come
to their ingress at their last device. Group 8 stands for a control flit of a KIND without meaning,
which is counted (R397). DESIGN CHOICE (notes/assumptions/66.md). -/
def execFlitReceive (dev port group : Nat) (good : Bool) (s : State) : Res State :=
  .next <|
    let d := s.device dev
    let p := portPartner dev port
    if group = 8 then s.setDevice dev { d with portErrors := SMap.put 0 d.portErrors port (SMap.get 0 d.portErrors port + 1) }
    else if 8 < group ∨ 12 ≤ port ∨ d.module.trains = false ∨ (s.device p.1).module.trains = false ∨
        ((s.device p.1).lanes p.2 group).state ≠ .up then s
    else
      let s1 := s.fillBuffer p.1 p.2 group 32
      let k := 8 * p.2 + group
      let l := (s1.device p.1).lanes p.2 group
      let mask := (d.lanes port group).damage
      let accept (x : State) : State := x.setGroup p.1 p.2 group fun y => { y with seq := y.seq + 1, replays := 0 }
      let reject (x : State) : State := x.setGroup p.1 p.2 group fun y => { y with replays := y.replays + 1 }
      match (s1.buffered p.1 k).find? fun v => v.sent = some (k, l.seq) with
      | some v =>
        let s2 := s1.setGroup dev port group fun y => { y with damage := 0 }
        if s1.boundHeld v.flit && dev = v.flit.dst then s1
        else if good && frameGood (damaged (s1.frameOf v l.seq) mask) then
          match v.flit with
          | .bound b =>
            if dev = v.flit.dst then accept ({ s2 with flits := s2.flits.erase v }.boundArrives b l.seq)
            else accept { s2 with flits := replaceFirst v (v.enter dev port) s2.flits }
          | _ => accept { s2 with flits := replaceFirst v (v.enter dev port) s2.flits }
        else if 16 ≤ l.replays then s2
        else (s1.buffered p.1 k).foldl (fun x w => if w.flit.src = p.1 then x.chargeCtx w.flit.payer else x) (reject s2)
      | none => s1

/-! Control plane. -/

def isLoadReq (f : Flit) : Bool := match f with | .loadReq _ _ _ _ _ => true | _ => false
def isLoadReply (f : Flit) : Bool := match f with | .loadReply _ => true | _ => false
def isAtomicReq (f : Flit) : Bool := match f with | .atomicReq _ _ _ _ _ _ _ => true | _ => false
def isAtomicReply (f : Flit) : Bool := match f with | .atomicReply _ => true | _ => false
def isInvocation (f : Flit) : Bool := match f with | .invocation _ => true | _ => false
def isStoreAck (f : Flit) : Bool := match f with | .storeAck _ _ _ _ _ => true | _ => false
def isPooledReadReq (f : Flit) : Bool := match f with | .pooledReadReq _ _ _ _ _ _ _ => true | _ => false
def isPooledData (f : Flit) : Bool :=
  match f with | .pooledStore _ _ _ _ _ _ => true | .pooledReply _ _ _ _ _ _ _ _ _ _ => true | _ => false
def isSched (f : Flit) : Bool := match f with | .launch _ _ _ => true | .sched _ _ _ => true | _ => false

/-- POISONRD for a poisoned sector. -/
def State.poisonFlag (s : State) (a : Nat) : Dword := if s.sector (sectorOf a) = .poisoned then poisonRd else 0

/-- LOAD_REQUEST (R397): the load performs at its target; bytes that its thread's combining buffer forwarded stay. -/
def execLoadRequest (s : State) : Res State :=
  .next <| s.arrive isLoadReq fun x f => match f with
    | .loadReq w dst fa size fwd =>
      let bs := (fwd.zip (x.bytes fa size)).map fun c => c.1.getD c.2
      let fl := x.poisonFlag fa
      x.send (.loadReply ⟨w, dst, BitVec.ofNat 64 (leNat bs), fl != 0, fl, addrDev fa, fa⟩)
    | _ => x

/-- A value comes back to its thread. -/
def State.takeReply (s : State) (r : Reply) : State :=
  if r.who.id = blockLoadId then s.takeBlockLoad r
  else
    s.deliver { key := r.who.key, ctx := r.who.ctx, id := r.who.id, regs := [(r.dst, r.value)],
                flags := if r.poisoned then r.flags ||| poisonRd else r.flags, performed := true }

/-- LOAD_REPLY (R397). -/
def execLoadReply (s : State) : Res State :=
  .next <| s.arrive isLoadReply fun x f => match f with | .loadReply r => x.takeReply r | _ => x

/-- ATOMIC_REQUEST (R220): the atomic performs at the node that owns the sector. -/
def execAtomicRequest (s : State) : Res State :=
  .next <| s.arrive isAtomicReq fun x f => match f with
    | .atomicReq w dst fa size op a b =>
      let r := x.amo op fa size a b
      r.1.send (.atomicReply ⟨w, dst, r.2.1, x.sector (sectorOf fa) = .poisoned, r.2.2, addrDev fa, fa⟩)
    | _ => x

/-- ATOMIC_REPLY (R397). -/
def execAtomicReply (s : State) : Res State :=
  .next <| s.arrive isAtomicReply fun x f => match f with | .atomicReply r => x.takeReply r | _ => x

/-- INVOCATION (R397): the token reaches the saddle unit beside its target. -/
def execInvocation (s : State) : Res State :=
  .next <| s.arrive isInvocation fun x f => match f with
    | .invocation i => { x with invocations := x.invocations ++ [i] }
    | _ => x

/-- STORE_ACKNOWLEDGEMENT (R398): the store has performed; the write of a stream has no access of the thread, and its
elements count as written now (R234). -/
def execStoreAcknowledgement (s : State) : Res State :=
  .next <| s.arrive isStoreAck fun x f => match f with
    | .storeAck w fl _ _ _ =>
      let y := x.deliver { key := w.key, ctx := w.ctx, id := w.id, flags := fl, performed := decide (w.id < 2 ^ 32) }
      if w.id < 2 ^ 32 then y else y.streamWrote w
    | _ => x

/-! Pooled data. -/

/-- Loads the filter-table entries of a pooled read on the ports that its reply passes: out of each device and into the next
(R400). -/
def State.loadFilters (s : State) (sel v : Nat) : List (Nat × Nat) → State
  | [] => s
  | (dev, dir) :: r =>
    match (s.device dev).portFor dir sel with
    | some p => (s.filterHop dev p 4 v).loadFilters sel v r
    | none => s.loadFilters sel v r

/-- POOLED_READ_REQUEST (R397): the sectors are read whole at one instant, and the reply is a data flit for the slot. The
filter-table entries of the ports on its way are loaded from the request (R400). -/
def execPooledReadRequest (s : State) : Res State :=
  .next <| s.arrive isPooledReadReq fun x f => match f with
    | .pooledReadReq k c a v fa n xf =>
      let dev := addrDev fa
      let g := if x.sector (sectorOf fa) = .poisoned then x.poisonGroup fa else 0
      ((x.send (.pooledReply k c a v (x.bytes fa n) (x.sector (sectorOf fa) = .poisoned) dev fa g xf)).chargeCtx
        (some (k, c))).loadFilters (bitsOf fa 12 12) xf (route dev (keyDev k))
    | _ => x

/-- A sector of a pooled store that failed its tag before comes again: it is as it was then, unless its state has changed
since, and the port's entry is free (R352). -/
def State.endReplay (s : State) (w : AccId) (sec : Nat) : State :=
  let mine (e : ReplayEntry) : Bool := e.who = some w && e.sector = sec
  match s.replays.find? mine with
  | none => s
  | some e => { s with replays := s.replays.filter fun k => !mine k }.restoreSector e

/-- Writes one sector of a pooled store, as a store or as a fill. -/
def State.pooledSector (s : State) (sec : Nat) (m : SMap (Option Byte)) (fill poison : Bool) : State :=
  let y := s.writeMasked sec m
  if poison then y.setSector sec .poisoned else if fill then y.setSector sec .full else y

/-- A data flit joins the group in progress on its route, with the states of its sectors from before it. -/
def State.joinRoute (s : State) (f : Flit) (before : List SectorState) : State :=
  let r := s.pooledAt f.pooledKey
  s.setPooled f.pooledKey { r with flits := r.flits ++ [(f, before)] }

/-- Filling writes of contexts that have ended are abandoned where they wait (R229). -/
def State.dropDeadFills (s : State) : State :=
  { s with flits := s.flits.filter fun v => match v.flit with
      | .pooledStore w _ _ true _ _ => !(v.dev = v.flit.dst && s.fillWaits v.flit &&
          s.regions.all fun c => c.2.all fun r => r.ctxId != w.ctx)
      | _ => true }

/-- POOLED_DATA_FLIT (R398): the masked bytes of up to seven sectors are written, as a store or as a fill, and acknowledged;
a read reply waits for the check of its group, which hands it to its stream (R134). -/
def execPooledDataFlit (s : State) : Res State :=
  .next <| s.dropDeadFills.arrive isPooledData fun x f => match f with
    | .pooledStore w sec bs fill poison again =>
      let x0 := if again then f.sectors.foldl (fun y k => y.endReplay w k) x else x
      let fl : Dword := if !fill && f.sectors.any fun k => x0.sector k = .poisoned then poisonRd else 0
      let y := (bs.zipIdx).foldl (fun z c => z.pooledSector (sec + c.2) c.1 fill poison) x0
      let z := y.joinRoute f (f.sectors.map x0.sector)
      if again then z else z.send (.storeAck w fl (addrDev (sec * 64)) (sec * 64) bs.length)
    | .pooledReply _ _ _ _ _ _ _ _ _ _ => x.joinRoute f []
    | _ => x

/-- What a scheduler's message does where it arrives (R327, R329, R355). -/
def State.takeMessage (s : State) (m : SchedMsg) (src dst : Nat) : State :=
  match m with
  | .configured rid => s.takeAck rid src
  | .reserve v => s.onReservation v.bid.launch.n v.part fun w => { w with asked := true }
  | .reserved v => s.onReservation v.bid.launch.n v.part fun w => { w with back := true }
  | .gate rid tick => s.send (.sched (.gateAck rid tick) dst src)
  | .gateAck rid tick =>
    match s.region rid with
    | some r => if r.gateTick = some tick then s.takeAck rid src else s
    | none => s

/-- SCHEDULER_MESSAGE (R397): a launch from a bridge has reached its device with its second flit; a message reaches its
scheduler. -/
def execSchedulerMessage (s : State) : Res State :=
  .next <| s.arrive isSched fun x f => match f with
    | .launch true l _ => { x with arrivals := x.arrivals ++ [{ l with arrival := x.now }] }
    | .sched m src dst => x.takeMessage m src dst
    | _ => x

/-! Lane groups (R399, R402, R410). -/

/-- LANE_GROUP_RETRAIN (R402, R410): a lane group that needed 16 replays of one flit in a row goes back to EQUALISE at
both ends; the port's other groups go on. -/
def execLaneGroupRetrain (dev port group : Nat) (s : State) : Res State :=
  .next <|
    if ((s.device dev).lanes port group).replays < 16 then s
    else
      let p := portPartner dev port
      (s.setGroup dev port group fun k => { k with state := .equalise, replays := 0 }).setGroup p.1 p.2 group
        fun k => { k with state := .equalise, replays := 0 }

/-- PORT_DOWN (R402): none of the port's lane groups has been up for 10 ms, and Tack reports the port. -/
def execPortDown (dev port : Nat) (s : State) : Res State :=
  .next <|
    let d := s.device dev
    let since := SMap.get 0 d.portSince port
    if since = 0 ∨ s.now + 1 < since + 10000000 ∨ ((List.range 8).any fun g => (d.lanes port g).state = .up) = true then s
    else s.portFails dev port

/-- BINDING_RELOCATE (R399): a binding whose group has failed moves to a free group of the same port, or of the other
port of its direction, and its filter-table entries with it. -/
def execBindingRelocate (dev port group : Nat) (s : State) : Res State :=
  .next <|
    let d := s.device dev
    let l := d.lanes port group
    match l.binding with
    | none => s
    | some b =>
      if l.state = .up then s
      else
        let free := ([port, port / 2 * 2 + (1 - port % 2)]).findSome? fun p =>
          ((List.range 6).find? fun g =>
            (d.lanes p (g + 1)).binding = none && (d.lanes p (g + 1)).state = .up && !d.isDown p).map fun g => (p, g + 1)
        match free with
        | none => s
        | some (p, g) =>
          let v := SMap.get 0 d.filters (2 * port * 16 + (8 + group))
          ((s.setGroup dev port group fun k => { k with binding := none }).setGroup dev p g fun k =>
            { k with binding := some b }).filterHop dev p (8 + g) v

/-- LINK_TRAINING (R410): one step of a lane group through DOWN, EQUALISE, IDENT and UP. `partner` is what the far end
states in IDENT, as 12 * DEV + port; a partner other than R393's leaves the group DOWN, and Tack reports the port.
DESIGN CHOICE (notes/assumptions/66.md). -/
def execLinkTraining (dev port group partner : Nat) (s : State) : Res State :=
  .next <|
    let d := s.device dev
    let p := portPartner dev port
    if 12 ≤ port ∨ 8 ≤ group ∨ d.module.trains = false ∨ (s.device p.1).module.trains = false then s
    else
      match (d.lanes port group).state with
      | .down => s.setGroup dev port group fun k => { k with state := .equalise }
      | .equalise => s.setGroup dev port group fun k => { k with state := .ident }
      | .ident =>
        if partner = 12 * p.1 + p.2 then
          ((s.setCable dev port partner).setGroup dev port group fun k => { k with state := .up, replays := 0 }).portUp dev port
        else
          ((s.setCable dev port partner).setGroup dev port group fun k => { k with state := .down }).setPort dev port
            (d.isDown port) (some (.wrongPartner partner))
      | .up => s

/-- LINK_FAILURE (R372): a port has lost its partner; every lane group of it goes DOWN. -/
def execLinkFailure (dev port : Nat) (s : State) : Res State :=
  .next <| (List.range 8).foldl (fun x g => x.setGroup dev port g fun k => { k with state := .down, replays := 0 }) s

/-! Translation as events. -/

/-- TABLE_WALK (R336): the walker of a thread's quad resolves an address of the thread. -/
def execTableWalk (key : Nat) (va : Dword) (kind : WalkKind) (s : State) : Res State :=
  .next <|
    match s.thread key with
    | none => s
    | some t =>
      match s.region t.rid with
      | none => s
      | some r =>
        if va.toNat / 2 ^ 56 ≠ 0 then s
        else
          match translate s r.launch.part (keyTile key) t.super va.toNat kind with
          | .ok _ s1 => s1
          | .fault _ _ s1 => s1
          | .busy s1 => s1

/-- INVALIDATION (R344, R345): what a write to a marked sector drops before it performs. It completes, with the mark, once the
accesses translated through what it drops have performed. -/
def execInvalidation (sector : Nat) (s : State) : Res State :=
  .next (if s.inUse sector fun _ => false then s else s.invalidate sector)

end Sys2Proof.Machine
end

