-- ==== Sys2Proof/Machine/HostIf.lean ====
section
/-!
DEFINITION. The host bridge (R21, R139, R403 to R405): host stores and reads through the BARs, and launch invocations. A
bridge is named by the device that it is on.
-/

namespace Sys2Proof.Machine

/-- The fabric address of a BAR offset: device r of the X-ring, stack and byte (R403); nothing outside the 4 TiB. -/
def barAddr (bridge off : Nat) : Option Nat :=
  if off < 2 ^ 42 then some ((bridge / 8 * 8 + bitsOf off 41 39) * 2 ^ 48 + off % 2 ^ 39) else none

/-- Whether a partition is in the set of a bridge function. -/
def State.bridgeHas (s : State) (bridge part : Nat) : Bool :=
  part < 16 && (s.partition part).bridges.contains bridge && (s.partition part).admitted.contains bridge

/-- Whether a device lies on the bridge's X-ring. -/
def sameRing (bridge dev : Nat) : Bool := dev / 8 = bridge / 8

/-- How a bridge takes an access of `n` bytes at a fabric address. DESIGN CHOICE (notes/assumptions/67.md). -/
inductive HostAccess where
  | allowed
  /-- outside the set of the bridge function -/
  | outside
  /-- the endpoint is off or answers configuration space alone (R408), its device is no bridge, or the target's ports are off:
  no completion comes -/
  | off
  deriving DecidableEq, Repr

def State.hostAccess (s : State) (bridge a n : Nat) : HostAccess :=
  if (s.device bridge).bridge = false then .off
  else match (s.device bridge).module with
  | .holdUp _ | .dead | .recovery => .off
  | _ =>
    if isHbm a && sameRing bridge (addrDev a) && 0 < n && isHbm (a + n - 1) && addrDev (a + n - 1) = addrDev a &&
        (List.range 16).any fun p => s.bridgeHas bridge p && (s.partition p).ownsHbm a n then
      if (s.device (addrDev a)).module ≠ .up ∧ addrDev a ≠ bridge then .off else .allowed
    else .outside

/-- Stores bytes a sector at a time. -/
def State.storeSpan (s : State) (a : Nat) (bs : List Byte) : Nat → State
  | 0 => s
  | fuel + 1 =>
    match bs with
    | [] => s
    | _ => let k := 64 - a % 64
      (s.storeBytes a (bs.take k)).storeSpan (a + k) (bs.drop k) fuel

/-- A record of a fence violation. -/
def State.hostRefused (s : State) (bridge : Nat) : State := s.fenceViolation bridge

def State.answerHost (s : State) (a : HostAnswer) : State := { s with hostReads := s.hostReads ++ [a] }

/-- Whether a store of `n` bytes has to wait for accesses that use translations which it makes void (R345). -/
def State.spanInUse (s : State) (a n : Nat) : Bool :=
  (List.range (sectorOf (a + n - 1) + 1 - sectorOf a)).any fun i => s.inUse (sectorOf a + i) fun _ => false

/-- HOST_STORE (R403, R404): a posted write of up to 512 bytes at an offset of BAR0, performed at fabric scope; outside the
set it is discarded. -/
def execHostStore (bridge : Nat) (off : Dword) (data : List Byte) (s : State) : Res State :=
  .next <|
    match barAddr bridge off.toNat with
    | none => s
    | some fa =>
      if 512 < data.length ∨ s.spanInUse fa data.length = true then s
      else
        match s.hostAccess bridge fa data.length with
        | .allowed => s.storeSpan fa data (data.length + 1)
        | .outside => s.hostRefused bridge
        | .off => s

/-- Offsets that stand for the launch windows of BAR2: 128 KiB above the 4 TiB of BAR0. -/
def launchWindow (off n : Nat) : Bool := 2 ^ 42 ≤ off && off + n ≤ 2 ^ 42 + 2 ^ 17

/-- HOST_READ (R403 to R405): a read of up to 4 KiB at an offset of BAR0; a launch window reads zero. -/
def execHostRead (bridge : Nat) (off : Dword) (n : Nat) (s : State) : Res State :=
  .next <|
    match barAddr bridge off.toNat with
    | none =>
      if launchWindow off.toNat n = false ∨ 4096 < n then s
      else
        match s.hostAccess bridge (bridge * 2 ^ 48) 0 with
        | .off => s.answerHost .none
        | _ => s.answerHost (.data (List.replicate n 0))
    | some fa =>
      match s.hostAccess bridge fa n with
      | .allowed => if n ≤ 4096 then s.answerHost (.data (s.bytes fa n)) else s.answerHost .unsupported
      | .outside => (s.hostRefused bridge).answerHost .unsupported
      | .off => s.answerHost .none

/-- HOST_SYNC_READ (R403, R404): one aligned sector at an offset of BAR4, when it is full. Outside the set any read is a
fence violation. -/
def execHostSyncRead (bridge : Nat) (off : Dword) (n : Nat) (s : State) : Res State :=
  .next <|
    match barAddr bridge off.toNat with
    | none => s
    | some fa =>
      match s.hostAccess bridge fa n with
      | .off => s.answerHost .none
      | .outside => (s.hostRefused bridge).answerHost .unsupported
      | .allowed =>
        if n ≠ 64 ∨ fa % 64 ≠ 0 then s.answerHost .unsupported
        else if s.sector (sectorOf fa) = .full then s.answerHost (.data (s.bytes fa 64))
        else s.answerHost (.data (List.replicate 64 0xFF))

/-- Records on their way into a queue, and in it. -/
def State.queueLoad (s : State) (dev part prio : Nat) : Nat :=
  ((s.device dev).queue part prio).length +
    (s.arrivals.filter fun r => r.dev = dev && r.part = part && r.prio = prio).length +
      (s.flits.filter fun v => match v.flit with
        | .launch true r _ => r.dev = dev && r.part = part && r.prio = prio
        | _ => false).length

/-- LAUNCH_INVOCATION (R405): a 64-byte write at offset 64r of a launch window sends the record to device r of the ring in
two control flits, whether or not the partition has that device.
It is held by credits while the queue is full or before step 7 for its partition on the bridge or on a device of the
partition (R320, R412); any other write is discarded and counted. -/
def execLaunchInvocation (bridge page off : Nat) (data : List Byte) (s : State) : Res State :=
  .next <|
    let part := page / 2
    let dev := bridge / 8 * 8 + off / 64
    let l := launchOf data dev part (page % 2 = 1) (page % 2 = 1) (some bridge) none s.now s.nextLaunch
    match s.hostAccess bridge (bridge * 2 ^ 48) 0 with
    | .off => s
    | _ =>
      if data.length ≠ 64 ∨ off % 64 ≠ 0 ∨ 512 ≤ off ∨ 32 ≤ page ∨ (s.partition part).bridges.contains bridge = false then
        let d := s.device bridge
        s.setDevice bridge { d with launchDiscards := d.launchDiscards + 1 }
      else if (s.partition part).admitted.contains bridge = false ∨
          ((s.partition part).devices.contains dev = true ∧ (s.partition part).admitted.contains dev = false) ∨
          64 ≤ s.queueLoad dev part l.prio then s
      else { (s.send (.launch false l bridge)).send (.launch true l bridge) with nextLaunch := s.nextLaunch + 1 }

end Sys2Proof.Machine
end

