-- ==== Sys2Proof/Machine/Cinch.lean ====
section
/-!
DEFINITION. Loss of supply and the cinch (R371 to R380): what a power-fail trap ends, the blocks that are saved and
their commit, and the classification of the save store at restart.
-/

namespace Sys2Proof.Machine

/-! Places in the save store (R376). -/

def storeOpen : Nat := 0
def storeClose : Nat := 0x1000
def storeIntent : Nat := 0x10_0000
def storeTable (tbl : Nat) : Nat := 0x30_0000 + tbl * 0x40_0000
def storeHeader (k : Nat) : Nat := 0xB0_0000 + 64 * k
def storeData (k : Nat) : Nat := 0x100_0000 + 4096 * k

/-- Bytes of a device's store, and a write to it. -/
def State.store (s : State) (dev off n : Nat) : List Byte := s.bytes (storeAddr dev off) n
def State.writeStore (s : State) (dev off : Nat) (bs : List Byte) : State := s.writeBytes (storeAddr dev off) bs

/-! What is saved (R374, R375). -/

/-- A declaration that a device is charged for: partition, level, context, admission, pieces. -/
structure Declaration where
  part : Nat
  super : Bool
  ctx : Dword
  admission : Nat
  pieces : List Piece

/-- One piece of the intent list. -/
structure IntentEntry where
  ctx : Dword
  va : Nat
  len : Nat
  prio : Nat
  part : Nat
  first : Nat
  super : Bool

/-- Declarations of every context charged on a device (R326, R383). -/
def State.declarations (s : State) (dev : Nat) : List Declaration :=
  (s.regions.filterMap fun c => match c.2 with
    | some r => if r.origins.any fun o => o.dev = dev then
        some ⟨r.launch.part, r.launch.super, r.ctxId, r.admission, r.saveset⟩ else none
    | none => none) ++
  s.doneRetry.filterMap fun d =>
    if (s.region d.rid).isNone && d.devs.contains dev then
      some ⟨d.launch.part, d.launch.super, d.ctx, d.admission, d.saveset⟩ else none

/-- Inserts by a key, after equal ones. -/
def insertBy {α : Type} (key : α → List Nat) (a : α) : List α → List α
  | [] => [a]
  | b :: r => if lexLess (key a) (key b) then a :: b :: r else b :: insertBy key a r

/-- Pieces in commit order: PRIO, admission, order in the table; their slots follow one another. -/
def commitOrder (ds : List Declaration) : List IntentEntry :=
  let all := ds.flatMap fun d => (d.pieces.zipIdx).map fun p =>
    ([p.1.prio, d.admission, p.2], (⟨d.ctx, p.1.va.toNat, p.1.len, p.1.prio, d.part, 0, d.super⟩ : IntentEntry))
  let sorted := all.foldl (fun l c => insertBy (fun x : List Nat × IntentEntry => x.1) c l) []
  (sorted.foldl (fun (a : List IntentEntry × Nat) c =>
    (a.1 ++ [{ c.2 with first := a.2 }], a.2 + c.2.len / 4096)) ([], 0)).1

/-- A partition's report range on a device: its lowest 2 MiB there (R381). -/
def Partition.reportRange (p : Partition) (dev : Nat) : Option Nat :=
  ((p.hbm.filter fun c => c.1 * 2 ^ 21 / 2 ^ 48 = dev).map fun c => c.1).min?

/-- The block of a virtual page of 4 KiB, by its fabric address; nothing where it is absent.
DEDUCED (notes/assumptions/70.md). -/
def State.cinchBlock (s : State) (dev : Nat) (e : IntentEntry) (va : Nat) : Option Nat :=
  let p := s.partition e.part
  let root := bitsOf p.ptRoot.toNat 55 14 * 2 ^ 14
  if root = 0 then none
  else
    match walkFrom e.part (dev * 896) va .read e.super true walkLevels root s with
    | .ok fa _ => if fa / 2 ^ 48 = dev ∧ some (fa / 2 ^ 21) ≠ p.reportRange dev then some fa else none
    | _ => none

/-- The blocks of the intent list in order. -/
def State.cinchBlocks (s : State) (dev : Nat) (es : List IntentEntry) : List (Option Nat) :=
  es.flatMap fun e => (List.range (e.len / 4096)).map fun j => s.cinchBlock dev e (e.va + 4096 * j)

/-! Records (R377). -/

def IntentEntry.encode (e : IntentEntry) : List Byte :=
  leBytes e.ctx.toNat 8 ++ leBytes e.va 8 ++ leBytes e.len 4 ++ leBytes e.prio 1 ++ leBytes e.part 1 ++ leBytes 0 2 ++
    leBytes e.first 4 ++ leBytes 0 4

/-- An open record (kind 1) or close record (kind 2). -/
def Cinch.record (c : Cinch) (kind crcT : Nat) : List Byte :=
  let body := leBytes 0x47434E31 4 ++ leBytes kind 4 ++ leBytes c.epoch 8 ++ leBytes c.tPf 8 ++ leBytes c.npiece 4 ++
    leBytes c.blocks.length 4 ++ leBytes c.tbl 1 ++ leBytes 0 7 ++ leBytes c.crcI 8 ++
    (if kind = 2 then leBytes crcT 8 ++ leBytes c.nwrite 4 ++ leBytes c.nkeep 4 else leBytes 0 16)
  let full := body ++ List.replicate (0xFF8 - body.length) 0
  full ++ leBytes (crc64 full) 8

/-- Whether a record of a kind is whole. -/
def recordWhole (bs : List Byte) (kind : Nat) : Bool :=
  field bs 0 4 = 0x47434E31 && field bs 4 4 = kind && field bs 0xFF8 8 = crc64 (bs.take 0xFF8)

/-- The open and close records of a device, where they are whole. -/
def State.openRecord (s : State) (dev : Nat) : Option (List Byte) :=
  let o := s.store dev storeOpen 4096
  if recordWhole o 1 then some o else none

def State.closeRecord (s : State) (dev : Nat) : Option (List Byte) :=
  match s.openRecord dev with
  | none => none
  | some o =>
    let c := s.store dev storeClose 4096
    if recordWhole c 2 && field c 8 8 = field o 8 8 then some c else none

/-- The 16 bytes of sector states of a 4 KiB block. -/
def State.blockStates (s : State) (fa : Nat) : List Byte :=
  (List.range 16).map fun i =>
    let c (j : Nat) : Nat := (s.sector (sectorOf fa + 4 * i + j)).code
    BitVec.ofNat 8 (c 0 + 4 * c 1 + 16 * c 2 + 64 * c 3)

/-- HASH of a block: 16 bytes. -/
def State.blockHash (s : State) (fa : Nat) : List Byte := (sha256 (s.bytes fa 4096 ++ s.blockStates fa)).take 16

/-! The power-fail trap (R371, R372). -/

/-- Whether a flight is on a device or on a cable of one of its ports. -/
def Flight.meets (v : Flight) (dev : Nat) : Bool :=
  v.dev = dev || v.sent.any fun n => (portPartner v.dev (n.1 / 8)).1 = dev

/-- Ends, with no completion record, every graph that has a part on a device, and what its scheduler holds but for launch
records, which stay queued (R43, R56, R332). The device's own memories keep what they hold (R372). A graph that ends so leaves its group, which can then end; the spec does not
say whether it counts. One that had ended before still has its record written by a scheduler elsewhere.
DESIGN CHOICE (notes/assumptions/105.md). -/
def State.dropWork (s : State) (dev : Nat) : State :=
  let rids := s.regions.filterMap fun c => match c.2 with
    | some r => if r.origins.any fun o => o.dev = dev then some c.1 else none
    | none => none
  let s1 := rids.foldl (fun x rid => match x.region rid with
    | some r =>
      let y := x.releaseRegion rid r fun d => d = dev
      if r.state = .ending && x.doneRetry.any fun d => d.rid = rid then y else y.leaveGroup r.launch
    | none => x) s
  let here (l : LaunchRec) : Bool := l.dev = dev
  let s1 := (s1.doneRetry.filter fun d => here d.launch && d.rid != 0).foldl (fun x d => x.leaveGroup d.launch) s1
  let gone := (s1.reservations.filter fun v => v.dev = dev || here v.bid.launch).map fun v => v.bid.launch.n
  let s2 := gone.foldl State.release s1
  { s2 with
    attestations := s2.attestations.filter fun l => !here l
    doneRetry := s2.doneRetry.filter fun d => !here d.launch
    invocations := s2.invocations.filter fun i => keyDev i.who.key != dev && addrDev i.target != dev
    results := s2.results.filter fun i => keyDev i.who.key != dev
    replies := s2.replies.filter fun i => keyDev i.who.key != dev
    updates := s2.updates.filter fun u => keyDev u.key != dev }

/-- Flits in flight on a device's ports are lost, its ports go off, and its peers see the links fail (R372). The pooled groups
in progress on its routes end unchecked. -/
def State.dropPorts (s : State) (dev : Nat) : State :=
  let s1 : State := { s with
    flits := s.flits.filter fun v => !v.meets dev
    pooled := s.pooled.filter fun c => c.1 / 2 / 256 != dev && c.1 / 2 % 256 != dev }
  let s2 := (List.range 12).foldl (fun x port =>
    let p := portPartner dev port
    (List.range 8).foldl (fun y g => y.setGroup p.1 p.2 g fun k => { k with state := .down, replays := 0 }) x) s1
  s2.setDevice dev { s2.device dev with groups := [], portDown := [], portSince := [], filters := [], routerFilters := [] }

/-- Every spine of a device goes to step code 0, with its trace entries (R372, R388). -/
def Device.halted (d : Device) (dev now : Nat) : Device :=
  { (({ d with spines := [] } : Device).traceChanges d dev now fun _ => 0) with
    tileSpine := [], spineNext := [], capLoss := [] }

/-- Issued stores of a thread to descriptors, whose invalidation is pending, perform before its module's cinch walks (R383). -/
def State.settlePool (s : State) (key : Nat) (t : Thread) : State :=
  match s.region t.rid with
  | none => s
  | some r =>
    t.pool.foldl (fun x a =>
      match reach x r t.super t.part t.rx t.ry a.va a.span a.span a.kind.walk with
      | .at p y =>
        let eff := max a.sc.toNat p.home
        let held := a.kind.writes && y.mark (sectorOf p.addr) != .clear && addrDev p.addr = keyDev key
        (match if held && !t.blocked a a.after then perform y key t a p eff r.launch.part else .waits with
        | .done z _ => z
        | _ => y)
      | _ => x) s

/-- The same for a flit that waits at its sector on a device. -/
def State.settleFlit (s : State) (dev : Nat) (v : Flight) : State :=
  if v.dev = dev && v.flit.dst = dev && !s.fillWaits v.flit && v.flit.written.any fun k => s.mark k != .clear then
    match v.flit with
    | .pooledStore _ sec bs fill poison _ => (bs.zipIdx).foldl (fun z c => z.pooledSector (sec + c.2) c.1 fill poison) s
    | .atomicReq _ _ fa n op a b => (s.amo op fa n a b).1
    | _ => s
  else s

/-- Descriptor stores that were issued before gating perform. -/
def State.settleStores (s : State) (dev : Nat) : State :=
  let s1 := s.threads.foldl (fun x c => match c.2 with
    | some t => if keyDev c.1 = dev then x.settlePool c.1 t else x
    | none => x) s
  s1.flits.foldl (fun x v => x.settleFlit dev v) s1

/-- POWER_FAIL (R371, R372, R374, R378): every region of the module is gated, which ends its graphs; the blocks to be
saved are fixed, and the open record is written. Lazy pages that a walker is resolving go back (R346). The cinch after the
first writes every slot (R379). Before step 7 of the boot nothing is saved (R412). DEDUCED (notes/assumptions/68.md). -/
def execPowerFail (dev : Nat) (s : State) : Res State :=
  .next <|
    let d := s.device dev
    match d.module with
    | .holdUp _ | .dead => s
    | .booting _ | .recovery =>
      let s1 := s.dropPorts dev
      s1.setDevice dev { s1.device dev with module := .holdUp true }
    | .up =>
      let s := (s.setDevice dev (d.halted dev s.now)).lazyBack dev |>.settleStores dev
      let es := commitOrder (s.declarations dev)
      let bs := s.cinchBlocks dev es
      let s1 := (s.dropWork dev).dropPorts dev
      let close := s1.closeRecord dev
      let prev := (s1.openRecord dev).getD []
      let bytes := es.flatMap IntentEntry.encode
      let c : Cinch :=
        { epoch := field prev 8 8 + 1, tPf := s.now, tbl := 1 - field prev 0x20 1 % 2
          keep := close.isSome && 1 < field prev 8 8
          npiece := es.length, crcI := crc64 bytes, blocks := bs, entries := [], nwrite := 0, nkeep := 0 }
      let s2 := (s1.writeStore dev storeIntent bytes).writeStore dev storeOpen (c.record 1 0)
      s2.setDevice dev { s2.device dev with module := .holdUp false, cinch := some c }

/-! The commit (R378, R379). -/

/-- Whether slot k keeps its stored copy. -/
def State.keepOk (s : State) (dev : Nat) (c : Cinch) (k : Nat) (hash : List Byte) : Bool :=
  let e := s.store dev (storeTable (1 - c.tbl) + 64 * k) 64
  c.keep && (field e 0x20 1 = 1 || field e 0x20 1 = 2) && (e.drop 8).take 16 = hash

/-- A slot-table entry. -/
def slotEntry (seq : Nat) (hash : List Byte) (fa fl : Nat) : List Byte :=
  leBytes seq 8 ++ hash ++ leBytes fa 8 ++ leBytes fl 1 ++ List.replicate 31 0

/-- One slot of the commit; once the reserve is at the floor the remaining slots are absent (R383). -/
def State.commitSlot (s : State) (dev : Nat) (c : Cinch) (k : Nat) (b : Option Nat) : State :=
  let put (x : State) (c1 : Cinch) : State := x.setDevice dev { x.device dev with cinch := some c1 }
  let absent := List.replicate 64 0
  match b with
  | none => put s { c with entries := c.entries ++ [absent] }
  | some fa =>
    if c.low = true ∨ Config.reserveAbove dev c.epoch k = false then
      put s { c with entries := c.entries ++ [absent], low := true }
    else
      let hash := s.blockHash fa
      if s.keepOk dev c k hash then
        let old := s.store dev (storeTable (1 - c.tbl) + 64 * k) 64
        put s { c with entries := c.entries ++ [slotEntry (field old 0 8) hash fa 2], nkeep := c.nkeep + 1 }
      else
        let d := s.device dev
        let data := s.bytes fa 4096
        let head := leBytes c.epoch 8 ++ leBytes d.storeSeq 8 ++ s.blockStates fa ++ List.replicate 24 0
        let s1 := (s.writeStore dev (storeHeader k) (head ++ leBytes (crc64 (data ++ head)) 8)).writeStore dev
          (storeData k) data
        put (s1.setDevice dev { d with storeSeq := d.storeSeq + 1 })
          { c with entries := c.entries ++ [slotEntry d.storeSeq hash fa 1], nwrite := c.nwrite + 1 }

/-- The cinch goes on by one slot; after the last it writes its table and its close record. -/
def State.cinchStep (s : State) (dev : Nat) : State :=
  match (s.device dev).cinch with
  | none => s
  | some c =>
    let k := c.entries.length
    match c.blocks[k]? with
    | some b => s.commitSlot dev c k b
    | none =>
      let table := c.entries.flatten
      let s1 := (s.writeStore dev (storeTable c.tbl) table).writeStore dev storeClose (c.record 2 (crc64 table))
      s1.setDevice dev { s1.device dev with module := .holdUp true, cinch := none }

/-- RESERVE_EXHAUSTED (R373): a module in hold-up mode loses power. A cinch that has not closed stays as the store
holds it. -/
def execReserveExhausted (dev : Nat) (s : State) : Res State :=
  .next <|
    let d := s.device dev
    match d.module with
    | .holdUp _ => s.setDevice dev { d with module := .dead, cinch := none }
    | _ => s

/-! Classification at restart (R380). -/

inductive BlockClass where
  | absent | whole | torn
  deriving DecidableEq, Repr

/-- Class of slot k of the latest whole open record `o`. -/
def State.classify (s : State) (dev : Nat) (o : List Byte) (k : Nat) : BlockClass :=
  let tbl := field o 0x20 1
  let h := s.store dev (storeHeader k) 64
  let e := s.store dev (storeTable tbl + 64 * k) 64
  let closed : Bool := match s.closeRecord dev with
    | some c => decide (field c 0x30 8 = crc64 (s.store dev (storeTable tbl) (64 * field o 0x1C 4)))
    | none => false
  if closed = true then
    if field e 0x20 1 = 0 then .absent
    else if field h 0x38 8 = crc64 (s.store dev (storeData k) 4096 ++ h.take 0x38) ∧ field h 8 8 = field e 0 8 then .whole
    else .torn
  else if field h 0 8 = field o 8 8 then .torn
  else .absent

end Sys2Proof.Machine
end

