-- ==== Sys2Proof/Machine/Crypto.lean ====
section
/-!
DEFINITION. The verification of firmware images (R408): SHA-384 and SHA-512 (FIPS 180-4), RSASSA-PSS with RSA-3072
(RFC 8017) and SLH-DSA-SHA2-192s (FIPS 205). The manual names these standards and does not repeat them.
PRESUMED (notes/assumptions/117.md).
-/

namespace Sys2Proof.Machine

/-! SHA-384 and SHA-512. -/

/-- The first primes: those below 410 are 80. -/
def sha512Primes : List Nat := (List.range 410).filter fun p => 2 ≤ p && (List.range 21).all fun d => d < 2 || p ≤ d || p % d != 0

/-- The first 64 bits behind the point of the k-th root of a prime. -/
def rootFraction64 (k p : Nat) : Dword := BitVec.ofNat 64 (rootBits k (p * 2 ^ (64 * k)) 69 0)

/-- The round constants: from the cube roots of the first 80 primes. -/
def sha512K : List Dword := sha512Primes.map (rootFraction64 3)

/-- The initial hash values: from the square roots of the first eight primes, and of the eight after them. -/
def sha512Init : List Dword := (sha512Primes.take 8).map (rootFraction64 2)
def sha384Init : List Dword := ((sha512Primes.drop 8).take 8).map (rootFraction64 2)

/-- The next word of the message schedule, from the sixteen before it, latest first. -/
def sha512Next (l : List Dword) : Dword :=
  let a := l.getD 14 0
  let b := l.getD 1 0
  (b.rotateRight 19 ^^^ b.rotateRight 61 ^^^ b >>> 6) + l.getD 6 0 +
    (a.rotateRight 1 ^^^ a.rotateRight 8 ^^^ a >>> 7) + l.getD 15 0

/-- The message schedule of a block, latest word first. -/
def sha512Schedule : Nat → List Dword → List Dword
  | 0, l => l
  | n + 1, l => sha512Schedule n (sha512Next l :: l)

/-- One round. -/
def sha512Round (h : List Dword) (kw : Dword × Dword) : List Dword :=
  match h with
  | [a, b, c, d, e, f, g, hh] =>
    let s1 := e.rotateRight 14 ^^^ e.rotateRight 18 ^^^ e.rotateRight 41
    let t1 := hh + s1 + ((e &&& f) ^^^ (~~~e &&& g)) + kw.1 + kw.2
    let s0 := a.rotateRight 28 ^^^ a.rotateRight 34 ^^^ a.rotateRight 39
    let t2 := s0 + ((a &&& b) ^^^ (a &&& c) ^^^ (b &&& c))
    [t1 + t2, a, b, c, d + t1, e, f, g]
  | l => l

/-- Numbers as big-endian bytes, and back. -/
def beBytes (v n : Nat) : List Byte := (leBytes v n).reverse
def beNat (bs : List Byte) : Nat := leNat bs.reverse

/-- One 128-byte block. -/
def sha512Block (h : List Dword) (bs : List Byte) : List Dword :=
  let w := (List.range 16).map fun i => BitVec.ofNat 64 (beNat ((bs.drop (8 * i)).take 8))
  let v := (sha512K.zip (sha512Schedule 64 w.reverse).reverse).foldl sha512Round h
  (h.zip v).map fun c => c.1 + c.2

/-- The blocks of a padded message. -/
def sha512Blocks : Nat → List Dword → List Byte → List Dword
  | 0, h, _ => h
  | n + 1, h, bs => sha512Blocks n (sha512Block h (bs.take 128)) (bs.drop 128)

/-- The hash of a list of bytes from an initial value. -/
def sha512From (h : List Dword) (bs : List Byte) : List Byte :=
  let n := bs.length
  let z := (239 - n % 128) % 128
  let m := bs ++ [0x80] ++ List.replicate z 0 ++ beBytes (8 * n) 16
  (sha512Blocks (m.length / 128) h m).flatMap fun w => beBytes w.toNat 8

def sha512 (bs : List Byte) : List Byte := sha512From sha512Init bs
def sha384 (bs : List Byte) : List Byte := (sha512From sha384Init bs).take 48

/-- The mask generation function of RFC 8017 over a hash of `w` bytes: `n` bytes from a seed. -/
def mgf1 (hash : List Byte → List Byte) (w : Nat) (seed : List Byte) (n : Nat) : List Byte :=
  ((List.range ((n + w - 1) / w)).flatMap fun c => hash (seed ++ beBytes c 4)).take n

/-! RSASSA-PSS with RSA-3072, SHA-384, MGF1 with SHA-384 and a 48-byte salt. -/

/-- b to the power of the low `k` bits of e, modulo n. -/
def powMod (n b e : Nat) : Nat → Nat
  | 0 => 1 % n
  | k + 1 =>
    let r := powMod n b (e / 2) k
    if e % 2 = 1 then r * r * b % n else r * r % n

/-- The public key that follows the signatures: the modulus and the exponent, big-endian. -/
def rsaKeyBytes : Nat := 388

/-- Whether a signature over a message verifies under a key. -/
def rsaPssVerifies (key m sig : List Byte) : Bool :=
  let n := beNat (key.take 384)
  let s := beNat sig
  let em := beBytes (powMod n s (beNat (key.drop 384)) 32) 384
  let h := (em.drop 335).take 48
  let db := (em.take 335).zipWith (fun a b => a ^^^ b) (mgf1 sha384 48 h 335)
  let db0 := db.zipIdx.map fun c => if c.2 = 0 then c.1 &&& 0x7F else c.1
  n / 2 ^ 3071 = 1 && s < n && em.getD 383 0 = 0xBC && (em.getD 0 0).getLsbD 7 = false &&
    db0.take 287 = List.replicate 286 0 ++ [1] && sha384 (List.replicate 8 0 ++ sha384 m ++ db0.drop 287) = h

/-! SLH-DSA-SHA2-192s: n = 24, h = 63, d = 7, a = 14, k = 17. -/

/-- An address of a hash call: layer, tree, type, and three words. -/
structure SlhAdrs where
  layer : Nat := 0
  tree : Nat := 0
  kind : Nat := 0
  pair : Nat := 0
  height : Nat := 0
  index : Nat := 0

/-- Its compressed form. -/
def SlhAdrs.bytes (x : SlhAdrs) : List Byte :=
  beBytes x.layer 1 ++ beBytes x.tree 8 ++ beBytes x.kind 1 ++ beBytes x.pair 4 ++ beBytes x.height 4 ++ beBytes x.index 4

/-- The hash of one value, and of more than one. -/
def slhF (seed : List Byte) (x : SlhAdrs) (m : List Byte) : List Byte :=
  (sha256 (seed ++ List.replicate 40 0 ++ x.bytes ++ m)).take 24
def slhH (seed : List Byte) (x : SlhAdrs) (m : List Byte) : List Byte :=
  (sha512 (seed ++ List.replicate 104 0 ++ x.bytes ++ m)).take 24

/-- `k` digits of `b` bits each, from the top of some bytes. -/
def slhDigits (bs : List Byte) (b k : Nat) : List Nat :=
  (List.range k).map fun i => beNat bs / 2 ^ (8 * bs.length - b * (i + 1)) % 2 ^ b

/-- The value 24 bytes wide at a place of a list of them. -/
def slhAt (bs : List Byte) (i : Nat) : List Byte := (bs.drop (24 * i)).take 24

/-- The root above a leaf: `index` numbers the node on its level, and the path holds a node for each level. -/
def slhClimb (seed : List Byte) (x : SlhAdrs) (path : List Byte) : Nat → Nat → Nat → List Byte → List Byte
  | 0, _, _, node => node
  | n + 1, height, index, node =>
    let x1 := { x with height := height + 1, index := index / 2 }
    let other := slhAt path height
    slhClimb seed x path n (height + 1) (index / 2) (slhH seed x1 (if index % 2 = 0 then node ++ other else other ++ node))

/-- `n` steps of a chain from step `i`. -/
def slhChain (seed : List Byte) (x : SlhAdrs) : Nat → Nat → List Byte → List Byte
  | 0, _, v => v
  | n + 1, i, v => slhChain seed x n (i + 1) (slhF seed { x with index := i } v)

/-- The public key of a one-time signature of a message of 24 bytes. -/
def slhWots (seed : List Byte) (x : SlhAdrs) (pair : Nat) (sig m : List Byte) : List Byte :=
  let d := slhDigits m 4 48
  let sum := (d.map fun v => 15 - v).foldl (· + ·) 0
  let ends := ((d ++ slhDigits (beBytes (sum * 16) 2) 4 3).zipIdx).flatMap fun c =>
    slhChain seed { x with kind := 0, pair := pair, height := c.2 } (15 - c.1) c.1 (slhAt sig c.2)
  slhH seed { x with kind := 1, pair := pair, height := 0, index := 0 } ends

/-- The root of a tree of the hypertree from a signature under its leaf `pair`. -/
def slhXmss (seed : List Byte) (x : SlhAdrs) (pair : Nat) (sig m : List Byte) : List Byte :=
  slhClimb seed { x with kind := 2, pair := 0 } (sig.drop (51 * 24)) 9 0 pair (slhWots seed x pair sig m)

/-- The root of the hypertree, from layer `j` up. -/
def slhHyper (seed : List Byte) : Nat → Nat → Nat → Nat → List Byte → List Byte → List Byte
  | 0, _, _, _, _, node => node
  | n + 1, j, tree, leaf, sig, node =>
    slhHyper seed n (j + 1) (tree / 2 ^ 9) (tree % 2 ^ 9) (sig.drop (60 * 24))
      (slhXmss seed { layer := j, tree := tree } leaf (sig.take (60 * 24)) node)

/-- The public key of the few-time signature of a digest of 30 bytes. -/
def slhFors (seed : List Byte) (tree leaf : Nat) (sig md : List Byte) : List Byte :=
  let x : SlhAdrs := { tree := tree, kind := 3, pair := leaf }
  let roots := ((slhDigits md 14 17).zipIdx).flatMap fun c =>
    let part := sig.drop (15 * 24 * c.2)
    let i := c.2 * 2 ^ 14 + c.1
    slhClimb seed x (part.drop 24) 14 0 i (slhF seed { x with index := i } (part.take 24))
  slhH seed { x with kind := 4 } roots

/-- Whether a signature over a message verifies under a key, in the pure form with an empty context string. -/
def slhVerifies (key m sig : List Byte) : Bool :=
  let seed := key.take 24
  let root := key.drop 24
  let r := sig.take 24
  let digest := mgf1 sha512 64 (r ++ seed ++ sha512 (r ++ seed ++ root ++ [0, 0] ++ m)) 39
  let tree := beNat ((digest.drop 30).take 7) % 2 ^ 54
  let leaf := beNat ((digest.drop 37).take 2) % 2 ^ 9
  let fors := (sig.drop 24).take (17 * 15 * 24)
  sig.length = 16224 && key.length = 48 &&
    slhHyper seed 7 0 tree leaf (sig.drop (24 + 17 * 15 * 24)) (slhFors seed tree leaf fors (digest.take 30)) = root

end Sys2Proof.Machine
end

