-- ==== Sys2Proof/Machine/Reset.lean ====
section
/-!
DEFINITION. Resets, the boot sequence, the restore report, and attestation (R373, R381, R382, R406 to R412); and what the
passing of fabric time does of itself: it advances boots and cinches.
-/

namespace Sys2Proof.Machine

/-! Firmware images (R408). -/

/-- `n` bytes of an opaque constant. -/
def finBytes (n : Nat) (f : Fin n → Byte) : List Byte := List.ofFn f

/-- Bytes of an image in the boot flash. -/
def flashBytes (dev kind slot o n : Nat) : List Byte := (List.range n).map fun i => Config.flashByte dev kind slot (o + i)

/-- The first check that an image of the boot flash fails, 1 to 4, or 0 where it is accepted: header, body, the two signatures,
then the two public keys. -/
def imageCheck (dev kind slot : Nat) : Nat :=
  let h := flashBytes dev kind slot 0 512
  let blen := field h 0x0C 4
  let o := 512 + blen
  let m := sha384 h
  let rsaKey := flashBytes dev kind slot (o + 384 + 16224) rsaKeyBytes
  let slhKey := flashBytes dev kind slot (o + 384 + 16224 + rsaKeyBytes) 48
  if field h 0 4 ≠ 0x47465731 ∨ field h 4 4 ≠ kind ∨ field h 0x40 448 ≠ 0 ∨ blen % 4096 ≠ 0 ∨ 2 ^ 26 < blen then 1
  else if field h 8 4 < Config.minver dev kind ∨ sha384 (flashBytes dev kind slot 512 blen) ≠ (h.drop 0x10).take 48 then 2
  else if rsaPssVerifies rsaKey m (flashBytes dev kind slot o 384) = false ∨ sha384 rsaKey ≠ finBytes 48 (Config.keyHash dev 0)
  then 3
  else if slhVerifies slhKey m (flashBytes dev kind slot (o + 384) 16224) = false ∨
      sha384 slhKey ≠ finBytes 48 (Config.keyHash dev 1) then 4
  else 0

/-- The slot that an image is loaded from: A, else B. -/
def firmwareSlot (dev kind : Nat) : Option Nat :=
  if imageCheck dev kind 0 = 0 then some 0 else if imageCheck dev kind 1 = 0 then some 1 else none

/-- The header of the running image. -/
def runningHeader (dev kind : Nat) : List Byte := flashBytes dev kind ((firmwareSlot dev kind).getD 0) 0 512

/-! Clearing a module (R406). -/

/-- Zero and empty in every memory of a device: HBM, vaults and scratchpads; the save store stays. Translations of a partition
that may be drawn from descriptors there go with the marks of its sectors (R344). -/
def State.scrubDevice (s : State) (dev : Nat) : State :=
  let mine (a : Nat) : Bool := a < 2 ^ 62 && addrDev a = dev
  let drawn (part : Nat) : Bool := (s.partition part).hbm.any fun c => c.1 * 2 ^ 21 / 2 ^ 48 = dev
  { s with
    tlb := s.tlb.filter fun e => !drawn e.part
    walkCache := s.walkCache.filter fun e => !drawn e.part
    mem := s.mem.filter fun c => !mine c.1
    sect := s.sect.filter fun c => !mine (c.1 * 64)
    marks := s.marks.filter fun c => !mine (c.1 * 64) }

/-- What a device's tiles, quads and stacks hold beside memory. -/
def State.dropCaches (s : State) (dev : Nat) : State :=
  { s with
    residency := s.residency.filter fun c => keyDev c.1 != dev
    staging := s.staging.filter fun c => tileDev c.1 != dev
    saddles := s.saddles.filter fun c =>
      let u := c.1 / 16
      (if 2 ^ 60 ≤ u then (u - 2 ^ 60) / 16 * 2 ^ 36 / 2 ^ 48
        else if 2 ^ 50 ≤ u then (u - 2 ^ 50) / 16 / 224 else (u - 2 ^ 40) / 896) != dev
    tlb := s.tlb.filter fun e =>
      (if e.owner % 2 = 0 then tileDev (e.owner / 2) else e.owner / 2 / 4) != dev && e.frame / 2 ^ 48 != dev
    walkCache := s.walkCache.filter fun e => e.quad / 224 != dev && e.da / 2 ^ 48 != dev
    replays := s.replays.filter fun e => keyDev e.key != dev && addrDev (e.sector * 64) != dev }

/-- A device after a reset: what it keeps are its store, the fields marked P, and after a warm reset its quotas and
Tree's own counts. -/
def Device.fresh (d : Device) (warm : Bool) : Device :=
  { ({} : Device) with
    module := .booting (if warm then 5 else 1)
    bridge := warm && d.bridge
    warm := warm
    storeSeq := d.storeSeq
    wear := d.wear.filterMap fun c => if c.2.eolh = 0 then none else some (c.1, { eolh := c.2.eolh })
    policy := if warm then d.policy.filterMap fun c =>
        if c.2.msq = 0 then none else some (c.1, { msq := c.2.msq }) else []
    fenceV := if warm then d.fenceV else 0
    msqForced := warm && d.msqForced }

/-- A partition of which no device is up any more has no translation root and no pool (R335). -/
def State.clearRoots (s : State) (dev : Nat) : State :=
  (List.range 16).foldl (fun x n =>
    let p := x.partition n
    if p.devices.contains dev || p.bridges.contains dev then
      let p1 := { p with admitted := p.admitted.filter fun d => d != dev }
      if p1.devices.contains dev ∧ (p1.devices.any p1.admitted.contains) = false then (x.setPartition n { p1 with ptRoot := 0, fpool := 0 }).dropTranslations n
      else x.setPartition n p1
    else x) s

/-- Launch records on their way to a device's queues are lost with them. -/
def State.dropArrivals (s : State) (dev : Nat) : State :=
  { s.lazyReset dev with arrivals := s.arrivals.filter fun l => l.dev != dev }

/-- A power-on or cold reset: everything of the module but its store begins again (R406). -/
def State.coldStart (s : State) (dev : Nat) : State :=
  let s1 := ((((s.dropWork dev).dropArrivals dev).dropPorts dev).scrubDevice dev).dropCaches dev
  (s1.setDevice dev ((s1.device dev).fresh false)).clearRoots dev

/-- POWER_ON_RESET (R406): supply is applied to a module without power, or comes back to one whose cinch is closed. -/
def execPowerOnReset (dev : Nat) (s : State) : Res State :=
  .next <|
    match (s.device dev).module with
    | .dead => s.coldStart dev
    | .holdUp true => s.coldStart dev
    | _ => s

/-- SUPPLY_RETURN (R373): the input has stood above 44 V for 10 ms; a cinch is finished first. -/
def execSupplyReturn (dev : Nat) (s : State) : Res State :=
  .next <|
    match (s.device dev).module with
    | .holdUp true => s.coldStart dev
    | _ => s

/-- COLD_RESET (R406): a PCIe reset or Tree's command; not during hold-up, when the endpoint is off. -/
def execColdReset (dev : Nat) (s : State) : Res State :=
  .next <|
    match (s.device dev).module with
    | .holdUp _ | .dead => s
    | _ => s.coldStart dev

/-- Whether Tack runs: from boot step 6 on (R407). -/
def ModuleState.tackRuns (m : ModuleState) : Bool :=
  match m with | .up => true | .booting n => 6 ≤ n | _ => false

/-- A warm reset (R406, R412): resident graphs, queued launches and attestation requests end with STATUS 1, every memory
is scrubbed, and the boot goes on from step 5. It comes from Tack, which runs from boot step 6 on.
DEDUCED (notes/assumptions/74.md). -/
def State.warmReset (s : State) (dev : Nat) : State :=
  if (s.device dev).module.tackRuns then
    let rids := s.regions.filterMap fun c => match c.2 with
      | some r => if r.origins.any fun o => o.dev = dev then some c.1 else none
      | none => none
    let s1 := rids.foldl (fun x rid => x.endGraph rid 1 0) s
    let ls := ((s1.device dev).queues.flatMap fun c => c.2) ++ (s1.arrivals ++ s1.attestations).filter fun l => l.dev = dev
    let s2 := ls.foldl (fun x l => x.endLaunch l 1 0) s1
    let s3 := ((((s2.dropWork dev).dropArrivals dev).dropPorts dev).scrubDevice dev).dropCaches dev
    (s3.setDevice dev ((s3.device dev).fresh true)).clearRoots dev
  else s

/-- WARM_RESET (R406). -/
def execWarmReset (dev : Nat) (s : State) : Res State := .next (s.warmReset dev)

/-- TACK_WATCHDOG (R406): Tack has not answered for 1 s. -/
def execTackWatchdog (dev : Nat) (s : State) : Res State := .next (s.warmReset dev)

/-! The restore report (R381). -/

/-- The pieces of an intent list, as their 32 bytes. -/
def State.intentPieces (s : State) (dev : Nat) (o : List Byte) : List (List Byte) :=
  (List.range (field o 0x18 4)).map fun i => s.store dev (storeIntent + 32 * i) 32

/-- The states of the blocks of a piece. -/
def State.pieceStates (s : State) (dev : Nat) (o p : List Byte) : List BlockClass :=
  (List.range (field p 0x10 4 / 4096)).map fun j => s.classify dev o (field p 0x18 4 + j)

def BlockClass.code : BlockClass → Nat
  | .absent => 0 | .whole => 1 | .torn => 2

/-- Two bits a block, four blocks a byte, rounded up. -/
def stateArray (l : List BlockClass) : List Byte :=
  (List.range ((l.length + 3) / 4)).map fun i =>
    let c (j : Nat) : Nat := ((l.drop (4 * i + j)).headD .absent).code
    BitVec.ofNat 8 (c 0 + 4 * c 1 + 16 * c 2 + 64 * c 3)

/-- The header of a report. -/
def reportHeader (status epoch tpf npiece nwhole ntorn nabsent : Nat) : List Byte :=
  leBytes 0x47435231 4 ++ leBytes status 4 ++ leBytes epoch 8 ++ leBytes tpf 8 ++ leBytes npiece 4 ++ leBytes nwhole 4 ++
    leBytes ntorn 4 ++ leBytes nabsent 4 ++ List.replicate 24 0

/-- STATUS of a device's reports. -/
def State.reportStatus (s : State) (dev : Nat) (warm : Bool) : Nat :=
  if warm then 3
  else
    match s.openRecord dev, s.closeRecord dev with
    | none, _ => 2
    | some _, some _ => 0
    | some _, none => 1

/-- The report of a partition. -/
def State.restoreReport (s : State) (dev part : Nat) (warm : Bool) : List Byte :=
  let st := s.reportStatus dev warm
  match s.openRecord dev with
  | none => reportHeader st 0 0 0 0 0 0
  | some o =>
    let epoch := field o 8 8
    let tpf := field o 0x10 8
    if warm then reportHeader st epoch tpf 0 0 0 0
    else
      let ps := (s.intentPieces dev o).filter fun p => field p 0x15 1 = part
      let cs := ps.map fun p => s.pieceStates dev o p
      let arrays := cs.map stateArray
      let count (k : BlockClass) : Nat := (cs.flatten.filter fun c => c = k).length
      let base := 0x40 + 32 * ps.length
      let recs := (ps.zipIdx).map fun p =>
        let ofs := base + ((arrays.take p.2).map List.length).foldl (fun (a : Nat) b => a + b) 0
        p.1.take 0x15 ++ List.replicate 3 0 ++ leBytes ofs 4 ++ leBytes 0 4
      reportHeader st epoch tpf ps.length (count .whole) (count .torn) (count .absent) ++ recs.flatten ++ arrays.flatten

/-- Writes a whole block back to its place, with its sector states. -/
def State.restoreBlock (s : State) (dev tbl k : Nat) : State :=
  let fa := field (s.store dev (storeTable tbl + 64 * k) 64) 0x18 8
  let st := (s.store dev (storeHeader k) 64).drop 0x10
  let s1 := s.writeBytes fa (s.store dev (storeData k) 4096)
  (List.range 64).foldl (fun x i =>
    let c := (field st (i / 4) 1) / 4 ^ (i % 4) % 4
    x.setSector (sectorOf fa + i) (if c = 1 then .full else if c = 2 then .poisoned else .empty)) s1

/-- Blocks of the partitions' pieces that are whole go back to HBM. -/
def State.restoreBlocks (s : State) (dev : Nat) : State :=
  match s.openRecord dev with
  | none => s
  | some o =>
    (List.range (field o 0x1C 4)).foldl (fun x k =>
      if s.classify dev o k = .whole then x.restoreBlock dev (field o 0x20 1) k else x) s

/-- Writes a partition's report into its report range. -/
def State.writeReport (s : State) (dev part : Nat) : State :=
  match (s.partition part).reportRange dev with
  | some g => s.writeBytes (g * 2 ^ 21) (s.restoreReport dev part (s.device dev).warm)
  | none => s

/-! The boot sequence (R407). -/

/-- Tree sets the quotas of a device; none where the hold-up bank has failed. After a warm reset they stand. -/
def State.setQuotas (s : State) (dev : Nat) : State :=
  let d := s.device dev
  if d.warm then s
  else
    (List.range 16).foldl (fun x part =>
      let m := if d.msqForced then 0 else Config.bootMsq dev part
      let e := x.device dev
      let sum := (List.range 16).foldl (fun (a : Nat) q => a + (e.pol q).msq) 0
      if (x.partition part).devices.contains dev ∧ sum + m ≤ 65536 then
        x.setDevice dev (e.setPol part { e.pol part with msq := m })
      else x) s

/-- Trains every lane group whose far end trains too and states the partner of R393 in IDENT, as this end does to it; any
other port is down, and Tack reports a wrong partner (R410). EQUALISE and IDENT pass within the step of the boot. -/
def State.trainPorts (s : State) (dev : Nat) : State :=
  (List.range 12).foldl (fun x port =>
    let p := portPartner dev port
    if (x.device p.1).module.trains && x.stated dev port != 12 * p.1 + p.2 then
      x.wrongPartner dev port (x.stated dev port)
    else if (x.device p.1).module.trains && x.stated p.1 p.2 = 12 * dev + port then
      let y := (List.range 8).foldl (fun z g =>
        (z.setGroup dev port g fun k => { k with state := .up }).setGroup p.1 p.2 g fun k => { k with state := .up }) x
      (y.portUp dev port).portUp p.1 p.2
    else x.portFails dev port) s

/-- Step 7: reports and restored blocks, quotas, and the partitions' admission: on the device, and to the set of its bridge
function, also of a partition that has a window there alone (R404). -/
def State.admitPartitions (s : State) (dev : Nat) : State :=
  let s1 := if (s.device dev).warm then s else s.restoreBlocks dev
  let parts := (List.range 16).filter fun n => (s.partition n).devices.contains dev
  let windows := (List.range 16).filter fun n =>
    (s.partition n).bridges.contains dev && !(s.partition n).devices.contains dev
  let letIn (x : State) (n : Nat) : State :=
    let p := x.partition n
    x.setPartition n { p with admitted := p.admitted ++ [dev] }
  let s2 := windows.foldl letIn (parts.foldl (fun x n => letIn (x.writeReport dev n) n) s1)
  let s3 := s2.setQuotas dev
  s3.setDevice dev { s3.device dev with module := .up, report := s.reportStatus dev (s.device dev).warm, warm := false }

/-- One step of a device's boot. -/
def State.bootStep (s : State) (dev : Nat) : State :=
  let d := s.device dev
  match d.module with
  | .booting n =>
    if n = 2 ∧ (firmwareSlot dev 1).isNone = true ∨ n = 5 ∧ (firmwareSlot dev 2).isNone = true then
      s.setDevice dev { d with module := .recovery, rejected := imageCheck dev (if n = 2 then 1 else 2) 1 }
    else if n = 3 then
      (s.scrubDevice dev).setDevice dev { d with
        module := .booting 4, bridge := Config.bridgeStrap dev, msqForced := !Config.holdUpBankGood dev s.now
        spines := [], tileSpine := [], spineNext := [] }
    else if n = 6 then
      let s1 := s.trainPorts dev
      s1.setDevice dev { s1.device dev with module := .booting 7 }
    else if 7 ≤ n then s.admitPartitions dev
    else s.setDevice dev { d with module := .booting (n + 1) }
  | _ => s

/-- Entries of the combining buffers that have been open for 2 µs of resident time are sent (R136). -/
def State.sendOld (s : State) : State :=
  s.threads.foldl (fun (x : State) c => match c.2 with
    | some t => if t.cb.any fun e => e.opened + 2000 ≤ s.now then x.sendFrom c.1 fun e => e.opened + 2000 ≤ s.now else x
    | none => x) s

/-- Fabric time passes: each module that boots or runs its cinch goes on by one step, and old entries of combining buffers
are sent. DESIGN CHOICE (notes/assumptions/71.md). -/
def State.passTime (s : State) (ns : Nat) : State :=
  ((List.range 256).foldl (fun (x : State) dev => (x.bootStep dev).cinchStep dev) { s with now := s.now + ns }).sendOld

/-! Attestation (R411). -/

/-- The outcome of writes by Tree through a partition's translation. -/
inductive VWrite where
  | done (s : State)
  /-- a fault, or a page that takes no store -/
  | bad (s : State)
  | busy (s : State)

/-- The descriptor of a partition as numbers. -/
def Partition.numbers (p : Partition) : List Nat :=
  p.quads ++ [2 ^ 64] ++ (p.hbm.flatMap fun c => [c.1, c.2]) ++ [2 ^ 64] ++ p.devices ++ [2 ^ 64] ++ p.bridges

/-- Bytes 0x000 to 0x0FF of a report. -/
def State.attestationBody (s : State) (dev part : Nat) (nonce : List Byte) : List Byte :=
  let tree := runningHeader dev 1
  let tack := runningHeader dev 2
  let d := s.device dev
  let epoch := match s.openRecord dev with | some o => field o 8 8 | none => 0
  let flags := (if d.bridge then 1 else 0) + if d.msqForced then 2 else 0
  leBytes 0x47415431 4 ++ leBytes part 2 ++ leBytes dev 1 ++ leBytes flags 1 ++ finBytes 16 (Config.serial dev) ++
    leBytes s.now 8 ++ nonce ++ (tree.drop 0x10).take 48 ++ (tack.drop 0x10).take 48 ++ (tree.drop 8).take 4 ++
    (tack.drop 8).take 4 ++ finBytes 48 (Config.partitionDigest (s.partition part).numbers) ++
    leBytes (epoch % 2 ^ 62 + d.report * 2 ^ 62) 8 ++ leBytes d.fenceV 4 ++ List.replicate 28 0

/-- Writes `bs` at a virtual address of a launch's space, a sector at a time, or says why it cannot. -/
def State.writeVirt (s : State) (l : LaunchRec) (va : Nat) (bs : List Byte) : Nat → VWrite
  | 0 => .done s
  | fuel + 1 =>
    match bs with
    | [] => .done s
    | _ =>
      match translate s l.part (l.dev * 896) l.super va .write with
      | .ok fa s1 => (s1.storeBytes fa (bs.take 64)).writeVirt l (va + 64) (bs.drop 64) fuel
      | .fault _ _ s1 => .bad s1
      | .busy s1 => .busy s1

/-- Whether every page of the buffer takes a store: the next `n` blocks of 4 KiB from `va` on. A page, a memory or translations
that are not ready are waited for (R341, R345, R373). -/
def State.bufferReady (s : State) (l : LaunchRec) (va : Nat) : Nat → VWrite
  | 0 => .done s
  | n + 1 =>
    if 2 ^ 56 ≤ va then .bad s
    else
      match translate s l.part (l.dev * 896) l.super va .write with
      | .ok fa s1 => if s1.memOff l.dev fa || s1.rangeInUse fa 4096 then .busy s1 else s1.bufferReady l (va + 4096) n
      | .fault _ _ s1 => .bad s1
      | .busy s1 => .busy s1

/-- The report for a nonce is written into the buffer, whose pages are ready. -/
def State.report (s : State) (l : LaunchRec) (nonce : List Byte) : VWrite :=
  let body := s.attestationBody l.dev l.part nonce
  let sigs := Config.attestationSigs l.dev body
  s.writeVirt l l.arg.toNat (body ++ finBytes 384 sigs.1 ++ finBytes 16224 sigs.2) 300

/-- What Tree does with a request: the buffer is looked at, its nonce is read, and the report is written. -/
def State.attestTo (s : State) (l : LaunchRec) : VWrite :=
  if l.arg.toNat % 4096 ≠ 0 then .bad s
  else
    match s.bufferReady l l.arg.toNat 5 with
    | .done s1 =>
      (match readVirt s1 l l.arg.toNat 32 2 with
      | .bytes nonce s2 => s2.report l nonce
      | .bad s2 => .bad s2
      | .busy s2 => .busy s2)
    | x => x

/-- ATTESTATION_REQUEST (R411): Tree answers the oldest request of a device, which waits while its buffer is not ready.
DEDUCED (notes/assumptions/75.md). -/
def execAttestationRequest (dev : Nat) (s : State) : Res State :=
  .next <|
    if (s.device dev).module ≠ .up then s
    else
      match s.attestations.find? fun l => l.dev = dev with
      | none => s
      | some l =>
        match { s with attestations := s.attestations.erase l }.attestTo l with
        | .done s1 => s1.endLaunch l 0 0
        | .bad s1 => s1.endLaunch l 4 0x12
        | .busy s1 => { s1 with attestations := s.attestations }

end Sys2Proof.Machine
end

