-- ==== Sys2Proof/Machine/Dispatch.lean ====
section
/-!
DEFINITION. One arm for each constructor of Instr: the meaning it calls.
-/

namespace Sys2Proof.Machine

def exec (i : Instr) (s : State) : Host.Outcome State Fault Refusal :=
  match i with
  | .add d a b g => Sys2Proof.Machine.execAdd d a b g s
  | .sub d a b g => Sys2Proof.Machine.execSub d a b g s
  | .and d a b g => Sys2Proof.Machine.execAnd d a b g s
  | .or d a b g => Sys2Proof.Machine.execOr d a b g s
  | .xor d a b g => Sys2Proof.Machine.execXor d a b g s
  | .andn d a b g => Sys2Proof.Machine.execAndn d a b g s
  | .shl d a b g => Sys2Proof.Machine.execShl d a b g s
  | .shr d a b g => Sys2Proof.Machine.execShr d a b g s
  | .sra d a b g => Sys2Proof.Machine.execSra d a b g s
  | .rol d a b g => Sys2Proof.Machine.execRol d a b g s
  | .min d a b g => Sys2Proof.Machine.execMin d a b g s
  | .max d a b g => Sys2Proof.Machine.execMax d a b g s
  | .minn d a b g => Sys2Proof.Machine.execMinn d a b g s
  | .maxn d a b g => Sys2Proof.Machine.execMaxn d a b g s
  | .slt d a b g => Sys2Proof.Machine.execSlt d a b g s
  | .sltn d a b g => Sys2Proof.Machine.execSltn d a b g s
  | .seq d a b g => Sys2Proof.Machine.execSeq d a b g s
  | .clz d a g => Sys2Proof.Machine.execClz d a g s
  | .ctz d a g => Sys2Proof.Machine.execCtz d a g s
  | .popc d a g => Sys2Proof.Machine.execPopc d a g s
  | .bswap d a g => Sys2Proof.Machine.execBswap d a g s
  | .sextI8 d a g => Sys2Proof.Machine.execSextI8 d a g s
  | .sextI16 d a g => Sys2Proof.Machine.execSextI16 d a g s
  | .sextI32 d a g => Sys2Proof.Machine.execSextI32 d a g s
  | .zextN8 d a g => Sys2Proof.Machine.execZextN8 d a g s
  | .zextN16 d a g => Sys2Proof.Machine.execZextN16 d a g s
  | .zextN32 d a g => Sys2Proof.Machine.execZextN32 d a g s
  | .mul d a b g => Sys2Proof.Machine.execMul d a b g s
  | .mulh d a b g => Sys2Proof.Machine.execMulh d a b g s
  | .mulhn d a b g => Sys2Proof.Machine.execMulhn d a b g s
  | .div d a b g => Sys2Proof.Machine.execDiv d a b g s
  | .divn d a b g => Sys2Proof.Machine.execDivn d a b g s
  | .rem d a b g => Sys2Proof.Machine.execRem d a b g s
  | .remn d a b g => Sys2Proof.Machine.execRemn d a b g s
  | .addi d a imm => Sys2Proof.Machine.execAddi d a imm s
  | .andi d a imm => Sys2Proof.Machine.execAndi d a imm s
  | .ori d a imm => Sys2Proof.Machine.execOri d a imm s
  | .xori d a imm => Sys2Proof.Machine.execXori d a imm s
  | .shli d a n => Sys2Proof.Machine.execShli d a n s
  | .shri d a n => Sys2Proof.Machine.execShri d a n s
  | .srai d a n => Sys2Proof.Machine.execSrai d a n s
  | .roli d a n => Sys2Proof.Machine.execRoli d a n s
  | .lui d a imm => Sys2Proof.Machine.execLui d a imm s
  | .lim hi op => Sys2Proof.Machine.execLim hi op s
  | .lea d a z off => Sys2Proof.Machine.execLea d a z off s
  | .addr2 d a b g ps z => Sys2Proof.Machine.execAddr2 d a b g ps z s
  | .cmp p a b g cc => Sys2Proof.Machine.execCmp p a b g cc s
  | .cmpi cc p a imm => Sys2Proof.Machine.execCmpi cc p a imm s
  | .pand pd pa pb g => Sys2Proof.Machine.execPand pd pa pb g s
  | .por pd pa pb g => Sys2Proof.Machine.execPor pd pa pb g s
  | .pxor pd pa pb g => Sys2Proof.Machine.execPxor pd pa pb g s
  | .pandn pd pa pb g => Sys2Proof.Machine.execPandn pd pa pb g s
  | .porn pd pa pb g => Sys2Proof.Machine.execPorn pd pa pb g s
  | .sel d a b g neg pc => Sys2Proof.Machine.execSel d a b g neg pc s
  | .csrr d n => Sys2Proof.Machine.execCsrr d n s
  | .csrw a n => Sys2Proof.Machine.execCsrw a n s
  | .csrrw d a n => Sys2Proof.Machine.execCsrrw d a n s
  | .tagsWrite v => Sys2Proof.Machine.execTagsWrite v s
  | .flagsWrite v => Sys2Proof.Machine.execFlagsWrite v s
  | .userCsrWrite n v => Sys2Proof.Machine.execUserCsrWrite n v s
  | .fadd d a b g rm => Sys2Proof.Machine.execFadd d a b g rm s
  | .fsub d a b g rm => Sys2Proof.Machine.execFsub d a b g rm s
  | .fmul d a b g rm => Sys2Proof.Machine.execFmul d a b g rm s
  | .fdiv d a b g rm => Sys2Proof.Machine.execFdiv d a b g rm s
  | .fsqrt d a g rm => Sys2Proof.Machine.execFsqrt d a g rm s
  | .fmin d a b g => Sys2Proof.Machine.execFmin d a b g s
  | .fmax d a b g => Sys2Proof.Machine.execFmax d a b g s
  | .fma d a b g rm => Sys2Proof.Machine.execFma d a b g rm s
  | .fcvtfI64 d a g rm => Sys2Proof.Machine.execFcvtfI64 d a g rm s
  | .fcvtfN64 d a g rm => Sys2Proof.Machine.execFcvtfN64 d a g rm s
  | .fcvtiI64 d a g rm => Sys2Proof.Machine.execFcvtiI64 d a g rm s
  | .fcvtiN64 d a g rm => Sys2Proof.Machine.execFcvtiN64 d a g rm s
  | .fcmp p a b g cc => Sys2Proof.Machine.execFcmp p a b g cc s
  | .br p neg off => Sys2Proof.Machine.execBr p neg off s
  | .call p neg off => Sys2Proof.Machine.execCall p neg off s
  | .jr a g => Sys2Proof.Machine.execJr a g s
  | .jalr d a g => Sys2Proof.Machine.execJalr d a g s
  | .ret g => Sys2Proof.Machine.execRet g s
  | .loop d a imm => Sys2Proof.Machine.execLoop d a imm s
  | .trap code => Sys2Proof.Machine.execTrap code s
  | .brk code => Sys2Proof.Machine.execBrk code s
  | .halt => Sys2Proof.Machine.execHalt s
  | .wfi => Sys2Proof.Machine.execWfi s
  | .boost r => Sys2Proof.Machine.execBoost r s
  | .saveset r n => Sys2Proof.Machine.execSaveset r n s
  | .energy r => Sys2Proof.Machine.execEnergy r s
  | .eretResume => Sys2Proof.Machine.execEretResume s
  | .eretKill => Sys2Proof.Machine.execEretKill s
  | .eretWake => Sys2Proof.Machine.execEretWake s
  | .pcsrr r n => Sys2Proof.Machine.execPcsrr r n s
  | .pcsrw r n => Sys2Proof.Machine.execPcsrw r n s
  | .tnextRead r => Sys2Proof.Machine.execTnextRead r s
  | .tselWrite v => Sys2Proof.Machine.execTselWrite v s
  | .ptRootWrite v => Sys2Proof.Machine.execPtRootWrite v s
  | .fpoolWrite v => Sys2Proof.Machine.execFpoolWrite v s
  | .sdlLoadWrite v => Sys2Proof.Machine.execSdlLoadWrite v s
  | .sdlLoadApply key => Sys2Proof.Machine.execSdlLoadApply key s
  | .privCsrWrite n v => Sys2Proof.Machine.execPrivCsrWrite n v s
  | .ldB d a k sc off => Sys2Proof.Machine.execLdB d a k sc off s
  | .ldH d a k sc off => Sys2Proof.Machine.execLdH d a k sc off s
  | .ldW d a k sc off => Sys2Proof.Machine.execLdW d a k sc off s
  | .ldD d a k sc off => Sys2Proof.Machine.execLdD d a k sc off s
  | .stB d a k sc off => Sys2Proof.Machine.execStB d a k sc off s
  | .stH d a k sc off => Sys2Proof.Machine.execStH d a k sc off s
  | .stW d a k sc off => Sys2Proof.Machine.execStW d a k sc off s
  | .stD d a k sc off => Sys2Proof.Machine.execStD d a k sc off s
  | .sts d a k sc z off => Sys2Proof.Machine.execSts d a k sc z off s
  | .lda d a k sc z off => Sys2Proof.Machine.execLda d a k sc z off s
  | .ldwSync d a k sc z off => Sys2Proof.Machine.execLdwSync d a k sc z off s
  | .ldwTake d a k sc z off => Sys2Proof.Machine.execLdwTake d a k sc z off s
  | .stwFill d a k sc z off => Sys2Proof.Machine.execStwFill d a k sc z off s
  | .stwClear a k sc off => Sys2Proof.Machine.execStwClear a k sc off s
  | .fes d a k sc off => Sys2Proof.Machine.execFes d a k sc off s
  | .parkedAccessServe sector => Sys2Proof.Machine.execParkedAccessServe sector s
  | .parkedAccessRetry key => Sys2Proof.Machine.execParkedAccessRetry key s
  | .amoSwap d a k sc sz off => Sys2Proof.Machine.execAmoSwap d a k sc sz off s
  | .amoCas d a k sc sz off => Sys2Proof.Machine.execAmoCas d a k sc sz off s
  | .amoAdd d a k sc sz off => Sys2Proof.Machine.execAmoAdd d a k sc sz off s
  | .amoAnd d a k sc sz off => Sys2Proof.Machine.execAmoAnd d a k sc sz off s
  | .amoOr d a k sc sz off => Sys2Proof.Machine.execAmoOr d a k sc sz off s
  | .amoXor d a k sc sz off => Sys2Proof.Machine.execAmoXor d a k sc sz off s
  | .amoMin d a k sc sz off => Sys2Proof.Machine.execAmoMin d a k sc sz off s
  | .amoMax d a k sc sz off => Sys2Proof.Machine.execAmoMax d a k sc sz off s
  | .amoMinn d a k sc sz off => Sys2Proof.Machine.execAmoMinn d a k sc sz off s
  | .amoMaxn d a k sc sz off => Sys2Proof.Machine.execAmoMaxn d a k sc sz off s
  | .amoFadd d a k sc off => Sys2Proof.Machine.execAmoFadd d a k sc off s
  | .invoke d a k sc e t => Sys2Proof.Machine.execInvoke d a k sc e t s
  | .saddleRun => Sys2Proof.Machine.execSaddleRun s
  | .invocationResult => Sys2Proof.Machine.execInvocationResult s
  | .tjoin kd ka kb g => Sys2Proof.Machine.execTjoin kd ka kb g s
  | .twait ka g => Sys2Proof.Machine.execTwait ka g s
  | .fence sc => Sys2Proof.Machine.execFence sc s
  | .fenceFlag a k sc off => Sys2Proof.Machine.execFenceFlag a k sc off s
  | .waitany d a g => Sys2Proof.Machine.execWaitany d a g s
  | .waitall d a g => Sys2Proof.Machine.execWaitall d a g s
  | .ffr d a g => Sys2Proof.Machine.execFfr d a g s
  | .ffrClr d a g => Sys2Proof.Machine.execFfrClr d a g s
  | .dsync l => Sys2Proof.Machine.execDsync l s
  | .bind ag port prog tv t => Sys2Proof.Machine.execBind ag port prog tv t s
  | .unbind ag => Sys2Proof.Machine.execUnbind ag s
  | .tctlStart e ix => Sys2Proof.Machine.execTctlStart e ix s
  | .tctlStop e => Sys2Proof.Machine.execTctlStop e s
  | .tctlResume e => Sys2Proof.Machine.execTctlResume e s
  | .tctlBase ag r => Sys2Proof.Machine.execTctlBase ag r s
  | .tctlStat e r => Sys2Proof.Machine.execTctlStat e r s
  | .strm ag r => Sys2Proof.Machine.execStrm ag r s
  | .strmI ag n => Sys2Proof.Machine.execStrmI ag n s
  | .drain port t => Sys2Proof.Machine.execDrain port t s
  | .drainSlot t => Sys2Proof.Machine.execDrainSlot t s
  | .drainMarker key port => Sys2Proof.Machine.execDrainMarker key port s
  | .cfgLd r => Sys2Proof.Machine.execCfgLd r s
  | .cfgStage r => Sys2Proof.Machine.execCfgStage r s
  | .cfgSw t => Sys2Proof.Machine.execCfgSw t s
  | .eocSwitch key node => Sys2Proof.Machine.execEocSwitch key node s
  | .lqStat r q => Sys2Proof.Machine.execLqStat r q s
  | .launch r => Sys2Proof.Machine.execLaunch r s
  | .exit => Sys2Proof.Machine.execExit s
  | .yield => Sys2Proof.Machine.execYield s
  | .marm v ix t n => Sys2Proof.Machine.execMarm v ix t n s
  | .mfence m => Sys2Proof.Machine.execMfence m s
  | .accClr m => Sys2Proof.Machine.execAccClr m s
  | .accHold m => Sys2Proof.Machine.execAccHold m s
  | .accStat r => Sys2Proof.Machine.execAccStat r s
  | .accRd r n => Sys2Proof.Machine.execAccRd r n s
  | .streamAccess key ag => Sys2Proof.Machine.execStreamAccess key ag s
  | .combiningBufferSend key n => Sys2Proof.Machine.execCombiningBufferSend key n s
  | .tableWalk key va kind => Sys2Proof.Machine.execTableWalk key va kind s
  | .invalidation sector => Sys2Proof.Machine.execInvalidation sector s
  | .tokenAccept key point => Sys2Proof.Machine.execTokenAccept key point s
  | .laneFire key lane => Sys2Proof.Machine.execLaneFire key lane s
  | .laneEos key lane => Sys2Proof.Machine.execLaneEos key lane s
  | .groupFire key grp => Sys2Proof.Machine.execGroupFire key grp s
  | .switchBoxFire key node => Sys2Proof.Machine.execSwitchBoxFire key node s
  | .arcEosPadding key arc => Sys2Proof.Machine.execArcEosPadding key arc s
  | .latchEosPadding key north => Sys2Proof.Machine.execLatchEosPadding key north s
  | .gatherRead key => Sys2Proof.Machine.execGatherRead key s
  | .mmaFire key ix => Sys2Proof.Machine.execMmaFire key ix s
  | .mltFire key ix => Sys2Proof.Machine.execMltFire key ix s
  | .mstFire key ix => Sys2Proof.Machine.execMstFire key ix s
  | .armingEnd key ix => Sys2Proof.Machine.execArmingEnd key ix s
  | .arrayEos key out => Sys2Proof.Machine.execArrayEos key out s
  | .sinkEos key port => Sys2Proof.Machine.execSinkEos key port s
  | .egressGroupSend key q => Sys2Proof.Machine.execEgressGroupSend key q s
  | .egressEos key q => Sys2Proof.Machine.execEgressEos key q s
  | .integrityCheck key q good => Sys2Proof.Machine.execIntegrityCheck key q good s
  | .groupReplay key q => Sys2Proof.Machine.execGroupReplay key q s
  | .ingressEos key q => Sys2Proof.Machine.execIngressEos key q s
  | .oiAdvance rid part => Sys2Proof.Machine.execOiAdvance rid part s
  | .flitReceive dev port group good => Sys2Proof.Machine.execFlitReceive dev port group good s
  | .laneGroupRetrain dev port group => Sys2Proof.Machine.execLaneGroupRetrain dev port group s
  | .portDown dev port => Sys2Proof.Machine.execPortDown dev port s
  | .bindingRelocate dev port group => Sys2Proof.Machine.execBindingRelocate dev port group s
  | .loadRequest => Sys2Proof.Machine.execLoadRequest s
  | .loadReply => Sys2Proof.Machine.execLoadReply s
  | .atomicRequest => Sys2Proof.Machine.execAtomicRequest s
  | .atomicReply => Sys2Proof.Machine.execAtomicReply s
  | .invocation => Sys2Proof.Machine.execInvocation s
  | .storeAcknowledgement => Sys2Proof.Machine.execStoreAcknowledgement s
  | .pooledReadRequest => Sys2Proof.Machine.execPooledReadRequest s
  | .pooledDataFlit => Sys2Proof.Machine.execPooledDataFlit s
  | .schedulerMessage => Sys2Proof.Machine.execSchedulerMessage s
  | .hostStore bridge fa data => Sys2Proof.Machine.execHostStore bridge fa data s
  | .hostRead bridge fa n => Sys2Proof.Machine.execHostRead bridge fa n s
  | .hostSyncRead bridge fa n => Sys2Proof.Machine.execHostSyncRead bridge fa n s
  | .launchInvocation bridge page off data => Sys2Proof.Machine.execLaunchInvocation bridge page off data s
  | .launchEnqueue dev => Sys2Proof.Machine.execLaunchEnqueue dev s
  | .schedulerRound dev part => Sys2Proof.Machine.execSchedulerRound dev part s
  | .bidBlocking dev part => Sys2Proof.Machine.execBidBlocking dev part s
  | .reservation dev part => Sys2Proof.Machine.execReservation dev part s
  | .graphStart rid => Sys2Proof.Machine.execGraphStart rid s
  | .configAck rid dev => Sys2Proof.Machine.execConfigAck rid dev s
  | .graphCompletion rid => Sys2Proof.Machine.execGraphCompletion rid s
  | .kill rid => Sys2Proof.Machine.execKill rid s
  | .preemption rid => Sys2Proof.Machine.execPreemption rid s
  | .gateRequest rid tick => Sys2Proof.Machine.execGateRequest rid tick s
  | .gate rid => Sys2Proof.Machine.execGate rid s
  | .restore rid => Sys2Proof.Machine.execRestore rid s
  | .imageUpdate => Sys2Proof.Machine.execImageUpdate s
  | .policyRecordWrite dev part word v tree => Sys2Proof.Machine.execPolicyRecordWrite dev part word v tree s
  | .powerRecordWrite dev part v => Sys2Proof.Machine.execPowerRecordWrite dev part v s
  | .energyWeightWrite dev word v => Sys2Proof.Machine.execEnergyWeightWrite dev word v s
  | .controlSpaceWrite dev off v => Sys2Proof.Machine.execControlSpaceWrite dev off v s
  | .partitionChange res owner => Sys2Proof.Machine.execPartitionChange res owner s
  | .powerInterval dev sense => Sys2Proof.Machine.execPowerInterval dev sense s
  | .leaseEnd rid => Sys2Proof.Machine.execLeaseEnd rid s
  | .hbmTempRead dev stack code => Sys2Proof.Machine.execHbmTempRead dev stack code s
  | .wearUpdate dev eolh => Sys2Proof.Machine.execWearUpdate dev eolh s
  | .powerFail dev => Sys2Proof.Machine.execPowerFail dev s
  | .reserveExhausted dev => Sys2Proof.Machine.execReserveExhausted dev s
  | .supplyReturn dev => Sys2Proof.Machine.execSupplyReturn dev s
  | .powerOnReset dev => Sys2Proof.Machine.execPowerOnReset dev s
  | .coldReset dev => Sys2Proof.Machine.execColdReset dev s
  | .warmReset dev => Sys2Proof.Machine.execWarmReset dev s
  | .tackWatchdog dev => Sys2Proof.Machine.execTackWatchdog dev s
  | .linkTraining dev port group partner => Sys2Proof.Machine.execLinkTraining dev port group partner s
  | .attestationRequest dev => Sys2Proof.Machine.execAttestationRequest dev s
  | .staticShare tile => Sys2Proof.Machine.execStaticShare tile s
  | .accessReply key => Sys2Proof.Machine.execAccessReply key s
  | .linkFailure dev port => Sys2Proof.Machine.execLinkFailure dev port s
  | .gateRequestWithdrawal rid => Sys2Proof.Machine.execGateRequestWithdrawal rid s

end Sys2Proof.Machine
end

