-- ==== Sys2Proof/Decode.lean ====
section
/-!
DEFINITION. The decoder of control-stream words and, after it, the encoder, both written from the field layouts of
R146 and the word columns of the instruction chapters. A word that no entry assigns decodes to nothing; the step
then raises the illegal-instruction trap of R148.
-/

namespace Sys2Proof

/-- The major opcode, bits [31:26] (R146). -/
def Word.major (w : Word) : BitVec 6 := w.extractLsb' 26 6

/-- The guard field of format A, bits [10:7] (R146). -/
def Word.guard (w : Word) : Guard := ⟨w.extractLsb' 8 3, w.extractLsb' 7 1⟩

/-- An I-format word read as the operand of a LIM (R151). Nothing when the major is not I-format or a field that
R148 wants zero is not. -/
def decodeIOp (w : Word) : Option IOp :=
  let d : Reg := w.extractLsb' 21 5
  let a : Reg := w.extractLsb' 16 5
  let lo : BitVec 16 := w.extractLsb' 0 16
  let m := w.major
  if m = 2#6 then some (.addi d a lo)
  else if m = 3#6 then some (.andi d a lo)
  else if m = 4#6 then some (.ori d a lo)
  else if m = 5#6 then some (.xori d a lo)
  else if m = 6#6 then
    if w.extractLsb' 8 8 = 0#8 then some (.shift d a (w.extractLsb' 6 2) (w.extractLsb' 0 6)) else none
  else if m = 7#6 then some (.lui d a lo)
  else if m = 11#6 then some (.cmpi (w.extractLsb' 24 2) (w.extractLsb' 21 3) a lo)
  else if m = 14#6 then
    if w.extractLsb' 12 4 = 0#4 then (if a = 0#5 then some (.csrr d (w.extractLsb' 0 12)) else none)
    else if w.extractLsb' 12 4 = 4#4 then (if d = 0#5 then some (.csrw a (w.extractLsb' 0 12)) else none)
    else if w.extractLsb' 12 4 = 8#4 then some (.csrrw d a (w.extractLsb' 0 12))
    else none
  else if m = 19#6 then some (.loop d a lo)
  else if m = 41#6 then
    if w.extractLsb' 3 23 = 0#23 then some (.dsync (w.extractLsb' 0 3)) else none
  else none

/-- The word of an I-format operand of a LIM. -/
def encodeIOp : IOp → Word
  | .addi d a lo => 2#6 ++ d ++ a ++ lo
  | .andi d a lo => 3#6 ++ d ++ a ++ lo
  | .ori d a lo => 4#6 ++ d ++ a ++ lo
  | .xori d a lo => 5#6 ++ d ++ a ++ lo
  | .shift d a op n => 6#6 ++ d ++ a ++ 0#8 ++ op ++ n
  | .lui d a lo => 7#6 ++ d ++ a ++ lo
  | .cmpi cc p a lo => 11#6 ++ cc ++ p ++ a ++ lo
  | .csrr d n => 14#6 ++ d ++ 0#5 ++ 0#4 ++ n
  | .csrw a n => 14#6 ++ 0#5 ++ a ++ 4#4 ++ n
  | .csrrw d a n => 14#6 ++ d ++ a ++ 8#4 ++ n
  | .loop d a lo => 19#6 ++ d ++ a ++ lo
  | .dsync l => 41#6 ++ 0#23 ++ l

/-- The fields of a word of major 0x01. -/
def decodeMajor01 (w : Word) : Option Instr :=
  if w.extractLsb' 11 5 = 0#5 ∧ w.extractLsb' 0 7 = 17#7 then some (.clz (w.extractLsb' 21 5) (w.extractLsb' 16 5) w.guard)
  else if w.extractLsb' 11 5 = 0#5 ∧ w.extractLsb' 0 7 = 18#7 then some (.ctz (w.extractLsb' 21 5) (w.extractLsb' 16 5) w.guard)
  else if w.extractLsb' 11 5 = 0#5 ∧ w.extractLsb' 0 7 = 19#7 then some (.popc (w.extractLsb' 21 5) (w.extractLsb' 16 5) w.guard)
  else if w.extractLsb' 11 5 = 0#5 ∧ w.extractLsb' 0 7 = 20#7 then some (.bswap (w.extractLsb' 21 5) (w.extractLsb' 16 5) w.guard)
  else if w.extractLsb' 11 5 = 0#5 ∧ w.extractLsb' 0 7 = 21#7 then some (.sextI8 (w.extractLsb' 21 5) (w.extractLsb' 16 5) w.guard)
  else if w.extractLsb' 11 5 = 0#5 ∧ w.extractLsb' 0 7 = 22#7 then some (.sextI16 (w.extractLsb' 21 5) (w.extractLsb' 16 5) w.guard)
  else if w.extractLsb' 11 5 = 0#5 ∧ w.extractLsb' 0 7 = 23#7 then some (.sextI32 (w.extractLsb' 21 5) (w.extractLsb' 16 5) w.guard)
  else if w.extractLsb' 11 5 = 0#5 ∧ w.extractLsb' 0 7 = 24#7 then some (.zextN8 (w.extractLsb' 21 5) (w.extractLsb' 16 5) w.guard)
  else if w.extractLsb' 11 5 = 0#5 ∧ w.extractLsb' 0 7 = 25#7 then some (.zextN16 (w.extractLsb' 21 5) (w.extractLsb' 16 5) w.guard)
  else if w.extractLsb' 11 5 = 0#5 ∧ w.extractLsb' 0 7 = 26#7 then some (.zextN32 (w.extractLsb' 21 5) (w.extractLsb' 16 5) w.guard)
  else if w.extractLsb' 0 7 = 0#7 then some (.add (w.extractLsb' 21 5) (w.extractLsb' 16 5) (w.extractLsb' 11 5) w.guard)
  else if w.extractLsb' 0 7 = 1#7 then some (.sub (w.extractLsb' 21 5) (w.extractLsb' 16 5) (w.extractLsb' 11 5) w.guard)
  else if w.extractLsb' 0 7 = 2#7 then some (.and (w.extractLsb' 21 5) (w.extractLsb' 16 5) (w.extractLsb' 11 5) w.guard)
  else if w.extractLsb' 0 7 = 3#7 then some (.or (w.extractLsb' 21 5) (w.extractLsb' 16 5) (w.extractLsb' 11 5) w.guard)
  else if w.extractLsb' 0 7 = 4#7 then some (.xor (w.extractLsb' 21 5) (w.extractLsb' 16 5) (w.extractLsb' 11 5) w.guard)
  else if w.extractLsb' 0 7 = 5#7 then some (.andn (w.extractLsb' 21 5) (w.extractLsb' 16 5) (w.extractLsb' 11 5) w.guard)
  else if w.extractLsb' 0 7 = 6#7 then some (.shl (w.extractLsb' 21 5) (w.extractLsb' 16 5) (w.extractLsb' 11 5) w.guard)
  else if w.extractLsb' 0 7 = 7#7 then some (.shr (w.extractLsb' 21 5) (w.extractLsb' 16 5) (w.extractLsb' 11 5) w.guard)
  else if w.extractLsb' 0 7 = 8#7 then some (.sra (w.extractLsb' 21 5) (w.extractLsb' 16 5) (w.extractLsb' 11 5) w.guard)
  else if w.extractLsb' 0 7 = 9#7 then some (.rol (w.extractLsb' 21 5) (w.extractLsb' 16 5) (w.extractLsb' 11 5) w.guard)
  else if w.extractLsb' 0 7 = 10#7 then some (.min (w.extractLsb' 21 5) (w.extractLsb' 16 5) (w.extractLsb' 11 5) w.guard)
  else if w.extractLsb' 0 7 = 11#7 then some (.max (w.extractLsb' 21 5) (w.extractLsb' 16 5) (w.extractLsb' 11 5) w.guard)
  else if w.extractLsb' 0 7 = 12#7 then some (.minn (w.extractLsb' 21 5) (w.extractLsb' 16 5) (w.extractLsb' 11 5) w.guard)
  else if w.extractLsb' 0 7 = 13#7 then some (.maxn (w.extractLsb' 21 5) (w.extractLsb' 16 5) (w.extractLsb' 11 5) w.guard)
  else if w.extractLsb' 0 7 = 14#7 then some (.slt (w.extractLsb' 21 5) (w.extractLsb' 16 5) (w.extractLsb' 11 5) w.guard)
  else if w.extractLsb' 0 7 = 15#7 then some (.sltn (w.extractLsb' 21 5) (w.extractLsb' 16 5) (w.extractLsb' 11 5) w.guard)
  else if w.extractLsb' 0 7 = 16#7 then some (.seq (w.extractLsb' 21 5) (w.extractLsb' 16 5) (w.extractLsb' 11 5) w.guard)
  else if w.extractLsb' 0 7 = 32#7 then some (.mul (w.extractLsb' 21 5) (w.extractLsb' 16 5) (w.extractLsb' 11 5) w.guard)
  else if w.extractLsb' 0 7 = 33#7 then some (.mulh (w.extractLsb' 21 5) (w.extractLsb' 16 5) (w.extractLsb' 11 5) w.guard)
  else if w.extractLsb' 0 7 = 34#7 then some (.mulhn (w.extractLsb' 21 5) (w.extractLsb' 16 5) (w.extractLsb' 11 5) w.guard)
  else if w.extractLsb' 0 7 = 36#7 then some (.div (w.extractLsb' 21 5) (w.extractLsb' 16 5) (w.extractLsb' 11 5) w.guard)
  else if w.extractLsb' 0 7 = 37#7 then some (.divn (w.extractLsb' 21 5) (w.extractLsb' 16 5) (w.extractLsb' 11 5) w.guard)
  else if w.extractLsb' 0 7 = 38#7 then some (.rem (w.extractLsb' 21 5) (w.extractLsb' 16 5) (w.extractLsb' 11 5) w.guard)
  else if w.extractLsb' 0 7 = 39#7 then some (.remn (w.extractLsb' 21 5) (w.extractLsb' 16 5) (w.extractLsb' 11 5) w.guard)
  else none

/-- The fields of a word of major 0x02. -/
def decodeMajor02 (w : Word) : Option Instr :=
  some (.addi (w.extractLsb' 21 5) (w.extractLsb' 16 5) (w.extractLsb' 0 16))

/-- The fields of a word of major 0x03. -/
def decodeMajor03 (w : Word) : Option Instr :=
  some (.andi (w.extractLsb' 21 5) (w.extractLsb' 16 5) (w.extractLsb' 0 16))

/-- The fields of a word of major 0x04. -/
def decodeMajor04 (w : Word) : Option Instr :=
  some (.ori (w.extractLsb' 21 5) (w.extractLsb' 16 5) (w.extractLsb' 0 16))

/-- The fields of a word of major 0x05. -/
def decodeMajor05 (w : Word) : Option Instr :=
  some (.xori (w.extractLsb' 21 5) (w.extractLsb' 16 5) (w.extractLsb' 0 16))

/-- The fields of a word of major 0x06. -/
def decodeMajor06 (w : Word) : Option Instr :=
  if w.extractLsb' 8 8 = 0#8 ∧ w.extractLsb' 6 2 = 0#2 then some (.shli (w.extractLsb' 21 5) (w.extractLsb' 16 5) (w.extractLsb' 0 6))
  else if w.extractLsb' 8 8 = 0#8 ∧ w.extractLsb' 6 2 = 1#2 then some (.shri (w.extractLsb' 21 5) (w.extractLsb' 16 5) (w.extractLsb' 0 6))
  else if w.extractLsb' 8 8 = 0#8 ∧ w.extractLsb' 6 2 = 2#2 then some (.srai (w.extractLsb' 21 5) (w.extractLsb' 16 5) (w.extractLsb' 0 6))
  else if w.extractLsb' 8 8 = 0#8 ∧ w.extractLsb' 6 2 = 3#2 then some (.roli (w.extractLsb' 21 5) (w.extractLsb' 16 5) (w.extractLsb' 0 6))
  else none

/-- The fields of a word of major 0x07. -/
def decodeMajor07 (w : Word) : Option Instr :=
  some (.lui (w.extractLsb' 21 5) (w.extractLsb' 16 5) (w.extractLsb' 0 16))

/-- The fields of a word of major 0x08. -/
def decodeMajor08 (w : Word) : Option Instr :=
  if w.extractLsb' 12 4 = 0#4 then some (.lea (w.extractLsb' 21 5) (w.extractLsb' 16 5) (w.extractLsb' 10 2) (w.extractLsb' 0 10))
  else none

/-- The fields of a word of major 0x09. -/
def decodeMajor09 (w : Word) : Option Instr :=
  some (.addr2 (w.extractLsb' 21 5) (w.extractLsb' 16 5) (w.extractLsb' 11 5) w.guard (w.extractLsb' 2 5) (w.extractLsb' 0 2))

/-- The fields of a word of major 0x0A. -/
def decodeMajor0A (w : Word) : Option Instr :=
  if w.extractLsb' 24 2 = 0#2 ∧ w.extractLsb' 3 4 = 0#4 then some (.cmp (w.extractLsb' 21 3) (w.extractLsb' 16 5) (w.extractLsb' 11 5) w.guard (w.extractLsb' 0 3))
  else none

/-- The fields of a word of major 0x0B. -/
def decodeMajor0B (w : Word) : Option Instr :=
  some (.cmpi (w.extractLsb' 24 2) (w.extractLsb' 21 3) (w.extractLsb' 16 5) (w.extractLsb' 0 16))

/-- The fields of a word of major 0x0C. -/
def decodeMajor0C (w : Word) : Option Instr :=
  if w.extractLsb' 24 2 = 0#2 ∧ w.extractLsb' 19 2 = 0#2 ∧ w.extractLsb' 14 2 = 0#2 ∧ w.extractLsb' 0 7 = 0#7 then some (.pand (w.extractLsb' 21 3) (w.extractLsb' 16 3) (w.extractLsb' 11 3) w.guard)
  else if w.extractLsb' 24 2 = 0#2 ∧ w.extractLsb' 19 2 = 0#2 ∧ w.extractLsb' 14 2 = 0#2 ∧ w.extractLsb' 0 7 = 1#7 then some (.por (w.extractLsb' 21 3) (w.extractLsb' 16 3) (w.extractLsb' 11 3) w.guard)
  else if w.extractLsb' 24 2 = 0#2 ∧ w.extractLsb' 19 2 = 0#2 ∧ w.extractLsb' 14 2 = 0#2 ∧ w.extractLsb' 0 7 = 2#7 then some (.pxor (w.extractLsb' 21 3) (w.extractLsb' 16 3) (w.extractLsb' 11 3) w.guard)
  else if w.extractLsb' 24 2 = 0#2 ∧ w.extractLsb' 19 2 = 0#2 ∧ w.extractLsb' 14 2 = 0#2 ∧ w.extractLsb' 0 7 = 3#7 then some (.pandn (w.extractLsb' 21 3) (w.extractLsb' 16 3) (w.extractLsb' 11 3) w.guard)
  else if w.extractLsb' 24 2 = 0#2 ∧ w.extractLsb' 19 2 = 0#2 ∧ w.extractLsb' 14 2 = 0#2 ∧ w.extractLsb' 0 7 = 4#7 then some (.porn (w.extractLsb' 21 3) (w.extractLsb' 16 3) (w.extractLsb' 11 3) w.guard)
  else none

/-- The fields of a word of major 0x0D. -/
def decodeMajor0D (w : Word) : Option Instr :=
  if w.extractLsb' 4 3 = 0#3 then some (.sel (w.extractLsb' 21 5) (w.extractLsb' 16 5) (w.extractLsb' 11 5) w.guard (w.extractLsb' 3 1) (w.extractLsb' 0 3))
  else none

/-- The fields of a word of major 0x0E. -/
def decodeMajor0E (w : Word) : Option Instr :=
  if w.extractLsb' 16 5 = 0#5 ∧ w.extractLsb' 12 4 = 0#4 then some (.csrr (w.extractLsb' 21 5) (w.extractLsb' 0 12))
  else if w.extractLsb' 21 5 = 0#5 ∧ w.extractLsb' 12 4 = 4#4 then some (.csrw (w.extractLsb' 16 5) (w.extractLsb' 0 12))
  else if w.extractLsb' 12 4 = 8#4 then some (.csrrw (w.extractLsb' 21 5) (w.extractLsb' 16 5) (w.extractLsb' 0 12))
  else none

/-- The fields of a word of major 0x0F. -/
def decodeMajor0F (w : Word) : Option Instr :=
  if w.extractLsb' 11 5 = 0#5 ∧ w.extractLsb' 3 4 = 4#4 then some (.fsqrt (w.extractLsb' 21 5) (w.extractLsb' 16 5) w.guard (w.extractLsb' 0 3))
  else if w.extractLsb' 11 5 = 0#5 ∧ w.extractLsb' 3 4 = 8#4 then some (.fcvtfI64 (w.extractLsb' 21 5) (w.extractLsb' 16 5) w.guard (w.extractLsb' 0 3))
  else if w.extractLsb' 11 5 = 0#5 ∧ w.extractLsb' 3 4 = 9#4 then some (.fcvtfN64 (w.extractLsb' 21 5) (w.extractLsb' 16 5) w.guard (w.extractLsb' 0 3))
  else if w.extractLsb' 11 5 = 0#5 ∧ w.extractLsb' 3 4 = 10#4 then some (.fcvtiI64 (w.extractLsb' 21 5) (w.extractLsb' 16 5) w.guard (w.extractLsb' 0 3))
  else if w.extractLsb' 11 5 = 0#5 ∧ w.extractLsb' 3 4 = 11#4 then some (.fcvtiN64 (w.extractLsb' 21 5) (w.extractLsb' 16 5) w.guard (w.extractLsb' 0 3))
  else if w.extractLsb' 3 4 = 5#4 ∧ w.extractLsb' 0 3 = 0#3 then some (.fmin (w.extractLsb' 21 5) (w.extractLsb' 16 5) (w.extractLsb' 11 5) w.guard)
  else if w.extractLsb' 3 4 = 6#4 ∧ w.extractLsb' 0 3 = 0#3 then some (.fmax (w.extractLsb' 21 5) (w.extractLsb' 16 5) (w.extractLsb' 11 5) w.guard)
  else if w.extractLsb' 24 2 = 0#2 ∧ w.extractLsb' 3 4 = 12#4 then some (.fcmp (w.extractLsb' 21 3) (w.extractLsb' 16 5) (w.extractLsb' 11 5) w.guard (w.extractLsb' 0 3))
  else if w.extractLsb' 3 4 = 0#4 then some (.fadd (w.extractLsb' 21 5) (w.extractLsb' 16 5) (w.extractLsb' 11 5) w.guard (w.extractLsb' 0 3))
  else if w.extractLsb' 3 4 = 1#4 then some (.fsub (w.extractLsb' 21 5) (w.extractLsb' 16 5) (w.extractLsb' 11 5) w.guard (w.extractLsb' 0 3))
  else if w.extractLsb' 3 4 = 2#4 then some (.fmul (w.extractLsb' 21 5) (w.extractLsb' 16 5) (w.extractLsb' 11 5) w.guard (w.extractLsb' 0 3))
  else if w.extractLsb' 3 4 = 3#4 then some (.fdiv (w.extractLsb' 21 5) (w.extractLsb' 16 5) (w.extractLsb' 11 5) w.guard (w.extractLsb' 0 3))
  else if w.extractLsb' 3 4 = 7#4 then some (.fma (w.extractLsb' 21 5) (w.extractLsb' 16 5) (w.extractLsb' 11 5) w.guard (w.extractLsb' 0 3))
  else none

/-- The fields of a word of major 0x10. -/
def decodeMajor10 (w : Word) : Option Instr :=
  some (.br (w.extractLsb' 23 3) (w.extractLsb' 22 1) (w.extractLsb' 0 22))

/-- The fields of a word of major 0x11. -/
def decodeMajor11 (w : Word) : Option Instr :=
  some (.call (w.extractLsb' 23 3) (w.extractLsb' 22 1) (w.extractLsb' 0 22))

/-- The fields of a word of major 0x12. -/
def decodeMajor12 (w : Word) : Option Instr :=
  if w.extractLsb' 11 15 = 0#15 ∧ w.extractLsb' 0 7 = 2#7 then some (.ret w.guard)
  else if w.extractLsb' 21 5 = 0#5 ∧ w.extractLsb' 11 5 = 0#5 ∧ w.extractLsb' 0 7 = 0#7 then some (.jr (w.extractLsb' 16 5) w.guard)
  else if w.extractLsb' 11 5 = 0#5 ∧ w.extractLsb' 0 7 = 1#7 then some (.jalr (w.extractLsb' 21 5) (w.extractLsb' 16 5) w.guard)
  else none

/-- The fields of a word of major 0x13. -/
def decodeMajor13 (w : Word) : Option Instr :=
  some (.loop (w.extractLsb' 21 5) (w.extractLsb' 16 5) (w.extractLsb' 0 16))

/-- The fields of a word of major 0x18. -/
def decodeMajor18 (w : Word) : Option Instr :=
  some (.ldB (w.extractLsb' 21 5) (w.extractLsb' 16 5) (w.extractLsb' 12 4) (w.extractLsb' 10 2) (w.extractLsb' 0 10))

/-- The fields of a word of major 0x19. -/
def decodeMajor19 (w : Word) : Option Instr :=
  some (.ldH (w.extractLsb' 21 5) (w.extractLsb' 16 5) (w.extractLsb' 12 4) (w.extractLsb' 10 2) (w.extractLsb' 0 10))

/-- The fields of a word of major 0x1A. -/
def decodeMajor1A (w : Word) : Option Instr :=
  some (.ldW (w.extractLsb' 21 5) (w.extractLsb' 16 5) (w.extractLsb' 12 4) (w.extractLsb' 10 2) (w.extractLsb' 0 10))

/-- The fields of a word of major 0x1B. -/
def decodeMajor1B (w : Word) : Option Instr :=
  some (.ldD (w.extractLsb' 21 5) (w.extractLsb' 16 5) (w.extractLsb' 12 4) (w.extractLsb' 10 2) (w.extractLsb' 0 10))

/-- The fields of a word of major 0x1C. -/
def decodeMajor1C (w : Word) : Option Instr :=
  some (.stB (w.extractLsb' 21 5) (w.extractLsb' 16 5) (w.extractLsb' 12 4) (w.extractLsb' 10 2) (w.extractLsb' 0 10))

/-- The fields of a word of major 0x1D. -/
def decodeMajor1D (w : Word) : Option Instr :=
  some (.stH (w.extractLsb' 21 5) (w.extractLsb' 16 5) (w.extractLsb' 12 4) (w.extractLsb' 10 2) (w.extractLsb' 0 10))

/-- The fields of a word of major 0x1E. -/
def decodeMajor1E (w : Word) : Option Instr :=
  some (.stW (w.extractLsb' 21 5) (w.extractLsb' 16 5) (w.extractLsb' 12 4) (w.extractLsb' 10 2) (w.extractLsb' 0 10))

/-- The fields of a word of major 0x1F. -/
def decodeMajor1F (w : Word) : Option Instr :=
  some (.stD (w.extractLsb' 21 5) (w.extractLsb' 16 5) (w.extractLsb' 12 4) (w.extractLsb' 10 2) (w.extractLsb' 0 10))

/-- The fields of a word of major 0x20. -/
def decodeMajor20 (w : Word) : Option Instr :=
  if w.extractLsb' 21 5 = 0#5 ∧ w.extractLsb' 7 3 = 3#3 then some (.stwClear (w.extractLsb' 16 5) (w.extractLsb' 12 4) (w.extractLsb' 10 2) (w.extractLsb' 0 7))
  else if w.extractLsb' 7 3 = 0#3 then some (.ldwSync (w.extractLsb' 21 5) (w.extractLsb' 16 5) (w.extractLsb' 12 4) (w.extractLsb' 10 2) (w.extractLsb' 5 2) (w.extractLsb' 0 5))
  else if w.extractLsb' 7 3 = 1#3 then some (.ldwTake (w.extractLsb' 21 5) (w.extractLsb' 16 5) (w.extractLsb' 12 4) (w.extractLsb' 10 2) (w.extractLsb' 5 2) (w.extractLsb' 0 5))
  else if w.extractLsb' 7 3 = 2#3 then some (.stwFill (w.extractLsb' 21 5) (w.extractLsb' 16 5) (w.extractLsb' 12 4) (w.extractLsb' 10 2) (w.extractLsb' 5 2) (w.extractLsb' 0 5))
  else if w.extractLsb' 7 3 = 4#3 then some (.fes (w.extractLsb' 21 5) (w.extractLsb' 16 5) (w.extractLsb' 12 4) (w.extractLsb' 10 2) (w.extractLsb' 0 7))
  else none

/-- The fields of a word of major 0x21. -/
def decodeMajor21 (w : Word) : Option Instr :=
  some (.sts (w.extractLsb' 21 5) (w.extractLsb' 16 5) (w.extractLsb' 12 4) (w.extractLsb' 10 2) (w.extractLsb' 8 2) (w.extractLsb' 0 8))

/-- The fields of a word of major 0x22. -/
def decodeMajor22 (w : Word) : Option Instr :=
  some (.lda (w.extractLsb' 21 5) (w.extractLsb' 16 5) (w.extractLsb' 12 4) (w.extractLsb' 10 2) (w.extractLsb' 8 2) (w.extractLsb' 0 8))

/-- The fields of a word of major 0x23. -/
def decodeMajor23 (w : Word) : Option Instr :=
  if w.extractLsb' 6 4 = 10#4 ∧ w.extractLsb' 5 1 = 0#1 then some (.amoFadd (w.extractLsb' 21 5) (w.extractLsb' 16 5) (w.extractLsb' 12 4) (w.extractLsb' 10 2) (w.extractLsb' 0 5))
  else if w.extractLsb' 6 4 = 0#4 then some (.amoSwap (w.extractLsb' 21 5) (w.extractLsb' 16 5) (w.extractLsb' 12 4) (w.extractLsb' 10 2) (w.extractLsb' 5 1) (w.extractLsb' 0 5))
  else if w.extractLsb' 6 4 = 1#4 then some (.amoCas (w.extractLsb' 21 5) (w.extractLsb' 16 5) (w.extractLsb' 12 4) (w.extractLsb' 10 2) (w.extractLsb' 5 1) (w.extractLsb' 0 5))
  else if w.extractLsb' 6 4 = 2#4 then some (.amoAdd (w.extractLsb' 21 5) (w.extractLsb' 16 5) (w.extractLsb' 12 4) (w.extractLsb' 10 2) (w.extractLsb' 5 1) (w.extractLsb' 0 5))
  else if w.extractLsb' 6 4 = 3#4 then some (.amoAnd (w.extractLsb' 21 5) (w.extractLsb' 16 5) (w.extractLsb' 12 4) (w.extractLsb' 10 2) (w.extractLsb' 5 1) (w.extractLsb' 0 5))
  else if w.extractLsb' 6 4 = 4#4 then some (.amoOr (w.extractLsb' 21 5) (w.extractLsb' 16 5) (w.extractLsb' 12 4) (w.extractLsb' 10 2) (w.extractLsb' 5 1) (w.extractLsb' 0 5))
  else if w.extractLsb' 6 4 = 5#4 then some (.amoXor (w.extractLsb' 21 5) (w.extractLsb' 16 5) (w.extractLsb' 12 4) (w.extractLsb' 10 2) (w.extractLsb' 5 1) (w.extractLsb' 0 5))
  else if w.extractLsb' 6 4 = 6#4 then some (.amoMin (w.extractLsb' 21 5) (w.extractLsb' 16 5) (w.extractLsb' 12 4) (w.extractLsb' 10 2) (w.extractLsb' 5 1) (w.extractLsb' 0 5))
  else if w.extractLsb' 6 4 = 7#4 then some (.amoMax (w.extractLsb' 21 5) (w.extractLsb' 16 5) (w.extractLsb' 12 4) (w.extractLsb' 10 2) (w.extractLsb' 5 1) (w.extractLsb' 0 5))
  else if w.extractLsb' 6 4 = 8#4 then some (.amoMinn (w.extractLsb' 21 5) (w.extractLsb' 16 5) (w.extractLsb' 12 4) (w.extractLsb' 10 2) (w.extractLsb' 5 1) (w.extractLsb' 0 5))
  else if w.extractLsb' 6 4 = 9#4 then some (.amoMaxn (w.extractLsb' 21 5) (w.extractLsb' 16 5) (w.extractLsb' 12 4) (w.extractLsb' 10 2) (w.extractLsb' 5 1) (w.extractLsb' 0 5))
  else none

/-- The fields of a word of major 0x24. -/
def decodeMajor24 (w : Word) : Option Instr :=
  some (.invoke (w.extractLsb' 21 5) (w.extractLsb' 16 5) (w.extractLsb' 12 4) (w.extractLsb' 10 2) (w.extractLsb' 6 4) (w.extractLsb' 0 6))

/-- The fields of a word of major 0x26. -/
def decodeMajor26 (w : Word) : Option Instr :=
  if w.extractLsb' 20 6 = 0#6 ∧ w.extractLsb' 11 5 = 0#5 ∧ w.extractLsb' 0 7 = 1#7 then some (.twait (w.extractLsb' 16 4) w.guard)
  else if w.extractLsb' 25 1 = 0#1 ∧ w.extractLsb' 20 1 = 0#1 ∧ w.extractLsb' 15 1 = 0#1 ∧ w.extractLsb' 0 7 = 0#7 then some (.tjoin (w.extractLsb' 21 4) (w.extractLsb' 16 4) (w.extractLsb' 11 4) w.guard)
  else none

/-- The fields of a word of major 0x27. -/
def decodeMajor27 (w : Word) : Option Instr :=
  if w.extractLsb' 21 5 = 0#5 ∧ w.extractLsb' 8 2 = 1#2 then some (.fenceFlag (w.extractLsb' 16 5) (w.extractLsb' 12 4) (w.extractLsb' 10 2) (w.extractLsb' 0 8))
  else if w.extractLsb' 12 14 = 0#14 ∧ w.extractLsb' 0 10 = 0#10 then some (.fence (w.extractLsb' 10 2))
  else none

/-- The fields of a word of major 0x28. -/
def decodeMajor28 (w : Word) : Option Instr :=
  if w.extractLsb' 11 5 = 0#5 ∧ w.extractLsb' 0 7 = 0#7 then some (.waitany (w.extractLsb' 21 5) (w.extractLsb' 16 5) w.guard)
  else if w.extractLsb' 11 5 = 0#5 ∧ w.extractLsb' 0 7 = 1#7 then some (.waitall (w.extractLsb' 21 5) (w.extractLsb' 16 5) w.guard)
  else if w.extractLsb' 11 5 = 0#5 ∧ w.extractLsb' 0 7 = 2#7 then some (.ffr (w.extractLsb' 21 5) (w.extractLsb' 16 5) w.guard)
  else if w.extractLsb' 11 5 = 0#5 ∧ w.extractLsb' 0 7 = 3#7 then some (.ffrClr (w.extractLsb' 21 5) (w.extractLsb' 16 5) w.guard)
  else none

/-- The fields of a word of major 0x29. -/
def decodeMajor29 (w : Word) : Option Instr :=
  if w.extractLsb' 3 23 = 0#23 then some (.dsync (w.extractLsb' 0 3))
  else none

/-- The fields of a word of major 0x30. -/
def decodeMajor30 (w : Word) : Option Instr :=
  if w.extractLsb' 25 1 = 0#1 ∧ w.extractLsb' 21 1 = 0#1 ∧ w.extractLsb' 16 5 = 31#5 ∧ w.extractLsb' 0 16 = 0#16 then some (.unbind (w.extractLsb' 22 3))
  else if w.extractLsb' 25 1 = 0#1 ∧ w.extractLsb' 21 1 = 0#1 ∧ w.extractLsb' 0 4 = 0#4 then some (.bind (w.extractLsb' 22 3) (w.extractLsb' 16 5) (w.extractLsb' 11 5) (w.extractLsb' 10 1) (w.extractLsb' 4 6))
  else none

/-- The fields of a word of major 0x31. -/
def decodeMajor31 (w : Word) : Option Instr :=
  if w.extractLsb' 16 6 = 1#6 ∧ w.extractLsb' 0 16 = 0#16 then some (.tctlStop (w.extractLsb' 22 4))
  else if w.extractLsb' 16 6 = 2#6 ∧ w.extractLsb' 0 16 = 0#16 then some (.tctlResume (w.extractLsb' 22 4))
  else if w.extractLsb' 16 6 = 0#6 ∧ w.extractLsb' 3 13 = 0#13 then some (.tctlStart (w.extractLsb' 22 4) (w.extractLsb' 0 3))
  else if w.extractLsb' 25 1 = 0#1 ∧ w.extractLsb' 16 6 = 3#6 ∧ w.extractLsb' 0 11 = 0#11 then some (.tctlBase (w.extractLsb' 22 3) (w.extractLsb' 11 5))
  else if w.extractLsb' 16 6 = 4#6 ∧ w.extractLsb' 0 11 = 0#11 then some (.tctlStat (w.extractLsb' 22 4) (w.extractLsb' 11 5))
  else none

/-- The fields of a word of major 0x32. -/
def decodeMajor32 (w : Word) : Option Instr :=
  if w.extractLsb' 25 1 = 0#1 ∧ w.extractLsb' 16 6 = 0#6 ∧ w.extractLsb' 0 11 = 0#11 then some (.strm (w.extractLsb' 22 3) (w.extractLsb' 11 5))
  else if w.extractLsb' 25 1 = 0#1 ∧ w.extractLsb' 16 6 = 1#6 then some (.strmI (w.extractLsb' 22 3) (w.extractLsb' 0 16))
  else none

/-- The fields of a word of major 0x33. -/
def decodeMajor33 (w : Word) : Option Instr :=
  if w.extractLsb' 22 4 = 15#4 ∧ w.extractLsb' 16 6 = 62#6 ∧ w.extractLsb' 6 10 = 0#10 then some (.drainSlot (w.extractLsb' 0 6))
  else if w.extractLsb' 22 4 = 15#4 ∧ w.extractLsb' 6 10 = 0#10 then some (.drain (w.extractLsb' 16 6) (w.extractLsb' 0 6))
  else none

/-- The fields of a word of major 0x34. -/
def decodeMajor34 (w : Word) : Option Instr :=
  if w.extractLsb' 22 4 = 15#4 ∧ w.extractLsb' 16 6 = 0#6 ∧ w.extractLsb' 0 11 = 0#11 then some (.cfgLd (w.extractLsb' 11 5))
  else if w.extractLsb' 22 4 = 15#4 ∧ w.extractLsb' 16 6 = 1#6 ∧ w.extractLsb' 0 11 = 0#11 then some (.cfgStage (w.extractLsb' 11 5))
  else if w.extractLsb' 22 4 = 15#4 ∧ w.extractLsb' 16 6 = 2#6 ∧ w.extractLsb' 6 10 = 0#10 then some (.cfgSw (w.extractLsb' 0 6))
  else none

/-- The fields of a word of major 0x35. -/
def decodeMajor35 (w : Word) : Option Instr :=
  if w.extractLsb' 22 4 = 13#4 ∧ w.extractLsb' 16 6 = 0#6 ∧ w.extractLsb' 3 8 = 0#8 then some (.lqStat (w.extractLsb' 11 5) (w.extractLsb' 0 3))
  else none

/-- The fields of a word of major 0x36. -/
def decodeMajor36 (w : Word) : Option Instr :=
  if w.extractLsb' 22 4 = 15#4 ∧ w.extractLsb' 16 6 = 1#6 ∧ w.extractLsb' 0 16 = 0#16 then some (.exit)
  else if w.extractLsb' 22 4 = 15#4 ∧ w.extractLsb' 16 6 = 2#6 ∧ w.extractLsb' 0 16 = 0#16 then some (.yield)
  else if w.extractLsb' 22 4 = 15#4 ∧ w.extractLsb' 16 6 = 0#6 ∧ w.extractLsb' 0 11 = 0#11 then some (.launch (w.extractLsb' 11 5))
  else none

/-- The fields of a word of major 0x38. -/
def decodeMajor38 (w : Word) : Option Instr :=
  if w.extractLsb' 22 4 = 12#4 ∧ w.extractLsb' 20 2 = 0#2 then some (.marm (w.extractLsb' 19 1) (w.extractLsb' 16 3) (w.extractLsb' 10 6) (w.extractLsb' 0 10))
  else none

/-- The fields of a word of major 0x39. -/
def decodeMajor39 (w : Word) : Option Instr :=
  if w.extractLsb' 22 4 = 12#4 ∧ w.extractLsb' 16 6 = 0#6 ∧ w.extractLsb' 4 12 = 0#12 then some (.mfence (w.extractLsb' 0 4))
  else none

/-- The fields of a word of major 0x3A. -/
def decodeMajor3A (w : Word) : Option Instr :=
  if w.extractLsb' 22 4 = 12#4 ∧ w.extractLsb' 16 6 = 0#6 ∧ w.extractLsb' 4 12 = 0#12 then some (.accClr (w.extractLsb' 0 4))
  else if w.extractLsb' 22 4 = 12#4 ∧ w.extractLsb' 16 6 = 1#6 ∧ w.extractLsb' 4 12 = 0#12 then some (.accHold (w.extractLsb' 0 4))
  else if w.extractLsb' 22 4 = 12#4 ∧ w.extractLsb' 16 6 = 2#6 ∧ w.extractLsb' 0 11 = 0#11 then some (.accStat (w.extractLsb' 11 5))
  else if w.extractLsb' 22 4 = 12#4 ∧ w.extractLsb' 16 6 = 3#6 ∧ w.extractLsb' 2 9 = 0#9 then some (.accRd (w.extractLsb' 11 5) (w.extractLsb' 0 2))
  else none

/-- The fields of a word of major 0x3C. -/
def decodeMajor3C (w : Word) : Option Instr :=
  if w.extractLsb' 22 4 = 15#4 ∧ w.extractLsb' 16 6 = 2#6 ∧ w.extractLsb' 0 16 = 0#16 then some (.halt)
  else if w.extractLsb' 22 4 = 15#4 ∧ w.extractLsb' 16 6 = 3#6 ∧ w.extractLsb' 0 16 = 0#16 then some (.wfi)
  else if w.extractLsb' 22 4 = 15#4 ∧ w.extractLsb' 16 6 = 32#6 ∧ w.extractLsb' 0 16 = 0#16 then some (.eretResume)
  else if w.extractLsb' 22 4 = 15#4 ∧ w.extractLsb' 16 6 = 4#6 ∧ w.extractLsb' 0 11 = 0#11 then some (.boost (w.extractLsb' 11 5))
  else if w.extractLsb' 22 4 = 15#4 ∧ w.extractLsb' 16 6 = 6#6 ∧ w.extractLsb' 0 11 = 0#11 then some (.energy (w.extractLsb' 11 5))
  else if w.extractLsb' 22 4 = 15#4 ∧ w.extractLsb' 16 6 = 5#6 ∧ w.extractLsb' 7 4 = 0#4 then some (.saveset (w.extractLsb' 11 5) (w.extractLsb' 0 7))
  else if w.extractLsb' 22 4 = 15#4 ∧ w.extractLsb' 16 6 = 0#6 then some (.trap (w.extractLsb' 0 16))
  else if w.extractLsb' 22 4 = 15#4 ∧ w.extractLsb' 16 6 = 1#6 then some (.brk (w.extractLsb' 0 16))
  else if w.extractLsb' 22 4 = 15#4 ∧ w.extractLsb' 16 6 = 33#6 then some (.pcsrr (w.extractLsb' 11 5) (w.extractLsb' 0 11))
  else if w.extractLsb' 22 4 = 15#4 ∧ w.extractLsb' 16 6 = 34#6 then some (.pcsrw (w.extractLsb' 11 5) (w.extractLsb' 0 11))
  else none

/-- The instruction that one word not of format X holds, before the field checks of wf. -/
def decodeRaw (w : Word) : Option Instr :=
  let m := w.major
  if m = 1#6 then decodeMajor01 w
  else if m = 2#6 then decodeMajor02 w
  else if m = 3#6 then decodeMajor03 w
  else if m = 4#6 then decodeMajor04 w
  else if m = 5#6 then decodeMajor05 w
  else if m = 6#6 then decodeMajor06 w
  else if m = 7#6 then decodeMajor07 w
  else if m = 8#6 then decodeMajor08 w
  else if m = 9#6 then decodeMajor09 w
  else if m = 10#6 then decodeMajor0A w
  else if m = 11#6 then decodeMajor0B w
  else if m = 12#6 then decodeMajor0C w
  else if m = 13#6 then decodeMajor0D w
  else if m = 14#6 then decodeMajor0E w
  else if m = 15#6 then decodeMajor0F w
  else if m = 16#6 then decodeMajor10 w
  else if m = 17#6 then decodeMajor11 w
  else if m = 18#6 then decodeMajor12 w
  else if m = 19#6 then decodeMajor13 w
  else if m = 24#6 then decodeMajor18 w
  else if m = 25#6 then decodeMajor19 w
  else if m = 26#6 then decodeMajor1A w
  else if m = 27#6 then decodeMajor1B w
  else if m = 28#6 then decodeMajor1C w
  else if m = 29#6 then decodeMajor1D w
  else if m = 30#6 then decodeMajor1E w
  else if m = 31#6 then decodeMajor1F w
  else if m = 32#6 then decodeMajor20 w
  else if m = 33#6 then decodeMajor21 w
  else if m = 34#6 then decodeMajor22 w
  else if m = 35#6 then decodeMajor23 w
  else if m = 36#6 then decodeMajor24 w
  else if m = 38#6 then decodeMajor26 w
  else if m = 39#6 then decodeMajor27 w
  else if m = 40#6 then decodeMajor28 w
  else if m = 41#6 then decodeMajor29 w
  else if m = 48#6 then decodeMajor30 w
  else if m = 49#6 then decodeMajor31 w
  else if m = 50#6 then decodeMajor32 w
  else if m = 51#6 then decodeMajor33 w
  else if m = 52#6 then decodeMajor34 w
  else if m = 53#6 then decodeMajor35 w
  else if m = 54#6 then decodeMajor36 w
  else if m = 56#6 then decodeMajor38 w
  else if m = 57#6 then decodeMajor39 w
  else if m = 58#6 then decodeMajor3A w
  else if m = 60#6 then decodeMajor3C w
  else none

/-- The operand of a LIM: the following word, when it is I-format, well formed and agrees with the high bits. -/
def decodeLimOp (hi : BitVec 26) : List Word → Option IOp
  | [] => none
  | w :: _ =>
    match decodeIOp w with
    | some op => if op.limOk hi then some op else none
    | none => none

/-- The instruction at the head of a list of words (R148, R151). A LIM takes the word after it. -/
def decode : List Word → Option Instr
  | [] => none
  | w :: r =>
    if w.major = 63#6 then some (.lim (w.extractLsb' 0 26) (decodeLimOp (w.extractLsb' 0 26) r))
    else
      match decodeRaw w with
      | some i => if i.wf then some i else none
      | none => none

/-- Little-endian bytes as words (R1, R145); a partial last word is dropped. -/
def wordsOfBytes : List Byte → List Word
  | b0 :: b1 :: b2 :: b3 :: r => (b3 ++ b2 ++ b1 ++ b0) :: wordsOfBytes r
  | _ => []

/-- The decoder on bytes, total on any list of them. -/
def decodeBytes (bs : List Byte) : Option Instr := decode (wordsOfBytes bs)

/-- The bytes of a word, lowest address first (R1). -/
def bytesOfWord (w : Word) : List Byte :=
  [w.extractLsb' 0 8, w.extractLsb' 8 8, w.extractLsb' 16 8, w.extractLsb' 24 8]

/-- The instruction that the decoder reads where the opcode table's bits are `w`: the first word is bits 31..0, the
second is bits 63..32, and every bit from `nbits` up is 0. -/
def decodeTableWord (nbits w : Nat) : Option Instr :=
  let v := w % 2 ^ nbits
  decodeBytes (bytesOfWord (BitVec.ofNat 32 v) ++ bytesOfWord (BitVec.ofNat 32 (v / 2 ^ 32)))

/-- The words of an instruction; an event has none. The three ERET forms share one word (R198, R314). -/
def encode : Instr → List Word
  | .add d a b g => [1#6 ++ d ++ a ++ b ++ g.p ++ g.neg ++ 0#7]
  | .sub d a b g => [1#6 ++ d ++ a ++ b ++ g.p ++ g.neg ++ 1#7]
  | .and d a b g => [1#6 ++ d ++ a ++ b ++ g.p ++ g.neg ++ 2#7]
  | .or d a b g => [1#6 ++ d ++ a ++ b ++ g.p ++ g.neg ++ 3#7]
  | .xor d a b g => [1#6 ++ d ++ a ++ b ++ g.p ++ g.neg ++ 4#7]
  | .andn d a b g => [1#6 ++ d ++ a ++ b ++ g.p ++ g.neg ++ 5#7]
  | .shl d a b g => [1#6 ++ d ++ a ++ b ++ g.p ++ g.neg ++ 6#7]
  | .shr d a b g => [1#6 ++ d ++ a ++ b ++ g.p ++ g.neg ++ 7#7]
  | .sra d a b g => [1#6 ++ d ++ a ++ b ++ g.p ++ g.neg ++ 8#7]
  | .rol d a b g => [1#6 ++ d ++ a ++ b ++ g.p ++ g.neg ++ 9#7]
  | .min d a b g => [1#6 ++ d ++ a ++ b ++ g.p ++ g.neg ++ 10#7]
  | .max d a b g => [1#6 ++ d ++ a ++ b ++ g.p ++ g.neg ++ 11#7]
  | .minn d a b g => [1#6 ++ d ++ a ++ b ++ g.p ++ g.neg ++ 12#7]
  | .maxn d a b g => [1#6 ++ d ++ a ++ b ++ g.p ++ g.neg ++ 13#7]
  | .slt d a b g => [1#6 ++ d ++ a ++ b ++ g.p ++ g.neg ++ 14#7]
  | .sltn d a b g => [1#6 ++ d ++ a ++ b ++ g.p ++ g.neg ++ 15#7]
  | .seq d a b g => [1#6 ++ d ++ a ++ b ++ g.p ++ g.neg ++ 16#7]
  | .clz d a g => [1#6 ++ d ++ a ++ 0#5 ++ g.p ++ g.neg ++ 17#7]
  | .ctz d a g => [1#6 ++ d ++ a ++ 0#5 ++ g.p ++ g.neg ++ 18#7]
  | .popc d a g => [1#6 ++ d ++ a ++ 0#5 ++ g.p ++ g.neg ++ 19#7]
  | .bswap d a g => [1#6 ++ d ++ a ++ 0#5 ++ g.p ++ g.neg ++ 20#7]
  | .sextI8 d a g => [1#6 ++ d ++ a ++ 0#5 ++ g.p ++ g.neg ++ 21#7]
  | .sextI16 d a g => [1#6 ++ d ++ a ++ 0#5 ++ g.p ++ g.neg ++ 22#7]
  | .sextI32 d a g => [1#6 ++ d ++ a ++ 0#5 ++ g.p ++ g.neg ++ 23#7]
  | .zextN8 d a g => [1#6 ++ d ++ a ++ 0#5 ++ g.p ++ g.neg ++ 24#7]
  | .zextN16 d a g => [1#6 ++ d ++ a ++ 0#5 ++ g.p ++ g.neg ++ 25#7]
  | .zextN32 d a g => [1#6 ++ d ++ a ++ 0#5 ++ g.p ++ g.neg ++ 26#7]
  | .mul d a b g => [1#6 ++ d ++ a ++ b ++ g.p ++ g.neg ++ 32#7]
  | .mulh d a b g => [1#6 ++ d ++ a ++ b ++ g.p ++ g.neg ++ 33#7]
  | .mulhn d a b g => [1#6 ++ d ++ a ++ b ++ g.p ++ g.neg ++ 34#7]
  | .div d a b g => [1#6 ++ d ++ a ++ b ++ g.p ++ g.neg ++ 36#7]
  | .divn d a b g => [1#6 ++ d ++ a ++ b ++ g.p ++ g.neg ++ 37#7]
  | .rem d a b g => [1#6 ++ d ++ a ++ b ++ g.p ++ g.neg ++ 38#7]
  | .remn d a b g => [1#6 ++ d ++ a ++ b ++ g.p ++ g.neg ++ 39#7]
  | .addi d a imm => [2#6 ++ d ++ a ++ imm]
  | .andi d a imm => [3#6 ++ d ++ a ++ imm]
  | .ori d a imm => [4#6 ++ d ++ a ++ imm]
  | .xori d a imm => [5#6 ++ d ++ a ++ imm]
  | .shli d a n => [6#6 ++ d ++ a ++ 0#8 ++ 0#2 ++ n]
  | .shri d a n => [6#6 ++ d ++ a ++ 0#8 ++ 1#2 ++ n]
  | .srai d a n => [6#6 ++ d ++ a ++ 0#8 ++ 2#2 ++ n]
  | .roli d a n => [6#6 ++ d ++ a ++ 0#8 ++ 3#2 ++ n]
  | .lui d a imm => [7#6 ++ d ++ a ++ imm]
  | .lim hi (some op) => [63#6 ++ hi, encodeIOp op]
  | .lim hi none => [63#6 ++ hi]
  | .lea d a z off => [8#6 ++ d ++ a ++ 0#4 ++ z ++ off]
  | .addr2 d a b g ps z => [9#6 ++ d ++ a ++ b ++ g.p ++ g.neg ++ ps ++ z]
  | .cmp p a b g cc => [10#6 ++ 0#2 ++ p ++ a ++ b ++ g.p ++ g.neg ++ 0#4 ++ cc]
  | .cmpi cc p a imm => [11#6 ++ cc ++ p ++ a ++ imm]
  | .pand pd pa pb g => [12#6 ++ 0#2 ++ pd ++ 0#2 ++ pa ++ 0#2 ++ pb ++ g.p ++ g.neg ++ 0#7]
  | .por pd pa pb g => [12#6 ++ 0#2 ++ pd ++ 0#2 ++ pa ++ 0#2 ++ pb ++ g.p ++ g.neg ++ 1#7]
  | .pxor pd pa pb g => [12#6 ++ 0#2 ++ pd ++ 0#2 ++ pa ++ 0#2 ++ pb ++ g.p ++ g.neg ++ 2#7]
  | .pandn pd pa pb g => [12#6 ++ 0#2 ++ pd ++ 0#2 ++ pa ++ 0#2 ++ pb ++ g.p ++ g.neg ++ 3#7]
  | .porn pd pa pb g => [12#6 ++ 0#2 ++ pd ++ 0#2 ++ pa ++ 0#2 ++ pb ++ g.p ++ g.neg ++ 4#7]
  | .sel d a b g neg pc => [13#6 ++ d ++ a ++ b ++ g.p ++ g.neg ++ 0#3 ++ neg ++ pc]
  | .csrr d n => [14#6 ++ d ++ 0#5 ++ 0#4 ++ n]
  | .csrw a n => [14#6 ++ 0#5 ++ a ++ 4#4 ++ n]
  | .csrrw d a n => [14#6 ++ d ++ a ++ 8#4 ++ n]
  | .tagsWrite _ => []
  | .flagsWrite _ => []
  | .userCsrWrite _ _ => []
  | .fadd d a b g rm => [15#6 ++ d ++ a ++ b ++ g.p ++ g.neg ++ 0#4 ++ rm]
  | .fsub d a b g rm => [15#6 ++ d ++ a ++ b ++ g.p ++ g.neg ++ 1#4 ++ rm]
  | .fmul d a b g rm => [15#6 ++ d ++ a ++ b ++ g.p ++ g.neg ++ 2#4 ++ rm]
  | .fdiv d a b g rm => [15#6 ++ d ++ a ++ b ++ g.p ++ g.neg ++ 3#4 ++ rm]
  | .fsqrt d a g rm => [15#6 ++ d ++ a ++ 0#5 ++ g.p ++ g.neg ++ 4#4 ++ rm]
  | .fmin d a b g => [15#6 ++ d ++ a ++ b ++ g.p ++ g.neg ++ 5#4 ++ 0#3]
  | .fmax d a b g => [15#6 ++ d ++ a ++ b ++ g.p ++ g.neg ++ 6#4 ++ 0#3]
  | .fma d a b g rm => [15#6 ++ d ++ a ++ b ++ g.p ++ g.neg ++ 7#4 ++ rm]
  | .fcvtfI64 d a g rm => [15#6 ++ d ++ a ++ 0#5 ++ g.p ++ g.neg ++ 8#4 ++ rm]
  | .fcvtfN64 d a g rm => [15#6 ++ d ++ a ++ 0#5 ++ g.p ++ g.neg ++ 9#4 ++ rm]
  | .fcvtiI64 d a g rm => [15#6 ++ d ++ a ++ 0#5 ++ g.p ++ g.neg ++ 10#4 ++ rm]
  | .fcvtiN64 d a g rm => [15#6 ++ d ++ a ++ 0#5 ++ g.p ++ g.neg ++ 11#4 ++ rm]
  | .fcmp p a b g cc => [15#6 ++ 0#2 ++ p ++ a ++ b ++ g.p ++ g.neg ++ 12#4 ++ cc]
  | .br p neg off => [16#6 ++ p ++ neg ++ off]
  | .call p neg off => [17#6 ++ p ++ neg ++ off]
  | .jr a g => [18#6 ++ 0#5 ++ a ++ 0#5 ++ g.p ++ g.neg ++ 0#7]
  | .jalr d a g => [18#6 ++ d ++ a ++ 0#5 ++ g.p ++ g.neg ++ 1#7]
  | .ret g => [18#6 ++ 0#15 ++ g.p ++ g.neg ++ 2#7]
  | .loop d a imm => [19#6 ++ d ++ a ++ imm]
  | .trap code => [60#6 ++ 15#4 ++ 0#6 ++ code]
  | .brk code => [60#6 ++ 15#4 ++ 1#6 ++ code]
  | .halt => [60#6 ++ 15#4 ++ 2#6 ++ 0#16]
  | .wfi => [60#6 ++ 15#4 ++ 3#6 ++ 0#16]
  | .boost r => [60#6 ++ 15#4 ++ 4#6 ++ r ++ 0#11]
  | .saveset r n => [60#6 ++ 15#4 ++ 5#6 ++ r ++ 0#4 ++ n]
  | .energy r => [60#6 ++ 15#4 ++ 6#6 ++ r ++ 0#11]
  | .eretResume => [60#6 ++ 15#4 ++ 32#6 ++ 0#16]
  | .eretKill => [60#6 ++ 15#4 ++ 32#6 ++ 0#16]
  | .eretWake => [60#6 ++ 15#4 ++ 32#6 ++ 0#16]
  | .pcsrr r n => [60#6 ++ 15#4 ++ 33#6 ++ r ++ n]
  | .pcsrw r n => [60#6 ++ 15#4 ++ 34#6 ++ r ++ n]
  | .tnextRead _ => []
  | .tselWrite _ => []
  | .ptRootWrite _ => []
  | .fpoolWrite _ => []
  | .sdlLoadWrite _ => []
  | .sdlLoadApply _ => []
  | .privCsrWrite _ _ => []
  | .ldB d a k sc off => [24#6 ++ d ++ a ++ k ++ sc ++ off]
  | .ldH d a k sc off => [25#6 ++ d ++ a ++ k ++ sc ++ off]
  | .ldW d a k sc off => [26#6 ++ d ++ a ++ k ++ sc ++ off]
  | .ldD d a k sc off => [27#6 ++ d ++ a ++ k ++ sc ++ off]
  | .stB d a k sc off => [28#6 ++ d ++ a ++ k ++ sc ++ off]
  | .stH d a k sc off => [29#6 ++ d ++ a ++ k ++ sc ++ off]
  | .stW d a k sc off => [30#6 ++ d ++ a ++ k ++ sc ++ off]
  | .stD d a k sc off => [31#6 ++ d ++ a ++ k ++ sc ++ off]
  | .sts d a k sc z off => [33#6 ++ d ++ a ++ k ++ sc ++ z ++ off]
  | .lda d a k sc z off => [34#6 ++ d ++ a ++ k ++ sc ++ z ++ off]
  | .ldwSync d a k sc z off => [32#6 ++ d ++ a ++ k ++ sc ++ 0#3 ++ z ++ off]
  | .ldwTake d a k sc z off => [32#6 ++ d ++ a ++ k ++ sc ++ 1#3 ++ z ++ off]
  | .stwFill d a k sc z off => [32#6 ++ d ++ a ++ k ++ sc ++ 2#3 ++ z ++ off]
  | .stwClear a k sc off => [32#6 ++ 0#5 ++ a ++ k ++ sc ++ 3#3 ++ off]
  | .fes d a k sc off => [32#6 ++ d ++ a ++ k ++ sc ++ 4#3 ++ off]
  | .parkedAccessServe _ => []
  | .parkedAccessRetry _ => []
  | .amoSwap d a k sc sz off => [35#6 ++ d ++ a ++ k ++ sc ++ 0#4 ++ sz ++ off]
  | .amoCas d a k sc sz off => [35#6 ++ d ++ a ++ k ++ sc ++ 1#4 ++ sz ++ off]
  | .amoAdd d a k sc sz off => [35#6 ++ d ++ a ++ k ++ sc ++ 2#4 ++ sz ++ off]
  | .amoAnd d a k sc sz off => [35#6 ++ d ++ a ++ k ++ sc ++ 3#4 ++ sz ++ off]
  | .amoOr d a k sc sz off => [35#6 ++ d ++ a ++ k ++ sc ++ 4#4 ++ sz ++ off]
  | .amoXor d a k sc sz off => [35#6 ++ d ++ a ++ k ++ sc ++ 5#4 ++ sz ++ off]
  | .amoMin d a k sc sz off => [35#6 ++ d ++ a ++ k ++ sc ++ 6#4 ++ sz ++ off]
  | .amoMax d a k sc sz off => [35#6 ++ d ++ a ++ k ++ sc ++ 7#4 ++ sz ++ off]
  | .amoMinn d a k sc sz off => [35#6 ++ d ++ a ++ k ++ sc ++ 8#4 ++ sz ++ off]
  | .amoMaxn d a k sc sz off => [35#6 ++ d ++ a ++ k ++ sc ++ 9#4 ++ sz ++ off]
  | .amoFadd d a k sc off => [35#6 ++ d ++ a ++ k ++ sc ++ 10#4 ++ 0#1 ++ off]
  | .invoke d a k sc e t => [36#6 ++ d ++ a ++ k ++ sc ++ e ++ t]
  | .saddleRun => []
  | .invocationResult => []
  | .tjoin kd ka kb g => [38#6 ++ 0#1 ++ kd ++ 0#1 ++ ka ++ 0#1 ++ kb ++ g.p ++ g.neg ++ 0#7]
  | .twait ka g => [38#6 ++ 0#6 ++ ka ++ 0#5 ++ g.p ++ g.neg ++ 1#7]
  | .fence sc => [39#6 ++ 0#14 ++ sc ++ 0#10]
  | .fenceFlag a k sc off => [39#6 ++ 0#5 ++ a ++ k ++ sc ++ 1#2 ++ off]
  | .waitany d a g => [40#6 ++ d ++ a ++ 0#5 ++ g.p ++ g.neg ++ 0#7]
  | .waitall d a g => [40#6 ++ d ++ a ++ 0#5 ++ g.p ++ g.neg ++ 1#7]
  | .ffr d a g => [40#6 ++ d ++ a ++ 0#5 ++ g.p ++ g.neg ++ 2#7]
  | .ffrClr d a g => [40#6 ++ d ++ a ++ 0#5 ++ g.p ++ g.neg ++ 3#7]
  | .dsync l => [41#6 ++ 0#23 ++ l]
  | .bind ag port prog tv t => [48#6 ++ 0#1 ++ ag ++ 0#1 ++ port ++ prog ++ tv ++ t ++ 0#4]
  | .unbind ag => [48#6 ++ 0#1 ++ ag ++ 0#1 ++ 31#5 ++ 0#16]
  | .tctlStart e i => [49#6 ++ e ++ 0#6 ++ 0#13 ++ i]
  | .tctlStop e => [49#6 ++ e ++ 1#6 ++ 0#16]
  | .tctlResume e => [49#6 ++ e ++ 2#6 ++ 0#16]
  | .tctlBase ag r => [49#6 ++ 0#1 ++ ag ++ 3#6 ++ r ++ 0#11]
  | .tctlStat e r => [49#6 ++ e ++ 4#6 ++ r ++ 0#11]
  | .strm ag r => [50#6 ++ 0#1 ++ ag ++ 0#6 ++ r ++ 0#11]
  | .strmI ag n => [50#6 ++ 0#1 ++ ag ++ 1#6 ++ n]
  | .drain port t => [51#6 ++ 15#4 ++ port ++ 0#10 ++ t]
  | .drainSlot t => [51#6 ++ 15#4 ++ 62#6 ++ 0#10 ++ t]
  | .drainMarker _ _ => []
  | .cfgLd r => [52#6 ++ 15#4 ++ 0#6 ++ r ++ 0#11]
  | .cfgStage r => [52#6 ++ 15#4 ++ 1#6 ++ r ++ 0#11]
  | .cfgSw t => [52#6 ++ 15#4 ++ 2#6 ++ 0#10 ++ t]
  | .eocSwitch _ _ => []
  | .lqStat r q => [53#6 ++ 13#4 ++ 0#6 ++ r ++ 0#8 ++ q]
  | .launch r => [54#6 ++ 15#4 ++ 0#6 ++ r ++ 0#11]
  | .exit => [54#6 ++ 15#4 ++ 1#6 ++ 0#16]
  | .yield => [54#6 ++ 15#4 ++ 2#6 ++ 0#16]
  | .marm v i t n => [56#6 ++ 12#4 ++ 0#2 ++ v ++ i ++ t ++ n]
  | .mfence m => [57#6 ++ 12#4 ++ 0#6 ++ 0#12 ++ m]
  | .accClr m => [58#6 ++ 12#4 ++ 0#6 ++ 0#12 ++ m]
  | .accHold m => [58#6 ++ 12#4 ++ 1#6 ++ 0#12 ++ m]
  | .accStat r => [58#6 ++ 12#4 ++ 2#6 ++ r ++ 0#11]
  | .accRd r n => [58#6 ++ 12#4 ++ 3#6 ++ r ++ 0#9 ++ n]
  | .streamAccess _ _ => []
  | .combiningBufferSend _ _ => []
  | .tableWalk _ _ _ => []
  | .invalidation _ => []
  | .tokenAccept _ _ => []
  | .laneFire _ _ => []
  | .laneEos _ _ => []
  | .groupFire _ _ => []
  | .switchBoxFire _ _ => []
  | .arcEosPadding _ _ => []
  | .latchEosPadding _ _ => []
  | .gatherRead _ => []
  | .mmaFire _ _ => []
  | .mltFire _ _ => []
  | .mstFire _ _ => []
  | .armingEnd _ _ => []
  | .arrayEos _ _ => []
  | .sinkEos _ _ => []
  | .egressGroupSend _ _ => []
  | .egressEos _ _ => []
  | .integrityCheck _ _ _ => []
  | .groupReplay _ _ => []
  | .ingressEos _ _ => []
  | .oiAdvance _ _ => []
  | .flitReceive _ _ _ _ => []
  | .laneGroupRetrain _ _ _ => []
  | .portDown _ _ => []
  | .bindingRelocate _ _ _ => []
  | .loadRequest => []
  | .loadReply => []
  | .atomicRequest => []
  | .atomicReply => []
  | .invocation => []
  | .storeAcknowledgement => []
  | .pooledReadRequest => []
  | .pooledDataFlit => []
  | .schedulerMessage => []
  | .hostStore _ _ _ => []
  | .hostRead _ _ _ => []
  | .hostSyncRead _ _ _ => []
  | .launchInvocation _ _ _ _ => []
  | .launchEnqueue _ => []
  | .schedulerRound _ _ => []
  | .bidBlocking _ _ => []
  | .reservation _ _ => []
  | .graphStart _ => []
  | .configAck _ _ => []
  | .graphCompletion _ => []
  | .kill _ => []
  | .preemption _ => []
  | .gateRequest _ _ => []
  | .gate _ => []
  | .restore _ => []
  | .imageUpdate => []
  | .policyRecordWrite _ _ _ _ _ => []
  | .powerRecordWrite _ _ _ => []
  | .energyWeightWrite _ _ _ => []
  | .controlSpaceWrite _ _ _ => []
  | .partitionChange _ _ => []
  | .powerInterval _ _ => []
  | .leaseEnd _ => []
  | .hbmTempRead _ _ _ => []
  | .wearUpdate _ _ => []
  | .powerFail _ => []
  | .reserveExhausted _ => []
  | .supplyReturn _ => []
  | .powerOnReset _ => []
  | .coldReset _ => []
  | .warmReset _ => []
  | .tackWatchdog _ => []
  | .linkTraining _ _ _ _ => []
  | .attestationRequest _ => []
  | .staticShare _ => []
  | .accessReply _ => []
  | .linkFailure _ _ => []
  | .gateRequestWithdrawal _ => []

end Sys2Proof
end

