-- ==== Sys2Proof/Machine/Agenda.lean ====
section
/-!
DEFINITION. The events that a step tries in turn with the threads when no turn is laid down. An event that is
not enabled leaves the state as it is, so the list may name more than can happen; an event that depends on the outside
world (a kill, a reset, a host access, a bad flit) is never on it.
-/

namespace Sys2Proof.Machine

/-- Events of a thread: its replies and its retries. -/
def threadEvents (key : Nat) (t : Thread) : List Instr :=
  [.accessReply key, .parkedAccessRetry key] ++ if t.priv.sdlWords = [] then [] else [.sdlLoadApply key]

/-- Events of the four arcs of a slot. -/
def arcEvents (key : Nat) (a : Arc) : List Instr :=
  [.tokenAccept key (.ein a), .tokenAccept key (.sinkArc a), .arcEosPadding key a]

/-- Events of a link-queue endpoint. -/
def queueEvents (key : Nat) (q : BitVec 3) : List Instr :=
  [.tokenAccept key (.egress q), .tokenAccept key (.ingressSink q), .egressGroupSend key q, .egressEos key q,
    .integrityCheck key q true, .groupReplay key q, .ingressEos key q]

/-- Events of an armed order. -/
def armEvents (key : Nat) (i : BitVec 3) : List Instr := [.mmaFire key i, .mltFire key i, .mstFire key i, .armingEnd key i]

/-- Events of a slot's engines, for what its configuration and its bindings name. -/
def slotEvents (key : Nat) (x : Slot) : List Instr :=
  (((List.range 8).filter fun a => (x.ag a).bound).map fun a => .streamAccess key (BitVec.ofNat 3 a)) ++
  (x.scoreboard.map fun c => .drainMarker key (BitVec.ofNat 5 c.1)) ++
  (x.ports.map fun c => .sinkEos key (BitVec.ofNat 5 c.1)) ++
  [.west, .north, .south, .east].flatMap (arcEvents key) ++
  [.tokenAccept key (.latch false), .tokenAccept key (.latch true), .latchEosPadding key false,
    .latchEosPadding key true, .tokenAccept key .gather, .gatherRead key] ++
  (x.queues.flatMap fun c => queueEvents key (BitVec.ofNat 3 c.1)) ++
  (((List.range 256).filter fun l => (x.laneAt l).isSome).flatMap fun l =>
    [.laneFire key (BitVec.ofNat 8 l), .laneEos key (BitVec.ofNat 8 l)]) ++
  (((List.range 8).filter fun g => (x.groupAt g).isSome).map fun g => .groupFire key (BitVec.ofNat 3 g)) ++
  (((List.range 264).filter fun n => (x.boxOf n).isSome).map fun n => .switchBoxFire key n) ++
  (x.arms.flatMap fun a => armEvents key a.idx) ++
  (x.tableOutputs.map fun o => .arrayEos key (BitVec.ofNat 4 o)) ++
  (x.eocLeft.map fun n => .eocSwitch key n)

/-- The port and lane group by which a flight goes on from the device that it has reached. -/
def State.nextGroup (s : State) (v : Flight) : Option (Nat × Nat) :=
  match v.sent with
  | some n => some (n.1 / 8, n.1 % 8)
  | none => (s.nextPort v).bind fun p =>
      ((List.range 8).find? fun g =>
        let l := (s.device v.dev).lanes p g
        l.state = .up && l.carries g v.flit).map fun g => (p, g)

/-- A flight's next hop. -/
def State.hopEvents (s : State) (v : Flight) : List Instr :=
  match s.nextGroup v with
  | some (p, g) => let q := portPartner v.dev p; [.flitReceive q.1 q.2 g true]
  | none => []

/-- Flits in flight go from port to port, reach their ends, and have the tags of their groups checked. -/
def State.flitEvents (s : State) : List Instr :=
  s.flits.flatMap s.hopEvents ++
  (s.pooled.flatMap fun c => if c.2.flits = [] then [] else [.integrityCheck (2 ^ 32 + c.1) 0 true]) ++
  if s.flits = [] then []
  else [.loadRequest, .loadReply, .atomicRequest, .atomicReply, .invocation, .storeAcknowledgement, .pooledReadRequest,
    .pooledDataFlit, .schedulerMessage]

/-- Events of a region by its state (R36, R43, R295, R354, R355, R359). -/
def State.regionEvents (s : State) (rid : Nat) (r : Region) : List Instr :=
  match r.state with
  | .starting => [.graphStart rid, .restore rid] ++ r.acks.map fun d => .configAck rid d
  | .resident =>
    [.graphCompletion rid] ++ ((List.range r.parts).map fun p => .oiAdvance rid p) ++
      (match r.gateTick with
      | some _ => [.gateRequestWithdrawal rid, .gate rid]
      | none => if !r.leaving then [] else if r.oneDie then [.preemption rid] else [.gateRequest rid (s.now + 2000)])
  | .gated => [.preemption rid]
  | .saved | .ending => []

/-- Whether a scheduler has something of a partition to rank or to write (R47, R322, R327). -/
def State.hasBids (s : State) (dev part : Nat) : Bool :=
  ((List.range 8).any fun i => (s.device dev).queue part i != []) ||
  (s.regions.any fun c => match c.2 with
    | some r => r.due && r.launch.dev = dev && r.launch.part = part
    | none => false) ||
  s.doneRetry.any fun d => d.launch.dev = dev && d.launch.part = part

/-- The readings of a device at an interval boundary. -/
def sensorReadings (dev time : Nat) : List SensorReading :=
  (List.range 4).map fun die =>
    { die := die, tc := Config.sensor dev die time 0 % 57, cc := Config.sensor dev die time 1 % 57
      temps := (List.range 56).map fun q => Config.sensor dev die time (2 + q) % 256 }

/-- Events of a device's controllers at their times (R386, R390, R391), and of its lane groups (R399, R402, R410). -/
def State.deviceEvents (s : State) (dev : Nat) (d : Device) : List Instr :=
  if d.module ≠ .up then []
  else
    (if s.now % 50000 = 0 ∧ d.interval ≤ s.now then [.powerInterval dev (sensorReadings dev s.now)] else []) ++
    (if s.now % 1000000 = 0 then (List.range 8).map fun k =>
      .hbmTempRead dev k (some (BitVec.ofNat 3 (Config.sensor dev 0 s.now (64 + k)))) else []) ++
    (if s.now % 1000000000 = 0 then [.wearUpdate dev ((List.range 224).map fun q =>
      BitVec.ofNat 32 (Config.sensor dev (q / 56) s.now (128 + q % 56)))] else []) ++
    (((List.range 16).filter fun p => s.hasBids dev p).flatMap fun p => [.schedulerRound dev p, .bidBlocking dev p]) ++
    (d.mgmt.filterMap fun c =>
      if c.2.sdlWords = [] ∧ c.2.sdlReads = [] then none else some (.sdlLoadApply (2 ^ 32 + dev * 16 + c.1))) ++
    (d.portSince.map fun c => .portDown dev c.1) ++
    d.groups.flatMap fun c =>
      (if 16 ≤ c.2.replays then [.laneGroupRetrain dev (c.1 / 8) (c.1 % 8)] else []) ++
      if c.2.state = .up then []
      else (if c.2.binding.isSome then [.bindingRelocate dev (c.1 / 8) (c.1 % 8)] else []) ++
        [.linkTraining dev (c.1 / 8) (c.1 % 8) (s.stated dev (c.1 / 8))]

/-- Tiles on which a thread is. -/
def State.busyTiles (s : State) : List Nat := (s.threads.map fun c => keyTile c.1).dedup

/-- Events tried in turn. -/
def State.autoEvents (s : State) : List Instr :=
  (s.threads.flatMap fun c => match c.2 with | some t => threadEvents c.1 t | none => []) ++
  ((s.parked.map fun c => c.1).dedup.map fun k => .parkedAccessServe k) ++
  (if s.invocations = [] then [] else [.saddleRun]) ++
  (if s.results = [] then [] else [.invocationResult]) ++
  (if s.updates = [] then [] else [.imageUpdate]) ++
  s.flitEvents ++
  (s.slots.flatMap fun c => match c.2 with | some x => slotEvents c.1 x | none => []) ++
  (s.arrivals.map fun l => .launchEnqueue l.dev) ++
  (s.attestations.map fun l => .attestationRequest l.dev) ++
  (s.reservations.map fun v => .reservation v.dev v.bid.launch.part) ++
  (s.regions.flatMap fun c => match c.2 with | some r => s.regionEvents c.1 r | none => []) ++
  (s.devices.flatMap fun c => s.deviceEvents c.1 c.2) ++
  s.busyTiles.map fun k => .staticShare k

/-- Turns tried one after another: the accesses that ag0 keeps, the lazy pages under resolution, and the events. -/
def State.autoTurns (s : State) : List Turn :=
  (s.threads.flatMap fun c => match c.2 with | some t => t.pool.map fun a => .access c.1 a.id | none => []) ++
    (s.walks.map fun w => .lazyEnd w.da) ++ s.autoEvents.map .event

end Sys2Proof.Machine
end

