-- ==== Sys2Proof/Machine/Fetch.lean ====
section
/-!
DEFINITION. What the next step does (R41, R145): the turn laid down, or the instruction that the current thread
fetches, or the event that is tried when no thread can go on. Also the interlock on pending registers (R161).
-/

namespace Sys2Proof.Machine

/-- Registers that the I-format word behind a LIM reads. -/
def ioSources : IOp → List Reg
  | .addi _ a _ | .andi _ a _ | .ori _ a _ | .xori _ a _ | .shift _ a _ _ | .lui _ a _ | .cmpi _ _ a _
  | .csrw a _ | .csrrw _ a _ | .loop _ a _ => [a]
  | .csrr _ _ | .dsync _ => []

/-- Registers that an instruction reads: it waits for each that an outstanding access is to write (R161, R208). -/
def instrSources : Instr → List Reg
  | .add _ a b _ => [a, b]
  | .sub _ a b _ => [a, b]
  | .and _ a b _ => [a, b]
  | .or _ a b _ => [a, b]
  | .xor _ a b _ => [a, b]
  | .andn _ a b _ => [a, b]
  | .shl _ a b _ => [a, b]
  | .shr _ a b _ => [a, b]
  | .sra _ a b _ => [a, b]
  | .rol _ a b _ => [a, b]
  | .min _ a b _ => [a, b]
  | .max _ a b _ => [a, b]
  | .minn _ a b _ => [a, b]
  | .maxn _ a b _ => [a, b]
  | .slt _ a b _ => [a, b]
  | .sltn _ a b _ => [a, b]
  | .seq _ a b _ => [a, b]
  | .clz _ a _ => [a]
  | .ctz _ a _ => [a]
  | .popc _ a _ => [a]
  | .bswap _ a _ => [a]
  | .sextI8 _ a _ => [a]
  | .sextI16 _ a _ => [a]
  | .sextI32 _ a _ => [a]
  | .zextN8 _ a _ => [a]
  | .zextN16 _ a _ => [a]
  | .zextN32 _ a _ => [a]
  | .mul _ a b _ => [a, b]
  | .mulh _ a b _ => [a, b]
  | .mulhn _ a b _ => [a, b]
  | .div _ a b _ => [a, b]
  | .divn _ a b _ => [a, b]
  | .rem _ a b _ => [a, b]
  | .remn _ a b _ => [a, b]
  | .addi _ a _ => [a]
  | .andi _ a _ => [a]
  | .ori _ a _ => [a]
  | .xori _ a _ => [a]
  | .shli _ a _ => [a]
  | .shri _ a _ => [a]
  | .srai _ a _ => [a]
  | .roli _ a _ => [a]
  | .lui _ a _ => [a]
  | .lim _ (some op) => ioSources op
  | .lea _ a _ _ => [a]
  | .addr2 _ a b _ _ _ => [a, b]
  | .cmp _ a b _ _ => [a, b]
  | .cmpi _ _ a _ => [a]
  | .sel _ a b _ _ _ => [a, b]
  | .csrw a _ => [a]
  | .csrrw _ a _ => [a]
  | .fadd _ a b _ _ => [a, b]
  | .fsub _ a b _ _ => [a, b]
  | .fmul _ a b _ _ => [a, b]
  | .fdiv _ a b _ _ => [a, b]
  | .fsqrt _ a _ _ => [a]
  | .fmin _ a b _ => [a, b]
  | .fmax _ a b _ => [a, b]
  | .fma d a b _ _ => [d, a, b]
  | .fcvtfI64 _ a _ _ => [a]
  | .fcvtfN64 _ a _ _ => [a]
  | .fcvtiI64 _ a _ _ => [a]
  | .fcvtiN64 _ a _ _ => [a]
  | .fcmp _ a b _ _ => [a, b]
  | .jr a _ => [a]
  | .jalr _ a _ => [a]
  | .ret _ => [31]
  | .loop _ a _ => [a]
  | .boost r => [r]
  | .saveset r _ => [r]
  | .pcsrw r _ => [r]
  | .ldB _ a _ _ _ => [a]
  | .ldH _ a _ _ _ => [a]
  | .ldW _ a _ _ _ => [a]
  | .ldD _ a _ _ _ => [a]
  | .stB d a _ _ _ => [d, a]
  | .stH d a _ _ _ => [d, a]
  | .stW d a _ _ _ => [d, a]
  | .stD d a _ _ _ => [d, a]
  | .sts d a _ _ _ _ => [d, a]
  | .lda _ a _ _ _ _ => [a]
  | .ldwSync _ a _ _ _ _ => [a]
  | .ldwTake _ a _ _ _ _ => [a]
  | .stwFill d a _ _ _ _ => [d, a]
  | .stwClear a _ _ _ => [a]
  | .fes _ a _ _ _ => [a]
  | .amoSwap d a _ _ _ _ => [d, a]
  | .amoCas d a _ _ _ _ => [d, a, (d + 1)]
  | .amoAdd d a _ _ _ _ => [d, a]
  | .amoAnd d a _ _ _ _ => [d, a]
  | .amoOr d a _ _ _ _ => [d, a]
  | .amoXor d a _ _ _ _ => [d, a]
  | .amoMin d a _ _ _ _ => [d, a]
  | .amoMax d a _ _ _ _ => [d, a]
  | .amoMinn d a _ _ _ _ => [d, a]
  | .amoMaxn d a _ _ _ _ => [d, a]
  | .amoFadd d a _ _ _ => [d, a]
  | .invoke d a _ _ _ _ => [d, a, (d + 1)]
  | .fenceFlag a _ _ _ => [a]
  | .waitany _ a _ => [a]
  | .waitall _ a _ => [a]
  | .ffr _ a _ => [a]
  | .ffrClr _ a _ => [a]
  | .tctlBase _ r => [r]
  | .strm _ r => [r]
  | .cfgLd r => [r]
  | .cfgStage r => [r]
  | .launch r => [r]
  | .accRd r _ => [r]
  | _ => []

/-- Whether one of the registers is still to be written by an outstanding access. -/
def Thread.awaits (t : Thread) (rs : List Reg) : Bool := rs.any fun r => t.pending.any fun c => c.1 = r.toNat

/-- ERET as TACT resolves it (R314); at level U it traps under any TACT. -/
def Thread.resolve (t : Thread) (i : Instr) : Instr :=
  match i with
  | .eretResume =>
    if t.super && t.priv.tact.toNat % 4 = 1 then .eretKill
    else if t.super && t.priv.tact.toNat % 4 = 2 then .eretWake
    else .eretResume
  | j => j

/-- The words fetched at a PC: one, or two behind a LIM whose second word is in the stream (R151, R152). -/
inductive Fetched where
  | words (ws : List Word) (s : State)
  /-- a translation fault, with TCAUSE.ARG (R338, R350) -/
  | fault (arg : Nat) (s : State)
  /-- the page or its memory is not ready (R341, R373) -/
  | busy (s : State)

/-- One word of the thread's stream at stream offset pc: what memory holds now. R145 leaves open whether a stream that its
graph has written after release gives the old or the new contents of a word. DESIGN CHOICE (notes/assumptions/78.md). -/
def fetchWord (s : State) (r : Region) (t : Thread) (pc : Dword) : Fetched :=
  match translate s r.launch.part (r.tileAt t.part t.rx t.ry) t.super ((t.stream + pc).toNat % 2 ^ 56) .fetch with
  | .ok fa s1 => if s1.memOff (keyDev s.cur) fa then .busy s1 else .words [BitVec.ofNat 32 (s1.readNat fa 4)] s1
  | .fault k l s1 => .fault (k + 16 * l) s1
  | .busy s1 => .busy s1

/-- The word at PC, and the word behind it when the first is a LIM. -/
def fetchWords (s : State) (r : Region) (t : Thread) : Fetched :=
  match fetchWord s r t t.pc with
  | .words ws s1 =>
    if ws.any (fun w => w.extractLsb' 26 6 = 0x3F#6) ∧ t.inStream (t.pc + 4) then
      match fetchWord s1 r t (t.pc + 4) with
      | .words ws2 s2 => .words (ws ++ ws2) s2
      | x => x
    else .words ws s1
  | x => x

/-- What the next step does. -/
inductive Plan where
  /-- the current thread executes an instruction -/
  | issue (i : Instr) (s : State)
  /-- an event happens -/
  | event (i : Instr) (s : State)
  | stop (r : Res State)

/-- The thread whose turn to issue comes after that of the current one (R41). -/
def State.nextKey (s : State) : Nat :=
  match s.threads.find? fun c => s.cur < c.1 with
  | some c => c.1
  | none => match s.threads with
    | c :: _ => c.1
    | [] => 0

/-- After an instruction, the next thread may issue; an event has its turn first, so that no event waits without limit for
threads that go on (R55). -/
def State.rotate (s : State) : State := { s with cur := s.nextKey, idle := true }

/-- Whether a thread can issue: running, not waiting at a port, its region resident and its module up (R41). -/
def State.canIssue (s : State) (t : Thread) (r : Region) : Bool :=
  t.status = .running && r.acts s.now && (s.device (keyDev s.cur)).module = .up &&
    match t.wait with
    | .parked _ | .unparked _ | .away _ => false
    | _ => true

/-- The current thread fetches, decodes and issues (R145, R148, R161). -/
def fetchPlan (s : State) : Plan :=
  let skip : Plan := .stop (.next s.rotate)
  match s.thread s.cur with
  | none => skip
  | some t =>
    match s.region t.rid with
    | none => skip
    | some r =>
      if !s.canIssue t r then skip
      else if !t.inStream t.pc then .stop (fetchTrap s)
      else
        match fetchWords s r t with
        | .busy s1 => .stop (.next s1.rotate)
        | .fault arg s1 => .stop (terminal s1 .fetch arg)
        | .words ws s1 =>
          match decode ws with
          | none => .stop (illegal s1)
          | some i => if t.awaits (instrSources i) then skip else .issue (t.resolve i) s1

/-- The line damages the next frame into a port, or the route the group in progress or the oldest one on its way into an
ingress (R396, R402). -/
def State.damageGroup (s : State) (key q mask : Nat) : State :=
  if 2 ^ 32 ≤ key then s.setPooled (key - 2 ^ 32) { s.pooledAt (key - 2 ^ 32) with damage := mask }
  else
    let e := (s.slot key).queue q
    match e.arriving with
    | some g :: r => s.setEnd key q { e with arriving := some { g with damage := mask } :: r }
    | _ => s

/-- What a turn does. -/
def State.takeTurn (s : State) (t : Turn) : Plan :=
  match t with
  | .event i => .event i s
  | .issue k => fetchPlan { s with cur := k }
  | .tick n => .stop (.next (s.passTime n))
  | .defer b => .stop (.next { s with deferReplies := b })
  | .controlRead d o => .stop (.next (s.controlLoad d o))
  | .softError k => .stop (.next (s.softError k))
  | .hold b => .stop (.next { s with holdAccesses := b })
  | .noise d p g m => .stop (.next (s.setGroup d p g fun l => { l with damage := m }))
  | .groupNoise k q m => .stop (.next (s.damageGroup k q m))
  | .access k i => .stop (.next (s.poolTurn k i))
  | .slowWalks b => .stop (.next { s with slowWalks := b })
  | .lazyEnd da => .stop (.next (s.lazyEnd da))
  | .coreRead d tk fa => .stop (.next (s.coreRead d tk fa))
  | .coreWrite d tk fa v => .stop (.next (s.coreWrite d tk fa v))

/-- With no turn laid down, in turn with the threads: one turn of the pass is tried; at the end of the pass fabric time goes on,
and the next pass is fixed. A turn that stands in a pass is tried whatever else changes meanwhile (R55). -/
def autoPlan (s : State) : Plan :=
  match s.turnsLeft with
  | t :: r => { s with idle := false, turnsLeft := r }.takeTurn t
  | [] =>
    let s1 := { s with idle := false }.passTime 1
    .stop (.next { s1 with turnsLeft := s1.autoTurns })

/-- What the next step does. DESIGN CHOICE (notes/assumptions/2.md). -/
def State.plan (s : State) : Plan :=
  match s.agenda with
  | t :: r => { s with agenda := r }.takeTurn t
  | [] => if s.idle then autoPlan s else fetchPlan s

/-! The instruction that withFetchWord lays down. -/

/-- The graph of one thread on tile 0 of device 0, slot 0, whose stream holds two words at virtual address 0x201000. -/
def probeRegion : Region where
  ctxId := 1
  launch := ⟨0x200000, 0, 0x202000, 0, 0, 0, 0, 0, 0, 0, 0, false, false, none, none, 0, 0, 0, false, {}⟩
  w := 1
  h := 1
  parts := 1
  slot := 0
  origins := [⟨0, 0, 0⟩]
  spadBytes := 0x4000
  vaultBytes := 0x10000
  spadUnits := []
  vaultUnits := []
  msMax := 0
  admission := 0
  state := .resident
  acks := []
  restoring := false
  loaded := true
  badWord := 0
  savesetBase := 0
  saveset := []
  lease := {}
  baseCode := 36
  curCode := 36
  tStart := 0
  oi := []
  gateTick := none
  preempted := 0
  due := false
  bypass := 0
  blocking := false
  moved := false
  imageFrames := []
  imageHashes := []
  leaving := false

def probeThread : Thread := { rid := 1, stream := 0x201000, words := 2, ctxId := 1 }

/-- A state whose next instruction is the one that the bytes hold: the module is up, partition 0 owns a quad and the
HBM of device 0 and maps its first 8 GiB, and one thread is released at the first byte.
DESIGN CHOICE (notes/assumptions/77.md). -/
def State.placeProgram (s : State) (bs : List Byte) : State :=
  let s1 := { s with agenda := [], cur := 0, idle := false, nextRid := 2, nextCtx := 2 }
  let s2 := s1.setDevice 0 { s1.device 0 with module := .up }
  let s3 := s2.setPartition 0
    { quads := [0], hbm := [(0, 2 ^ 18)], devices := [0], ptRoot := 0x100000, admitted := [0] }
  let s4 := (s3.writeBytes 0x100000 (leBytes 0x108001 8)).writeBytes 0x108000 (leBytes 0x1E 8)
  ((s4.writeBytes 0x201000 bs).setRegion 1 probeRegion).setThread 0 probeThread

end Sys2Proof.Machine
end

