-- ==== Sys2Proof/Machine/Step.lean ====
section
/-!
DEFINITION. One step of the domain.
-/

namespace Sys2Proof.Machine

/-- A step: the event whose turn it is, or the next instruction of the current thread, after which the turn to issue
passes on. -/
def step (s : State) : Host.Outcome State Fault Refusal :=
  match s.plan with
  | .stop r => r
  | .event i s1 => exec i s1
  | .issue i s1 =>
    match exec i s1 with
    | .next s2 => .next s2.rotate
    | .fault f => .fault f
    | .refused r => .refused r

/-- `s` with the instruction of bits `w` laid down so that the next step fetches and runs it; the bits above nbits are
zero, up to the 8 bytes of a LIM pair. DESIGN CHOICE (notes/assumptions/77.md). -/
def State.withFetchWord (s : State) (nbits w : Nat) : State := s.placeProgram (leBytes (w % 2 ^ nbits) 8)

end Sys2Proof.Machine
end

