-- ==== Sys2Proof/Laws/State.lean ====
section
/-!
SUPPORT. What each update of State does to each field, and what each accessor reads after it: one lemma per field per
update, true by rfl, so that no proof unfolds a record update.
-/

set_option Elab.async false

namespace Sys2Proof.Machine

variable (s : State)


/-! setThread. -/

@[simp] theorem State.setThread_now (key : Nat) (t : Thread) : (s.setThread key t).now = s.now := rfl
@[simp] theorem State.setThread_mem (key : Nat) (t : Thread) : (s.setThread key t).mem = s.mem := rfl
@[simp] theorem State.setThread_sect (key : Nat) (t : Thread) : (s.setThread key t).sect = s.sect := rfl
@[simp] theorem State.setThread_marks (key : Nat) (t : Thread) : (s.setThread key t).marks = s.marks := rfl
@[simp] theorem State.setThread_threads (key : Nat) (t : Thread) : (s.setThread key t).threads = SMap.put none s.threads key (some t) := rfl
@[simp] theorem State.setThread_slots (key : Nat) (t : Thread) : (s.setThread key t).slots = s.slots := rfl
@[simp] theorem State.setThread_staging (key : Nat) (t : Thread) : (s.setThread key t).staging = s.staging := rfl
@[simp] theorem State.setThread_regions (key : Nat) (t : Thread) : (s.setThread key t).regions = s.regions := rfl
@[simp] theorem State.setThread_images (key : Nat) (t : Thread) : (s.setThread key t).images = s.images := rfl
@[simp] theorem State.setThread_devices (key : Nat) (t : Thread) : (s.setThread key t).devices = s.devices := rfl
@[simp] theorem State.setThread_partitions (key : Nat) (t : Thread) : (s.setThread key t).partitions = s.partitions := rfl
@[simp] theorem State.setThread_tnext (key : Nat) (t : Thread) : (s.setThread key t).tnext = s.tnext := rfl
@[simp] theorem State.setThread_saddles (key : Nat) (t : Thread) : (s.setThread key t).saddles = s.saddles := rfl
@[simp] theorem State.setThread_residency (key : Nat) (t : Thread) : (s.setThread key t).residency = s.residency := rfl
@[simp] theorem State.setThread_groups (key : Nat) (t : Thread) : (s.setThread key t).groups = s.groups := rfl
@[simp] theorem State.setThread_tlb (key : Nat) (t : Thread) : (s.setThread key t).tlb = s.tlb := rfl
@[simp] theorem State.setThread_walkCache (key : Nat) (t : Thread) : (s.setThread key t).walkCache = s.walkCache := rfl
@[simp] theorem State.setThread_walks (key : Nat) (t : Thread) : (s.setThread key t).walks = s.walks := rfl
@[simp] theorem State.setThread_walkQueue (key : Nat) (t : Thread) : (s.setThread key t).walkQueue = s.walkQueue := rfl
@[simp] theorem State.setThread_replays (key : Nat) (t : Thread) : (s.setThread key t).replays = s.replays := rfl
@[simp] theorem State.setThread_parked (key : Nat) (t : Thread) : (s.setThread key t).parked = s.parked := rfl
@[simp] theorem State.setThread_invocations (key : Nat) (t : Thread) : (s.setThread key t).invocations = s.invocations := rfl
@[simp] theorem State.setThread_results (key : Nat) (t : Thread) : (s.setThread key t).results = s.results := rfl
@[simp] theorem State.setThread_replies (key : Nat) (t : Thread) : (s.setThread key t).replies = s.replies := rfl
@[simp] theorem State.setThread_blockLoads (key : Nat) (t : Thread) : (s.setThread key t).blockLoads = s.blockLoads := rfl
@[simp] theorem State.setThread_updates (key : Nat) (t : Thread) : (s.setThread key t).updates = s.updates := rfl
@[simp] theorem State.setThread_flits (key : Nat) (t : Thread) : (s.setThread key t).flits = s.flits := rfl
@[simp] theorem State.setThread_pooled (key : Nat) (t : Thread) : (s.setThread key t).pooled = s.pooled := rfl
@[simp] theorem State.setThread_arrivals (key : Nat) (t : Thread) : (s.setThread key t).arrivals = s.arrivals := rfl
@[simp] theorem State.setThread_attestations (key : Nat) (t : Thread) : (s.setThread key t).attestations = s.attestations := rfl
@[simp] theorem State.setThread_doneRetry (key : Nat) (t : Thread) : (s.setThread key t).doneRetry = s.doneRetry := rfl
@[simp] theorem State.setThread_reservations (key : Nat) (t : Thread) : (s.setThread key t).reservations = s.reservations := rfl
@[simp] theorem State.setThread_hostReads (key : Nat) (t : Thread) : (s.setThread key t).hostReads = s.hostReads := rfl
@[simp] theorem State.setThread_coreReads (key : Nat) (t : Thread) : (s.setThread key t).coreReads = s.coreReads := rfl
@[simp] theorem State.setThread_coreFaults (key : Nat) (t : Thread) : (s.setThread key t).coreFaults = s.coreFaults := rfl
@[simp] theorem State.setThread_cables (key : Nat) (t : Thread) : (s.setThread key t).cables = s.cables := rfl
@[simp] theorem State.setThread_msix (key : Nat) (t : Thread) : (s.setThread key t).msix = s.msix := rfl
@[simp] theorem State.setThread_nextRid (key : Nat) (t : Thread) : (s.setThread key t).nextRid = s.nextRid := rfl
@[simp] theorem State.setThread_nextCtx (key : Nat) (t : Thread) : (s.setThread key t).nextCtx = s.nextCtx := rfl
@[simp] theorem State.setThread_nextLaunch (key : Nat) (t : Thread) : (s.setThread key t).nextLaunch = s.nextLaunch := rfl
@[simp] theorem State.setThread_nextAdmission (key : Nat) (t : Thread) : (s.setThread key t).nextAdmission = s.nextAdmission := rfl
@[simp] theorem State.setThread_cur (key : Nat) (t : Thread) : (s.setThread key t).cur = s.cur := rfl
@[simp] theorem State.setThread_agenda (key : Nat) (t : Thread) : (s.setThread key t).agenda = s.agenda := rfl
@[simp] theorem State.setThread_idle (key : Nat) (t : Thread) : (s.setThread key t).idle = s.idle := rfl
@[simp] theorem State.setThread_turnsLeft (key : Nat) (t : Thread) : (s.setThread key t).turnsLeft = s.turnsLeft := rfl
@[simp] theorem State.setThread_freeDraws (key : Nat) (t : Thread) : (s.setThread key t).freeDraws = s.freeDraws := rfl
@[simp] theorem State.setThread_deferReplies (key : Nat) (t : Thread) : (s.setThread key t).deferReplies = s.deferReplies := rfl
@[simp] theorem State.setThread_holdAccesses (key : Nat) (t : Thread) : (s.setThread key t).holdAccesses = s.holdAccesses := rfl
@[simp] theorem State.setThread_slowWalks (key : Nat) (t : Thread) : (s.setThread key t).slowWalks = s.slowWalks := rfl
@[simp] theorem State.slot_setThread (key : Nat) (t : Thread) (j : Nat) : (s.setThread key t).slot j = s.slot j := rfl
@[simp] theorem State.region_setThread (key : Nat) (t : Thread) (j : Nat) : (s.setThread key t).region j = s.region j := rfl
@[simp] theorem State.device_setThread (key : Nat) (t : Thread) (j : Nat) : (s.setThread key t).device j = s.device j := rfl
@[simp] theorem State.partition_setThread (key : Nat) (t : Thread) (j : Nat) : (s.setThread key t).partition j = s.partition j := rfl
@[simp] theorem State.byte_setThread (key : Nat) (t : Thread) (j : Nat) : (s.setThread key t).byte j = s.byte j := rfl
@[simp] theorem State.sector_setThread (key : Nat) (t : Thread) (j : Nat) : (s.setThread key t).sector j = s.sector j := rfl
@[simp] theorem State.mark_setThread (key : Nat) (t : Thread) (j : Nat) : (s.setThread key t).mark j = s.mark j := rfl

/-! dropThread. -/

@[simp] theorem State.dropThread_now (key : Nat) : (s.dropThread key).now = s.now := rfl
@[simp] theorem State.dropThread_mem (key : Nat) : (s.dropThread key).mem = s.mem := rfl
@[simp] theorem State.dropThread_sect (key : Nat) : (s.dropThread key).sect = s.sect := rfl
@[simp] theorem State.dropThread_marks (key : Nat) : (s.dropThread key).marks = s.marks := rfl
@[simp] theorem State.dropThread_threads (key : Nat) : (s.dropThread key).threads = SMap.put none s.threads key none := rfl
@[simp] theorem State.dropThread_slots (key : Nat) : (s.dropThread key).slots = s.slots := rfl
@[simp] theorem State.dropThread_staging (key : Nat) : (s.dropThread key).staging = s.staging := rfl
@[simp] theorem State.dropThread_regions (key : Nat) : (s.dropThread key).regions = s.regions := rfl
@[simp] theorem State.dropThread_images (key : Nat) : (s.dropThread key).images = s.images := rfl
@[simp] theorem State.dropThread_devices (key : Nat) : (s.dropThread key).devices = s.devices := rfl
@[simp] theorem State.dropThread_partitions (key : Nat) : (s.dropThread key).partitions = s.partitions := rfl
@[simp] theorem State.dropThread_tnext (key : Nat) : (s.dropThread key).tnext = s.tnext := rfl
@[simp] theorem State.dropThread_saddles (key : Nat) : (s.dropThread key).saddles = s.saddles := rfl
@[simp] theorem State.dropThread_residency (key : Nat) : (s.dropThread key).residency = s.residency := rfl
@[simp] theorem State.dropThread_groups (key : Nat) : (s.dropThread key).groups = s.groups := rfl
@[simp] theorem State.dropThread_tlb (key : Nat) : (s.dropThread key).tlb = s.tlb := rfl
@[simp] theorem State.dropThread_walkCache (key : Nat) : (s.dropThread key).walkCache = s.walkCache := rfl
@[simp] theorem State.dropThread_walks (key : Nat) : (s.dropThread key).walks = s.walks := rfl
@[simp] theorem State.dropThread_walkQueue (key : Nat) : (s.dropThread key).walkQueue = s.walkQueue := rfl
@[simp] theorem State.dropThread_replays (key : Nat) : (s.dropThread key).replays = s.replays := rfl
@[simp] theorem State.dropThread_parked (key : Nat) : (s.dropThread key).parked = s.parked := rfl
@[simp] theorem State.dropThread_invocations (key : Nat) : (s.dropThread key).invocations = s.invocations := rfl
@[simp] theorem State.dropThread_results (key : Nat) : (s.dropThread key).results = s.results := rfl
@[simp] theorem State.dropThread_replies (key : Nat) : (s.dropThread key).replies = s.replies := rfl
@[simp] theorem State.dropThread_blockLoads (key : Nat) : (s.dropThread key).blockLoads = s.blockLoads := rfl
@[simp] theorem State.dropThread_updates (key : Nat) : (s.dropThread key).updates = s.updates := rfl
@[simp] theorem State.dropThread_flits (key : Nat) : (s.dropThread key).flits = s.flits := rfl
@[simp] theorem State.dropThread_pooled (key : Nat) : (s.dropThread key).pooled = s.pooled := rfl
@[simp] theorem State.dropThread_arrivals (key : Nat) : (s.dropThread key).arrivals = s.arrivals := rfl
@[simp] theorem State.dropThread_attestations (key : Nat) : (s.dropThread key).attestations = s.attestations := rfl
@[simp] theorem State.dropThread_doneRetry (key : Nat) : (s.dropThread key).doneRetry = s.doneRetry := rfl
@[simp] theorem State.dropThread_reservations (key : Nat) : (s.dropThread key).reservations = s.reservations := rfl
@[simp] theorem State.dropThread_hostReads (key : Nat) : (s.dropThread key).hostReads = s.hostReads := rfl
@[simp] theorem State.dropThread_coreReads (key : Nat) : (s.dropThread key).coreReads = s.coreReads := rfl
@[simp] theorem State.dropThread_coreFaults (key : Nat) : (s.dropThread key).coreFaults = s.coreFaults := rfl
@[simp] theorem State.dropThread_cables (key : Nat) : (s.dropThread key).cables = s.cables := rfl
@[simp] theorem State.dropThread_msix (key : Nat) : (s.dropThread key).msix = s.msix := rfl
@[simp] theorem State.dropThread_nextRid (key : Nat) : (s.dropThread key).nextRid = s.nextRid := rfl
@[simp] theorem State.dropThread_nextCtx (key : Nat) : (s.dropThread key).nextCtx = s.nextCtx := rfl
@[simp] theorem State.dropThread_nextLaunch (key : Nat) : (s.dropThread key).nextLaunch = s.nextLaunch := rfl
@[simp] theorem State.dropThread_nextAdmission (key : Nat) : (s.dropThread key).nextAdmission = s.nextAdmission := rfl
@[simp] theorem State.dropThread_cur (key : Nat) : (s.dropThread key).cur = s.cur := rfl
@[simp] theorem State.dropThread_agenda (key : Nat) : (s.dropThread key).agenda = s.agenda := rfl
@[simp] theorem State.dropThread_idle (key : Nat) : (s.dropThread key).idle = s.idle := rfl
@[simp] theorem State.dropThread_turnsLeft (key : Nat) : (s.dropThread key).turnsLeft = s.turnsLeft := rfl
@[simp] theorem State.dropThread_freeDraws (key : Nat) : (s.dropThread key).freeDraws = s.freeDraws := rfl
@[simp] theorem State.dropThread_deferReplies (key : Nat) : (s.dropThread key).deferReplies = s.deferReplies := rfl
@[simp] theorem State.dropThread_holdAccesses (key : Nat) : (s.dropThread key).holdAccesses = s.holdAccesses := rfl
@[simp] theorem State.dropThread_slowWalks (key : Nat) : (s.dropThread key).slowWalks = s.slowWalks := rfl
@[simp] theorem State.slot_dropThread (key : Nat) (j : Nat) : (s.dropThread key).slot j = s.slot j := rfl
@[simp] theorem State.region_dropThread (key : Nat) (j : Nat) : (s.dropThread key).region j = s.region j := rfl
@[simp] theorem State.device_dropThread (key : Nat) (j : Nat) : (s.dropThread key).device j = s.device j := rfl
@[simp] theorem State.partition_dropThread (key : Nat) (j : Nat) : (s.dropThread key).partition j = s.partition j := rfl
@[simp] theorem State.byte_dropThread (key : Nat) (j : Nat) : (s.dropThread key).byte j = s.byte j := rfl
@[simp] theorem State.sector_dropThread (key : Nat) (j : Nat) : (s.dropThread key).sector j = s.sector j := rfl
@[simp] theorem State.mark_dropThread (key : Nat) (j : Nat) : (s.dropThread key).mark j = s.mark j := rfl

/-! setSlot. -/

@[simp] theorem State.setSlot_now (key : Nat) (x : Slot) : (s.setSlot key x).now = s.now := rfl
@[simp] theorem State.setSlot_mem (key : Nat) (x : Slot) : (s.setSlot key x).mem = s.mem := rfl
@[simp] theorem State.setSlot_sect (key : Nat) (x : Slot) : (s.setSlot key x).sect = s.sect := rfl
@[simp] theorem State.setSlot_marks (key : Nat) (x : Slot) : (s.setSlot key x).marks = s.marks := rfl
@[simp] theorem State.setSlot_threads (key : Nat) (x : Slot) : (s.setSlot key x).threads = s.threads := rfl
@[simp] theorem State.setSlot_slots (key : Nat) (x : Slot) : (s.setSlot key x).slots = SMap.put none s.slots key (some x) := rfl
@[simp] theorem State.setSlot_staging (key : Nat) (x : Slot) : (s.setSlot key x).staging = s.staging := rfl
@[simp] theorem State.setSlot_regions (key : Nat) (x : Slot) : (s.setSlot key x).regions = s.regions := rfl
@[simp] theorem State.setSlot_images (key : Nat) (x : Slot) : (s.setSlot key x).images = s.images := rfl
@[simp] theorem State.setSlot_devices (key : Nat) (x : Slot) : (s.setSlot key x).devices = s.devices := rfl
@[simp] theorem State.setSlot_partitions (key : Nat) (x : Slot) : (s.setSlot key x).partitions = s.partitions := rfl
@[simp] theorem State.setSlot_tnext (key : Nat) (x : Slot) : (s.setSlot key x).tnext = s.tnext := rfl
@[simp] theorem State.setSlot_saddles (key : Nat) (x : Slot) : (s.setSlot key x).saddles = s.saddles := rfl
@[simp] theorem State.setSlot_residency (key : Nat) (x : Slot) : (s.setSlot key x).residency = s.residency := rfl
@[simp] theorem State.setSlot_groups (key : Nat) (x : Slot) : (s.setSlot key x).groups = s.groups := rfl
@[simp] theorem State.setSlot_tlb (key : Nat) (x : Slot) : (s.setSlot key x).tlb = s.tlb := rfl
@[simp] theorem State.setSlot_walkCache (key : Nat) (x : Slot) : (s.setSlot key x).walkCache = s.walkCache := rfl
@[simp] theorem State.setSlot_walks (key : Nat) (x : Slot) : (s.setSlot key x).walks = s.walks := rfl
@[simp] theorem State.setSlot_walkQueue (key : Nat) (x : Slot) : (s.setSlot key x).walkQueue = s.walkQueue := rfl
@[simp] theorem State.setSlot_replays (key : Nat) (x : Slot) : (s.setSlot key x).replays = s.replays := rfl
@[simp] theorem State.setSlot_parked (key : Nat) (x : Slot) : (s.setSlot key x).parked = s.parked := rfl
@[simp] theorem State.setSlot_invocations (key : Nat) (x : Slot) : (s.setSlot key x).invocations = s.invocations := rfl
@[simp] theorem State.setSlot_results (key : Nat) (x : Slot) : (s.setSlot key x).results = s.results := rfl
@[simp] theorem State.setSlot_replies (key : Nat) (x : Slot) : (s.setSlot key x).replies = s.replies := rfl
@[simp] theorem State.setSlot_blockLoads (key : Nat) (x : Slot) : (s.setSlot key x).blockLoads = s.blockLoads := rfl
@[simp] theorem State.setSlot_updates (key : Nat) (x : Slot) : (s.setSlot key x).updates = s.updates := rfl
@[simp] theorem State.setSlot_flits (key : Nat) (x : Slot) : (s.setSlot key x).flits = s.flits := rfl
@[simp] theorem State.setSlot_pooled (key : Nat) (x : Slot) : (s.setSlot key x).pooled = s.pooled := rfl
@[simp] theorem State.setSlot_arrivals (key : Nat) (x : Slot) : (s.setSlot key x).arrivals = s.arrivals := rfl
@[simp] theorem State.setSlot_attestations (key : Nat) (x : Slot) : (s.setSlot key x).attestations = s.attestations := rfl
@[simp] theorem State.setSlot_doneRetry (key : Nat) (x : Slot) : (s.setSlot key x).doneRetry = s.doneRetry := rfl
@[simp] theorem State.setSlot_reservations (key : Nat) (x : Slot) : (s.setSlot key x).reservations = s.reservations := rfl
@[simp] theorem State.setSlot_hostReads (key : Nat) (x : Slot) : (s.setSlot key x).hostReads = s.hostReads := rfl
@[simp] theorem State.setSlot_coreReads (key : Nat) (x : Slot) : (s.setSlot key x).coreReads = s.coreReads := rfl
@[simp] theorem State.setSlot_coreFaults (key : Nat) (x : Slot) : (s.setSlot key x).coreFaults = s.coreFaults := rfl
@[simp] theorem State.setSlot_cables (key : Nat) (x : Slot) : (s.setSlot key x).cables = s.cables := rfl
@[simp] theorem State.setSlot_msix (key : Nat) (x : Slot) : (s.setSlot key x).msix = s.msix := rfl
@[simp] theorem State.setSlot_nextRid (key : Nat) (x : Slot) : (s.setSlot key x).nextRid = s.nextRid := rfl
@[simp] theorem State.setSlot_nextCtx (key : Nat) (x : Slot) : (s.setSlot key x).nextCtx = s.nextCtx := rfl
@[simp] theorem State.setSlot_nextLaunch (key : Nat) (x : Slot) : (s.setSlot key x).nextLaunch = s.nextLaunch := rfl
@[simp] theorem State.setSlot_nextAdmission (key : Nat) (x : Slot) : (s.setSlot key x).nextAdmission = s.nextAdmission := rfl
@[simp] theorem State.setSlot_cur (key : Nat) (x : Slot) : (s.setSlot key x).cur = s.cur := rfl
@[simp] theorem State.setSlot_agenda (key : Nat) (x : Slot) : (s.setSlot key x).agenda = s.agenda := rfl
@[simp] theorem State.setSlot_idle (key : Nat) (x : Slot) : (s.setSlot key x).idle = s.idle := rfl
@[simp] theorem State.setSlot_turnsLeft (key : Nat) (x : Slot) : (s.setSlot key x).turnsLeft = s.turnsLeft := rfl
@[simp] theorem State.setSlot_freeDraws (key : Nat) (x : Slot) : (s.setSlot key x).freeDraws = s.freeDraws := rfl
@[simp] theorem State.setSlot_deferReplies (key : Nat) (x : Slot) : (s.setSlot key x).deferReplies = s.deferReplies := rfl
@[simp] theorem State.setSlot_holdAccesses (key : Nat) (x : Slot) : (s.setSlot key x).holdAccesses = s.holdAccesses := rfl
@[simp] theorem State.setSlot_slowWalks (key : Nat) (x : Slot) : (s.setSlot key x).slowWalks = s.slowWalks := rfl
@[simp] theorem State.thread_setSlot (key : Nat) (x : Slot) (j : Nat) : (s.setSlot key x).thread j = s.thread j := rfl
@[simp] theorem State.region_setSlot (key : Nat) (x : Slot) (j : Nat) : (s.setSlot key x).region j = s.region j := rfl
@[simp] theorem State.device_setSlot (key : Nat) (x : Slot) (j : Nat) : (s.setSlot key x).device j = s.device j := rfl
@[simp] theorem State.partition_setSlot (key : Nat) (x : Slot) (j : Nat) : (s.setSlot key x).partition j = s.partition j := rfl
@[simp] theorem State.byte_setSlot (key : Nat) (x : Slot) (j : Nat) : (s.setSlot key x).byte j = s.byte j := rfl
@[simp] theorem State.sector_setSlot (key : Nat) (x : Slot) (j : Nat) : (s.setSlot key x).sector j = s.sector j := rfl
@[simp] theorem State.mark_setSlot (key : Nat) (x : Slot) (j : Nat) : (s.setSlot key x).mark j = s.mark j := rfl

/-! dropSlot. -/

@[simp] theorem State.dropSlot_now (key : Nat) : (s.dropSlot key).now = s.now := rfl
@[simp] theorem State.dropSlot_mem (key : Nat) : (s.dropSlot key).mem = s.mem := rfl
@[simp] theorem State.dropSlot_sect (key : Nat) : (s.dropSlot key).sect = s.sect := rfl
@[simp] theorem State.dropSlot_marks (key : Nat) : (s.dropSlot key).marks = s.marks := rfl
@[simp] theorem State.dropSlot_threads (key : Nat) : (s.dropSlot key).threads = s.threads := rfl
@[simp] theorem State.dropSlot_slots (key : Nat) : (s.dropSlot key).slots = SMap.put none s.slots key none := rfl
@[simp] theorem State.dropSlot_staging (key : Nat) : (s.dropSlot key).staging = s.staging := rfl
@[simp] theorem State.dropSlot_regions (key : Nat) : (s.dropSlot key).regions = s.regions := rfl
@[simp] theorem State.dropSlot_images (key : Nat) : (s.dropSlot key).images = s.images := rfl
@[simp] theorem State.dropSlot_devices (key : Nat) : (s.dropSlot key).devices = s.devices := rfl
@[simp] theorem State.dropSlot_partitions (key : Nat) : (s.dropSlot key).partitions = s.partitions := rfl
@[simp] theorem State.dropSlot_tnext (key : Nat) : (s.dropSlot key).tnext = s.tnext := rfl
@[simp] theorem State.dropSlot_saddles (key : Nat) : (s.dropSlot key).saddles = s.saddles := rfl
@[simp] theorem State.dropSlot_residency (key : Nat) : (s.dropSlot key).residency = s.residency := rfl
@[simp] theorem State.dropSlot_groups (key : Nat) : (s.dropSlot key).groups = s.groups := rfl
@[simp] theorem State.dropSlot_tlb (key : Nat) : (s.dropSlot key).tlb = s.tlb := rfl
@[simp] theorem State.dropSlot_walkCache (key : Nat) : (s.dropSlot key).walkCache = s.walkCache := rfl
@[simp] theorem State.dropSlot_walks (key : Nat) : (s.dropSlot key).walks = s.walks := rfl
@[simp] theorem State.dropSlot_walkQueue (key : Nat) : (s.dropSlot key).walkQueue = s.walkQueue := rfl
@[simp] theorem State.dropSlot_replays (key : Nat) : (s.dropSlot key).replays = s.replays := rfl
@[simp] theorem State.dropSlot_parked (key : Nat) : (s.dropSlot key).parked = s.parked := rfl
@[simp] theorem State.dropSlot_invocations (key : Nat) : (s.dropSlot key).invocations = s.invocations := rfl
@[simp] theorem State.dropSlot_results (key : Nat) : (s.dropSlot key).results = s.results := rfl
@[simp] theorem State.dropSlot_replies (key : Nat) : (s.dropSlot key).replies = s.replies := rfl
@[simp] theorem State.dropSlot_blockLoads (key : Nat) : (s.dropSlot key).blockLoads = s.blockLoads := rfl
@[simp] theorem State.dropSlot_updates (key : Nat) : (s.dropSlot key).updates = s.updates := rfl
@[simp] theorem State.dropSlot_flits (key : Nat) : (s.dropSlot key).flits = s.flits := rfl
@[simp] theorem State.dropSlot_pooled (key : Nat) : (s.dropSlot key).pooled = s.pooled := rfl
@[simp] theorem State.dropSlot_arrivals (key : Nat) : (s.dropSlot key).arrivals = s.arrivals := rfl
@[simp] theorem State.dropSlot_attestations (key : Nat) : (s.dropSlot key).attestations = s.attestations := rfl
@[simp] theorem State.dropSlot_doneRetry (key : Nat) : (s.dropSlot key).doneRetry = s.doneRetry := rfl
@[simp] theorem State.dropSlot_reservations (key : Nat) : (s.dropSlot key).reservations = s.reservations := rfl
@[simp] theorem State.dropSlot_hostReads (key : Nat) : (s.dropSlot key).hostReads = s.hostReads := rfl
@[simp] theorem State.dropSlot_coreReads (key : Nat) : (s.dropSlot key).coreReads = s.coreReads := rfl
@[simp] theorem State.dropSlot_coreFaults (key : Nat) : (s.dropSlot key).coreFaults = s.coreFaults := rfl
@[simp] theorem State.dropSlot_cables (key : Nat) : (s.dropSlot key).cables = s.cables := rfl
@[simp] theorem State.dropSlot_msix (key : Nat) : (s.dropSlot key).msix = s.msix := rfl
@[simp] theorem State.dropSlot_nextRid (key : Nat) : (s.dropSlot key).nextRid = s.nextRid := rfl
@[simp] theorem State.dropSlot_nextCtx (key : Nat) : (s.dropSlot key).nextCtx = s.nextCtx := rfl
@[simp] theorem State.dropSlot_nextLaunch (key : Nat) : (s.dropSlot key).nextLaunch = s.nextLaunch := rfl
@[simp] theorem State.dropSlot_nextAdmission (key : Nat) : (s.dropSlot key).nextAdmission = s.nextAdmission := rfl
@[simp] theorem State.dropSlot_cur (key : Nat) : (s.dropSlot key).cur = s.cur := rfl
@[simp] theorem State.dropSlot_agenda (key : Nat) : (s.dropSlot key).agenda = s.agenda := rfl
@[simp] theorem State.dropSlot_idle (key : Nat) : (s.dropSlot key).idle = s.idle := rfl
@[simp] theorem State.dropSlot_turnsLeft (key : Nat) : (s.dropSlot key).turnsLeft = s.turnsLeft := rfl
@[simp] theorem State.dropSlot_freeDraws (key : Nat) : (s.dropSlot key).freeDraws = s.freeDraws := rfl
@[simp] theorem State.dropSlot_deferReplies (key : Nat) : (s.dropSlot key).deferReplies = s.deferReplies := rfl
@[simp] theorem State.dropSlot_holdAccesses (key : Nat) : (s.dropSlot key).holdAccesses = s.holdAccesses := rfl
@[simp] theorem State.dropSlot_slowWalks (key : Nat) : (s.dropSlot key).slowWalks = s.slowWalks := rfl
@[simp] theorem State.thread_dropSlot (key : Nat) (j : Nat) : (s.dropSlot key).thread j = s.thread j := rfl
@[simp] theorem State.region_dropSlot (key : Nat) (j : Nat) : (s.dropSlot key).region j = s.region j := rfl
@[simp] theorem State.device_dropSlot (key : Nat) (j : Nat) : (s.dropSlot key).device j = s.device j := rfl
@[simp] theorem State.partition_dropSlot (key : Nat) (j : Nat) : (s.dropSlot key).partition j = s.partition j := rfl
@[simp] theorem State.byte_dropSlot (key : Nat) (j : Nat) : (s.dropSlot key).byte j = s.byte j := rfl
@[simp] theorem State.sector_dropSlot (key : Nat) (j : Nat) : (s.dropSlot key).sector j = s.sector j := rfl
@[simp] theorem State.mark_dropSlot (key : Nat) (j : Nat) : (s.dropSlot key).mark j = s.mark j := rfl

/-! setRegion. -/

@[simp] theorem State.setRegion_now (rid : Nat) (r : Region) : (s.setRegion rid r).now = s.now := rfl
@[simp] theorem State.setRegion_mem (rid : Nat) (r : Region) : (s.setRegion rid r).mem = s.mem := rfl
@[simp] theorem State.setRegion_sect (rid : Nat) (r : Region) : (s.setRegion rid r).sect = s.sect := rfl
@[simp] theorem State.setRegion_marks (rid : Nat) (r : Region) : (s.setRegion rid r).marks = s.marks := rfl
@[simp] theorem State.setRegion_threads (rid : Nat) (r : Region) : (s.setRegion rid r).threads = s.threads := rfl
@[simp] theorem State.setRegion_slots (rid : Nat) (r : Region) : (s.setRegion rid r).slots = s.slots := rfl
@[simp] theorem State.setRegion_staging (rid : Nat) (r : Region) : (s.setRegion rid r).staging = s.staging := rfl
@[simp] theorem State.setRegion_regions (rid : Nat) (r : Region) : (s.setRegion rid r).regions = SMap.put none s.regions rid (some r) := rfl
@[simp] theorem State.setRegion_images (rid : Nat) (r : Region) : (s.setRegion rid r).images = s.images := rfl
@[simp] theorem State.setRegion_devices (rid : Nat) (r : Region) : (s.setRegion rid r).devices = s.devices := rfl
@[simp] theorem State.setRegion_partitions (rid : Nat) (r : Region) : (s.setRegion rid r).partitions = s.partitions := rfl
@[simp] theorem State.setRegion_tnext (rid : Nat) (r : Region) : (s.setRegion rid r).tnext = s.tnext := rfl
@[simp] theorem State.setRegion_saddles (rid : Nat) (r : Region) : (s.setRegion rid r).saddles = s.saddles := rfl
@[simp] theorem State.setRegion_residency (rid : Nat) (r : Region) : (s.setRegion rid r).residency = s.residency := rfl
@[simp] theorem State.setRegion_groups (rid : Nat) (r : Region) : (s.setRegion rid r).groups = s.groups := rfl
@[simp] theorem State.setRegion_tlb (rid : Nat) (r : Region) : (s.setRegion rid r).tlb = s.tlb := rfl
@[simp] theorem State.setRegion_walkCache (rid : Nat) (r : Region) : (s.setRegion rid r).walkCache = s.walkCache := rfl
@[simp] theorem State.setRegion_walks (rid : Nat) (r : Region) : (s.setRegion rid r).walks = s.walks := rfl
@[simp] theorem State.setRegion_walkQueue (rid : Nat) (r : Region) : (s.setRegion rid r).walkQueue = s.walkQueue := rfl
@[simp] theorem State.setRegion_replays (rid : Nat) (r : Region) : (s.setRegion rid r).replays = s.replays := rfl
@[simp] theorem State.setRegion_parked (rid : Nat) (r : Region) : (s.setRegion rid r).parked = s.parked := rfl
@[simp] theorem State.setRegion_invocations (rid : Nat) (r : Region) : (s.setRegion rid r).invocations = s.invocations := rfl
@[simp] theorem State.setRegion_results (rid : Nat) (r : Region) : (s.setRegion rid r).results = s.results := rfl
@[simp] theorem State.setRegion_replies (rid : Nat) (r : Region) : (s.setRegion rid r).replies = s.replies := rfl
@[simp] theorem State.setRegion_blockLoads (rid : Nat) (r : Region) : (s.setRegion rid r).blockLoads = s.blockLoads := rfl
@[simp] theorem State.setRegion_updates (rid : Nat) (r : Region) : (s.setRegion rid r).updates = s.updates := rfl
@[simp] theorem State.setRegion_flits (rid : Nat) (r : Region) : (s.setRegion rid r).flits = s.flits := rfl
@[simp] theorem State.setRegion_pooled (rid : Nat) (r : Region) : (s.setRegion rid r).pooled = s.pooled := rfl
@[simp] theorem State.setRegion_arrivals (rid : Nat) (r : Region) : (s.setRegion rid r).arrivals = s.arrivals := rfl
@[simp] theorem State.setRegion_attestations (rid : Nat) (r : Region) : (s.setRegion rid r).attestations = s.attestations := rfl
@[simp] theorem State.setRegion_doneRetry (rid : Nat) (r : Region) : (s.setRegion rid r).doneRetry = s.doneRetry := rfl
@[simp] theorem State.setRegion_reservations (rid : Nat) (r : Region) : (s.setRegion rid r).reservations = s.reservations := rfl
@[simp] theorem State.setRegion_hostReads (rid : Nat) (r : Region) : (s.setRegion rid r).hostReads = s.hostReads := rfl
@[simp] theorem State.setRegion_coreReads (rid : Nat) (r : Region) : (s.setRegion rid r).coreReads = s.coreReads := rfl
@[simp] theorem State.setRegion_coreFaults (rid : Nat) (r : Region) : (s.setRegion rid r).coreFaults = s.coreFaults := rfl
@[simp] theorem State.setRegion_cables (rid : Nat) (r : Region) : (s.setRegion rid r).cables = s.cables := rfl
@[simp] theorem State.setRegion_msix (rid : Nat) (r : Region) : (s.setRegion rid r).msix = s.msix := rfl
@[simp] theorem State.setRegion_nextRid (rid : Nat) (r : Region) : (s.setRegion rid r).nextRid = s.nextRid := rfl
@[simp] theorem State.setRegion_nextCtx (rid : Nat) (r : Region) : (s.setRegion rid r).nextCtx = s.nextCtx := rfl
@[simp] theorem State.setRegion_nextLaunch (rid : Nat) (r : Region) : (s.setRegion rid r).nextLaunch = s.nextLaunch := rfl
@[simp] theorem State.setRegion_nextAdmission (rid : Nat) (r : Region) : (s.setRegion rid r).nextAdmission = s.nextAdmission := rfl
@[simp] theorem State.setRegion_cur (rid : Nat) (r : Region) : (s.setRegion rid r).cur = s.cur := rfl
@[simp] theorem State.setRegion_agenda (rid : Nat) (r : Region) : (s.setRegion rid r).agenda = s.agenda := rfl
@[simp] theorem State.setRegion_idle (rid : Nat) (r : Region) : (s.setRegion rid r).idle = s.idle := rfl
@[simp] theorem State.setRegion_turnsLeft (rid : Nat) (r : Region) : (s.setRegion rid r).turnsLeft = s.turnsLeft := rfl
@[simp] theorem State.setRegion_freeDraws (rid : Nat) (r : Region) : (s.setRegion rid r).freeDraws = s.freeDraws := rfl
@[simp] theorem State.setRegion_deferReplies (rid : Nat) (r : Region) : (s.setRegion rid r).deferReplies = s.deferReplies := rfl
@[simp] theorem State.setRegion_holdAccesses (rid : Nat) (r : Region) : (s.setRegion rid r).holdAccesses = s.holdAccesses := rfl
@[simp] theorem State.setRegion_slowWalks (rid : Nat) (r : Region) : (s.setRegion rid r).slowWalks = s.slowWalks := rfl
@[simp] theorem State.thread_setRegion (rid : Nat) (r : Region) (j : Nat) : (s.setRegion rid r).thread j = s.thread j := rfl
@[simp] theorem State.slot_setRegion (rid : Nat) (r : Region) (j : Nat) : (s.setRegion rid r).slot j = s.slot j := rfl
@[simp] theorem State.device_setRegion (rid : Nat) (r : Region) (j : Nat) : (s.setRegion rid r).device j = s.device j := rfl
@[simp] theorem State.partition_setRegion (rid : Nat) (r : Region) (j : Nat) : (s.setRegion rid r).partition j = s.partition j := rfl
@[simp] theorem State.byte_setRegion (rid : Nat) (r : Region) (j : Nat) : (s.setRegion rid r).byte j = s.byte j := rfl
@[simp] theorem State.sector_setRegion (rid : Nat) (r : Region) (j : Nat) : (s.setRegion rid r).sector j = s.sector j := rfl
@[simp] theorem State.mark_setRegion (rid : Nat) (r : Region) (j : Nat) : (s.setRegion rid r).mark j = s.mark j := rfl

/-! dropRegion. -/

@[simp] theorem State.dropRegion_now (rid : Nat) : (s.dropRegion rid).now = s.now := rfl
@[simp] theorem State.dropRegion_mem (rid : Nat) : (s.dropRegion rid).mem = s.mem := rfl
@[simp] theorem State.dropRegion_sect (rid : Nat) : (s.dropRegion rid).sect = s.sect := rfl
@[simp] theorem State.dropRegion_marks (rid : Nat) : (s.dropRegion rid).marks = s.marks := rfl
@[simp] theorem State.dropRegion_threads (rid : Nat) : (s.dropRegion rid).threads = s.threads := rfl
@[simp] theorem State.dropRegion_slots (rid : Nat) : (s.dropRegion rid).slots = s.slots := rfl
@[simp] theorem State.dropRegion_staging (rid : Nat) : (s.dropRegion rid).staging = s.staging := rfl
@[simp] theorem State.dropRegion_regions (rid : Nat) : (s.dropRegion rid).regions = SMap.put none s.regions rid none := rfl
@[simp] theorem State.dropRegion_images (rid : Nat) : (s.dropRegion rid).images = s.images := rfl
@[simp] theorem State.dropRegion_devices (rid : Nat) : (s.dropRegion rid).devices = s.devices := rfl
@[simp] theorem State.dropRegion_partitions (rid : Nat) : (s.dropRegion rid).partitions = s.partitions := rfl
@[simp] theorem State.dropRegion_tnext (rid : Nat) : (s.dropRegion rid).tnext = s.tnext := rfl
@[simp] theorem State.dropRegion_saddles (rid : Nat) : (s.dropRegion rid).saddles = s.saddles := rfl
@[simp] theorem State.dropRegion_residency (rid : Nat) : (s.dropRegion rid).residency = s.residency := rfl
@[simp] theorem State.dropRegion_groups (rid : Nat) : (s.dropRegion rid).groups = s.groups := rfl
@[simp] theorem State.dropRegion_tlb (rid : Nat) : (s.dropRegion rid).tlb = s.tlb := rfl
@[simp] theorem State.dropRegion_walkCache (rid : Nat) : (s.dropRegion rid).walkCache = s.walkCache := rfl
@[simp] theorem State.dropRegion_walks (rid : Nat) : (s.dropRegion rid).walks = s.walks := rfl
@[simp] theorem State.dropRegion_walkQueue (rid : Nat) : (s.dropRegion rid).walkQueue = s.walkQueue := rfl
@[simp] theorem State.dropRegion_replays (rid : Nat) : (s.dropRegion rid).replays = s.replays := rfl
@[simp] theorem State.dropRegion_parked (rid : Nat) : (s.dropRegion rid).parked = s.parked := rfl
@[simp] theorem State.dropRegion_invocations (rid : Nat) : (s.dropRegion rid).invocations = s.invocations := rfl
@[simp] theorem State.dropRegion_results (rid : Nat) : (s.dropRegion rid).results = s.results := rfl
@[simp] theorem State.dropRegion_replies (rid : Nat) : (s.dropRegion rid).replies = s.replies := rfl
@[simp] theorem State.dropRegion_blockLoads (rid : Nat) : (s.dropRegion rid).blockLoads = s.blockLoads := rfl
@[simp] theorem State.dropRegion_updates (rid : Nat) : (s.dropRegion rid).updates = s.updates := rfl
@[simp] theorem State.dropRegion_flits (rid : Nat) : (s.dropRegion rid).flits = s.flits := rfl
@[simp] theorem State.dropRegion_pooled (rid : Nat) : (s.dropRegion rid).pooled = s.pooled := rfl
@[simp] theorem State.dropRegion_arrivals (rid : Nat) : (s.dropRegion rid).arrivals = s.arrivals := rfl
@[simp] theorem State.dropRegion_attestations (rid : Nat) : (s.dropRegion rid).attestations = s.attestations := rfl
@[simp] theorem State.dropRegion_doneRetry (rid : Nat) : (s.dropRegion rid).doneRetry = s.doneRetry := rfl
@[simp] theorem State.dropRegion_reservations (rid : Nat) : (s.dropRegion rid).reservations = s.reservations := rfl
@[simp] theorem State.dropRegion_hostReads (rid : Nat) : (s.dropRegion rid).hostReads = s.hostReads := rfl
@[simp] theorem State.dropRegion_coreReads (rid : Nat) : (s.dropRegion rid).coreReads = s.coreReads := rfl
@[simp] theorem State.dropRegion_coreFaults (rid : Nat) : (s.dropRegion rid).coreFaults = s.coreFaults := rfl
@[simp] theorem State.dropRegion_cables (rid : Nat) : (s.dropRegion rid).cables = s.cables := rfl
@[simp] theorem State.dropRegion_msix (rid : Nat) : (s.dropRegion rid).msix = s.msix := rfl
@[simp] theorem State.dropRegion_nextRid (rid : Nat) : (s.dropRegion rid).nextRid = s.nextRid := rfl
@[simp] theorem State.dropRegion_nextCtx (rid : Nat) : (s.dropRegion rid).nextCtx = s.nextCtx := rfl
@[simp] theorem State.dropRegion_nextLaunch (rid : Nat) : (s.dropRegion rid).nextLaunch = s.nextLaunch := rfl
@[simp] theorem State.dropRegion_nextAdmission (rid : Nat) : (s.dropRegion rid).nextAdmission = s.nextAdmission := rfl
@[simp] theorem State.dropRegion_cur (rid : Nat) : (s.dropRegion rid).cur = s.cur := rfl
@[simp] theorem State.dropRegion_agenda (rid : Nat) : (s.dropRegion rid).agenda = s.agenda := rfl
@[simp] theorem State.dropRegion_idle (rid : Nat) : (s.dropRegion rid).idle = s.idle := rfl
@[simp] theorem State.dropRegion_turnsLeft (rid : Nat) : (s.dropRegion rid).turnsLeft = s.turnsLeft := rfl
@[simp] theorem State.dropRegion_freeDraws (rid : Nat) : (s.dropRegion rid).freeDraws = s.freeDraws := rfl
@[simp] theorem State.dropRegion_deferReplies (rid : Nat) : (s.dropRegion rid).deferReplies = s.deferReplies := rfl
@[simp] theorem State.dropRegion_holdAccesses (rid : Nat) : (s.dropRegion rid).holdAccesses = s.holdAccesses := rfl
@[simp] theorem State.dropRegion_slowWalks (rid : Nat) : (s.dropRegion rid).slowWalks = s.slowWalks := rfl
@[simp] theorem State.thread_dropRegion (rid : Nat) (j : Nat) : (s.dropRegion rid).thread j = s.thread j := rfl
@[simp] theorem State.slot_dropRegion (rid : Nat) (j : Nat) : (s.dropRegion rid).slot j = s.slot j := rfl
@[simp] theorem State.device_dropRegion (rid : Nat) (j : Nat) : (s.dropRegion rid).device j = s.device j := rfl
@[simp] theorem State.partition_dropRegion (rid : Nat) (j : Nat) : (s.dropRegion rid).partition j = s.partition j := rfl
@[simp] theorem State.byte_dropRegion (rid : Nat) (j : Nat) : (s.dropRegion rid).byte j = s.byte j := rfl
@[simp] theorem State.sector_dropRegion (rid : Nat) (j : Nat) : (s.dropRegion rid).sector j = s.sector j := rfl
@[simp] theorem State.mark_dropRegion (rid : Nat) (j : Nat) : (s.dropRegion rid).mark j = s.mark j := rfl

/-! setDevice. -/

@[simp] theorem State.setDevice_now (dev : Nat) (d : Device) : (s.setDevice dev d).now = s.now := rfl
@[simp] theorem State.setDevice_mem (dev : Nat) (d : Device) : (s.setDevice dev d).mem = s.mem := rfl
@[simp] theorem State.setDevice_sect (dev : Nat) (d : Device) : (s.setDevice dev d).sect = s.sect := rfl
@[simp] theorem State.setDevice_marks (dev : Nat) (d : Device) : (s.setDevice dev d).marks = s.marks := rfl
@[simp] theorem State.setDevice_threads (dev : Nat) (d : Device) : (s.setDevice dev d).threads = s.threads := rfl
@[simp] theorem State.setDevice_slots (dev : Nat) (d : Device) : (s.setDevice dev d).slots = s.slots := rfl
@[simp] theorem State.setDevice_staging (dev : Nat) (d : Device) : (s.setDevice dev d).staging = s.staging := rfl
@[simp] theorem State.setDevice_regions (dev : Nat) (d : Device) : (s.setDevice dev d).regions = s.regions := rfl
@[simp] theorem State.setDevice_images (dev : Nat) (d : Device) : (s.setDevice dev d).images = s.images := rfl
@[simp] theorem State.setDevice_devices (dev : Nat) (d : Device) : (s.setDevice dev d).devices = SMap.put {} s.devices dev d := rfl
@[simp] theorem State.setDevice_partitions (dev : Nat) (d : Device) : (s.setDevice dev d).partitions = s.partitions := rfl
@[simp] theorem State.setDevice_tnext (dev : Nat) (d : Device) : (s.setDevice dev d).tnext = s.tnext := rfl
@[simp] theorem State.setDevice_saddles (dev : Nat) (d : Device) : (s.setDevice dev d).saddles = s.saddles := rfl
@[simp] theorem State.setDevice_residency (dev : Nat) (d : Device) : (s.setDevice dev d).residency = s.residency := rfl
@[simp] theorem State.setDevice_groups (dev : Nat) (d : Device) : (s.setDevice dev d).groups = s.groups := rfl
@[simp] theorem State.setDevice_tlb (dev : Nat) (d : Device) : (s.setDevice dev d).tlb = s.tlb := rfl
@[simp] theorem State.setDevice_walkCache (dev : Nat) (d : Device) : (s.setDevice dev d).walkCache = s.walkCache := rfl
@[simp] theorem State.setDevice_walks (dev : Nat) (d : Device) : (s.setDevice dev d).walks = s.walks := rfl
@[simp] theorem State.setDevice_walkQueue (dev : Nat) (d : Device) : (s.setDevice dev d).walkQueue = s.walkQueue := rfl
@[simp] theorem State.setDevice_replays (dev : Nat) (d : Device) : (s.setDevice dev d).replays = s.replays := rfl
@[simp] theorem State.setDevice_parked (dev : Nat) (d : Device) : (s.setDevice dev d).parked = s.parked := rfl
@[simp] theorem State.setDevice_invocations (dev : Nat) (d : Device) : (s.setDevice dev d).invocations = s.invocations := rfl
@[simp] theorem State.setDevice_results (dev : Nat) (d : Device) : (s.setDevice dev d).results = s.results := rfl
@[simp] theorem State.setDevice_replies (dev : Nat) (d : Device) : (s.setDevice dev d).replies = s.replies := rfl
@[simp] theorem State.setDevice_blockLoads (dev : Nat) (d : Device) : (s.setDevice dev d).blockLoads = s.blockLoads := rfl
@[simp] theorem State.setDevice_updates (dev : Nat) (d : Device) : (s.setDevice dev d).updates = s.updates := rfl
@[simp] theorem State.setDevice_flits (dev : Nat) (d : Device) : (s.setDevice dev d).flits = s.flits := rfl
@[simp] theorem State.setDevice_pooled (dev : Nat) (d : Device) : (s.setDevice dev d).pooled = s.pooled := rfl
@[simp] theorem State.setDevice_arrivals (dev : Nat) (d : Device) : (s.setDevice dev d).arrivals = s.arrivals := rfl
@[simp] theorem State.setDevice_attestations (dev : Nat) (d : Device) : (s.setDevice dev d).attestations = s.attestations := rfl
@[simp] theorem State.setDevice_doneRetry (dev : Nat) (d : Device) : (s.setDevice dev d).doneRetry = s.doneRetry := rfl
@[simp] theorem State.setDevice_reservations (dev : Nat) (d : Device) : (s.setDevice dev d).reservations = s.reservations := rfl
@[simp] theorem State.setDevice_hostReads (dev : Nat) (d : Device) : (s.setDevice dev d).hostReads = s.hostReads := rfl
@[simp] theorem State.setDevice_coreReads (dev : Nat) (d : Device) : (s.setDevice dev d).coreReads = s.coreReads := rfl
@[simp] theorem State.setDevice_coreFaults (dev : Nat) (d : Device) : (s.setDevice dev d).coreFaults = s.coreFaults := rfl
@[simp] theorem State.setDevice_cables (dev : Nat) (d : Device) : (s.setDevice dev d).cables = s.cables := rfl
@[simp] theorem State.setDevice_msix (dev : Nat) (d : Device) : (s.setDevice dev d).msix = s.msix := rfl
@[simp] theorem State.setDevice_nextRid (dev : Nat) (d : Device) : (s.setDevice dev d).nextRid = s.nextRid := rfl
@[simp] theorem State.setDevice_nextCtx (dev : Nat) (d : Device) : (s.setDevice dev d).nextCtx = s.nextCtx := rfl
@[simp] theorem State.setDevice_nextLaunch (dev : Nat) (d : Device) : (s.setDevice dev d).nextLaunch = s.nextLaunch := rfl
@[simp] theorem State.setDevice_nextAdmission (dev : Nat) (d : Device) : (s.setDevice dev d).nextAdmission = s.nextAdmission := rfl
@[simp] theorem State.setDevice_cur (dev : Nat) (d : Device) : (s.setDevice dev d).cur = s.cur := rfl
@[simp] theorem State.setDevice_agenda (dev : Nat) (d : Device) : (s.setDevice dev d).agenda = s.agenda := rfl
@[simp] theorem State.setDevice_idle (dev : Nat) (d : Device) : (s.setDevice dev d).idle = s.idle := rfl
@[simp] theorem State.setDevice_turnsLeft (dev : Nat) (d : Device) : (s.setDevice dev d).turnsLeft = s.turnsLeft := rfl
@[simp] theorem State.setDevice_freeDraws (dev : Nat) (d : Device) : (s.setDevice dev d).freeDraws = s.freeDraws := rfl
@[simp] theorem State.setDevice_deferReplies (dev : Nat) (d : Device) : (s.setDevice dev d).deferReplies = s.deferReplies := rfl
@[simp] theorem State.setDevice_holdAccesses (dev : Nat) (d : Device) : (s.setDevice dev d).holdAccesses = s.holdAccesses := rfl
@[simp] theorem State.setDevice_slowWalks (dev : Nat) (d : Device) : (s.setDevice dev d).slowWalks = s.slowWalks := rfl
@[simp] theorem State.thread_setDevice (dev : Nat) (d : Device) (j : Nat) : (s.setDevice dev d).thread j = s.thread j := rfl
@[simp] theorem State.slot_setDevice (dev : Nat) (d : Device) (j : Nat) : (s.setDevice dev d).slot j = s.slot j := rfl
@[simp] theorem State.region_setDevice (dev : Nat) (d : Device) (j : Nat) : (s.setDevice dev d).region j = s.region j := rfl
@[simp] theorem State.partition_setDevice (dev : Nat) (d : Device) (j : Nat) : (s.setDevice dev d).partition j = s.partition j := rfl
@[simp] theorem State.byte_setDevice (dev : Nat) (d : Device) (j : Nat) : (s.setDevice dev d).byte j = s.byte j := rfl
@[simp] theorem State.sector_setDevice (dev : Nat) (d : Device) (j : Nat) : (s.setDevice dev d).sector j = s.sector j := rfl
@[simp] theorem State.mark_setDevice (dev : Nat) (d : Device) (j : Nat) : (s.setDevice dev d).mark j = s.mark j := rfl

/-! setPartition. -/

@[simp] theorem State.setPartition_now (n : Nat) (p : Partition) : (s.setPartition n p).now = s.now := rfl
@[simp] theorem State.setPartition_mem (n : Nat) (p : Partition) : (s.setPartition n p).mem = s.mem := rfl
@[simp] theorem State.setPartition_sect (n : Nat) (p : Partition) : (s.setPartition n p).sect = s.sect := rfl
@[simp] theorem State.setPartition_marks (n : Nat) (p : Partition) : (s.setPartition n p).marks = s.marks := rfl
@[simp] theorem State.setPartition_threads (n : Nat) (p : Partition) : (s.setPartition n p).threads = s.threads := rfl
@[simp] theorem State.setPartition_slots (n : Nat) (p : Partition) : (s.setPartition n p).slots = s.slots := rfl
@[simp] theorem State.setPartition_staging (n : Nat) (p : Partition) : (s.setPartition n p).staging = s.staging := rfl
@[simp] theorem State.setPartition_regions (n : Nat) (p : Partition) : (s.setPartition n p).regions = s.regions := rfl
@[simp] theorem State.setPartition_images (n : Nat) (p : Partition) : (s.setPartition n p).images = s.images := rfl
@[simp] theorem State.setPartition_devices (n : Nat) (p : Partition) : (s.setPartition n p).devices = s.devices := rfl
@[simp] theorem State.setPartition_partitions (n : Nat) (p : Partition) : (s.setPartition n p).partitions = SMap.put {} s.partitions n p := rfl
@[simp] theorem State.setPartition_tnext (n : Nat) (p : Partition) : (s.setPartition n p).tnext = s.tnext := rfl
@[simp] theorem State.setPartition_saddles (n : Nat) (p : Partition) : (s.setPartition n p).saddles = s.saddles := rfl
@[simp] theorem State.setPartition_residency (n : Nat) (p : Partition) : (s.setPartition n p).residency = s.residency := rfl
@[simp] theorem State.setPartition_groups (n : Nat) (p : Partition) : (s.setPartition n p).groups = s.groups := rfl
@[simp] theorem State.setPartition_tlb (n : Nat) (p : Partition) : (s.setPartition n p).tlb = s.tlb := rfl
@[simp] theorem State.setPartition_walkCache (n : Nat) (p : Partition) : (s.setPartition n p).walkCache = s.walkCache := rfl
@[simp] theorem State.setPartition_walks (n : Nat) (p : Partition) : (s.setPartition n p).walks = s.walks := rfl
@[simp] theorem State.setPartition_walkQueue (n : Nat) (p : Partition) : (s.setPartition n p).walkQueue = s.walkQueue := rfl
@[simp] theorem State.setPartition_replays (n : Nat) (p : Partition) : (s.setPartition n p).replays = s.replays := rfl
@[simp] theorem State.setPartition_parked (n : Nat) (p : Partition) : (s.setPartition n p).parked = s.parked := rfl
@[simp] theorem State.setPartition_invocations (n : Nat) (p : Partition) : (s.setPartition n p).invocations = s.invocations := rfl
@[simp] theorem State.setPartition_results (n : Nat) (p : Partition) : (s.setPartition n p).results = s.results := rfl
@[simp] theorem State.setPartition_replies (n : Nat) (p : Partition) : (s.setPartition n p).replies = s.replies := rfl
@[simp] theorem State.setPartition_blockLoads (n : Nat) (p : Partition) : (s.setPartition n p).blockLoads = s.blockLoads := rfl
@[simp] theorem State.setPartition_updates (n : Nat) (p : Partition) : (s.setPartition n p).updates = s.updates := rfl
@[simp] theorem State.setPartition_flits (n : Nat) (p : Partition) : (s.setPartition n p).flits = s.flits := rfl
@[simp] theorem State.setPartition_pooled (n : Nat) (p : Partition) : (s.setPartition n p).pooled = s.pooled := rfl
@[simp] theorem State.setPartition_arrivals (n : Nat) (p : Partition) : (s.setPartition n p).arrivals = s.arrivals := rfl
@[simp] theorem State.setPartition_attestations (n : Nat) (p : Partition) : (s.setPartition n p).attestations = s.attestations := rfl
@[simp] theorem State.setPartition_doneRetry (n : Nat) (p : Partition) : (s.setPartition n p).doneRetry = s.doneRetry := rfl
@[simp] theorem State.setPartition_reservations (n : Nat) (p : Partition) : (s.setPartition n p).reservations = s.reservations := rfl
@[simp] theorem State.setPartition_hostReads (n : Nat) (p : Partition) : (s.setPartition n p).hostReads = s.hostReads := rfl
@[simp] theorem State.setPartition_coreReads (n : Nat) (p : Partition) : (s.setPartition n p).coreReads = s.coreReads := rfl
@[simp] theorem State.setPartition_coreFaults (n : Nat) (p : Partition) : (s.setPartition n p).coreFaults = s.coreFaults := rfl
@[simp] theorem State.setPartition_cables (n : Nat) (p : Partition) : (s.setPartition n p).cables = s.cables := rfl
@[simp] theorem State.setPartition_msix (n : Nat) (p : Partition) : (s.setPartition n p).msix = s.msix := rfl
@[simp] theorem State.setPartition_nextRid (n : Nat) (p : Partition) : (s.setPartition n p).nextRid = s.nextRid := rfl
@[simp] theorem State.setPartition_nextCtx (n : Nat) (p : Partition) : (s.setPartition n p).nextCtx = s.nextCtx := rfl
@[simp] theorem State.setPartition_nextLaunch (n : Nat) (p : Partition) : (s.setPartition n p).nextLaunch = s.nextLaunch := rfl
@[simp] theorem State.setPartition_nextAdmission (n : Nat) (p : Partition) : (s.setPartition n p).nextAdmission = s.nextAdmission := rfl
@[simp] theorem State.setPartition_cur (n : Nat) (p : Partition) : (s.setPartition n p).cur = s.cur := rfl
@[simp] theorem State.setPartition_agenda (n : Nat) (p : Partition) : (s.setPartition n p).agenda = s.agenda := rfl
@[simp] theorem State.setPartition_idle (n : Nat) (p : Partition) : (s.setPartition n p).idle = s.idle := rfl
@[simp] theorem State.setPartition_turnsLeft (n : Nat) (p : Partition) : (s.setPartition n p).turnsLeft = s.turnsLeft := rfl
@[simp] theorem State.setPartition_freeDraws (n : Nat) (p : Partition) : (s.setPartition n p).freeDraws = s.freeDraws := rfl
@[simp] theorem State.setPartition_deferReplies (n : Nat) (p : Partition) : (s.setPartition n p).deferReplies = s.deferReplies := rfl
@[simp] theorem State.setPartition_holdAccesses (n : Nat) (p : Partition) : (s.setPartition n p).holdAccesses = s.holdAccesses := rfl
@[simp] theorem State.setPartition_slowWalks (n : Nat) (p : Partition) : (s.setPartition n p).slowWalks = s.slowWalks := rfl
@[simp] theorem State.thread_setPartition (n : Nat) (p : Partition) (j : Nat) : (s.setPartition n p).thread j = s.thread j := rfl
@[simp] theorem State.slot_setPartition (n : Nat) (p : Partition) (j : Nat) : (s.setPartition n p).slot j = s.slot j := rfl
@[simp] theorem State.region_setPartition (n : Nat) (p : Partition) (j : Nat) : (s.setPartition n p).region j = s.region j := rfl
@[simp] theorem State.device_setPartition (n : Nat) (p : Partition) (j : Nat) : (s.setPartition n p).device j = s.device j := rfl
@[simp] theorem State.byte_setPartition (n : Nat) (p : Partition) (j : Nat) : (s.setPartition n p).byte j = s.byte j := rfl
@[simp] theorem State.sector_setPartition (n : Nat) (p : Partition) (j : Nat) : (s.setPartition n p).sector j = s.sector j := rfl
@[simp] theorem State.mark_setPartition (n : Nat) (p : Partition) (j : Nat) : (s.setPartition n p).mark j = s.mark j := rfl

/-! send. -/

@[simp] theorem State.send_now (f : Flit) : (s.send f).now = s.now := rfl
@[simp] theorem State.send_mem (f : Flit) : (s.send f).mem = s.mem := rfl
@[simp] theorem State.send_sect (f : Flit) : (s.send f).sect = s.sect := rfl
@[simp] theorem State.send_marks (f : Flit) : (s.send f).marks = s.marks := rfl
@[simp] theorem State.send_threads (f : Flit) : (s.send f).threads = s.threads := rfl
@[simp] theorem State.send_slots (f : Flit) : (s.send f).slots = s.slots := rfl
@[simp] theorem State.send_staging (f : Flit) : (s.send f).staging = s.staging := rfl
@[simp] theorem State.send_regions (f : Flit) : (s.send f).regions = s.regions := rfl
@[simp] theorem State.send_images (f : Flit) : (s.send f).images = s.images := rfl
@[simp] theorem State.send_devices (f : Flit) : (s.send f).devices = s.devices := rfl
@[simp] theorem State.send_partitions (f : Flit) : (s.send f).partitions = s.partitions := rfl
@[simp] theorem State.send_tnext (f : Flit) : (s.send f).tnext = s.tnext := rfl
@[simp] theorem State.send_saddles (f : Flit) : (s.send f).saddles = s.saddles := rfl
@[simp] theorem State.send_residency (f : Flit) : (s.send f).residency = s.residency := rfl
@[simp] theorem State.send_groups (f : Flit) : (s.send f).groups = s.groups := rfl
@[simp] theorem State.send_tlb (f : Flit) : (s.send f).tlb = s.tlb := rfl
@[simp] theorem State.send_walkCache (f : Flit) : (s.send f).walkCache = s.walkCache := rfl
@[simp] theorem State.send_walks (f : Flit) : (s.send f).walks = s.walks := rfl
@[simp] theorem State.send_walkQueue (f : Flit) : (s.send f).walkQueue = s.walkQueue := rfl
@[simp] theorem State.send_replays (f : Flit) : (s.send f).replays = s.replays := rfl
@[simp] theorem State.send_parked (f : Flit) : (s.send f).parked = s.parked := rfl
@[simp] theorem State.send_invocations (f : Flit) : (s.send f).invocations = s.invocations := rfl
@[simp] theorem State.send_results (f : Flit) : (s.send f).results = s.results := rfl
@[simp] theorem State.send_replies (f : Flit) : (s.send f).replies = s.replies := rfl
@[simp] theorem State.send_blockLoads (f : Flit) : (s.send f).blockLoads = s.blockLoads := rfl
@[simp] theorem State.send_updates (f : Flit) : (s.send f).updates = s.updates := rfl
@[simp] theorem State.send_flits (f : Flit) : (s.send f).flits = s.flits ++ [Flight.of f (f.asker.bind s.partOf)] := rfl
@[simp] theorem State.send_pooled (f : Flit) : (s.send f).pooled = s.pooled := rfl
@[simp] theorem State.send_arrivals (f : Flit) : (s.send f).arrivals = s.arrivals := rfl
@[simp] theorem State.send_attestations (f : Flit) : (s.send f).attestations = s.attestations := rfl
@[simp] theorem State.send_doneRetry (f : Flit) : (s.send f).doneRetry = s.doneRetry := rfl
@[simp] theorem State.send_reservations (f : Flit) : (s.send f).reservations = s.reservations := rfl
@[simp] theorem State.send_hostReads (f : Flit) : (s.send f).hostReads = s.hostReads := rfl
@[simp] theorem State.send_coreReads (f : Flit) : (s.send f).coreReads = s.coreReads := rfl
@[simp] theorem State.send_coreFaults (f : Flit) : (s.send f).coreFaults = s.coreFaults := rfl
@[simp] theorem State.send_cables (f : Flit) : (s.send f).cables = s.cables := rfl
@[simp] theorem State.send_msix (f : Flit) : (s.send f).msix = s.msix := rfl
@[simp] theorem State.send_nextRid (f : Flit) : (s.send f).nextRid = s.nextRid := rfl
@[simp] theorem State.send_nextCtx (f : Flit) : (s.send f).nextCtx = s.nextCtx := rfl
@[simp] theorem State.send_nextLaunch (f : Flit) : (s.send f).nextLaunch = s.nextLaunch := rfl
@[simp] theorem State.send_nextAdmission (f : Flit) : (s.send f).nextAdmission = s.nextAdmission := rfl
@[simp] theorem State.send_cur (f : Flit) : (s.send f).cur = s.cur := rfl
@[simp] theorem State.send_agenda (f : Flit) : (s.send f).agenda = s.agenda := rfl
@[simp] theorem State.send_idle (f : Flit) : (s.send f).idle = s.idle := rfl
@[simp] theorem State.send_turnsLeft (f : Flit) : (s.send f).turnsLeft = s.turnsLeft := rfl
@[simp] theorem State.send_freeDraws (f : Flit) : (s.send f).freeDraws = s.freeDraws := rfl
@[simp] theorem State.send_deferReplies (f : Flit) : (s.send f).deferReplies = s.deferReplies := rfl
@[simp] theorem State.send_holdAccesses (f : Flit) : (s.send f).holdAccesses = s.holdAccesses := rfl
@[simp] theorem State.send_slowWalks (f : Flit) : (s.send f).slowWalks = s.slowWalks := rfl
@[simp] theorem State.thread_send (f : Flit) (j : Nat) : (s.send f).thread j = s.thread j := rfl
@[simp] theorem State.slot_send (f : Flit) (j : Nat) : (s.send f).slot j = s.slot j := rfl
@[simp] theorem State.region_send (f : Flit) (j : Nat) : (s.send f).region j = s.region j := rfl
@[simp] theorem State.device_send (f : Flit) (j : Nat) : (s.send f).device j = s.device j := rfl
@[simp] theorem State.partition_send (f : Flit) (j : Nat) : (s.send f).partition j = s.partition j := rfl
@[simp] theorem State.byte_send (f : Flit) (j : Nat) : (s.send f).byte j = s.byte j := rfl
@[simp] theorem State.sector_send (f : Flit) (j : Nat) : (s.send f).sector j = s.sector j := rfl
@[simp] theorem State.mark_send (f : Flit) (j : Nat) : (s.send f).mark j = s.mark j := rfl

/-! setByte. -/

@[simp] theorem State.setByte_now (a : Nat) (v : Byte) : (s.setByte a v).now = s.now := rfl
@[simp] theorem State.setByte_mem (a : Nat) (v : Byte) : (s.setByte a v).mem = SMap.put 0 s.mem a v := rfl
@[simp] theorem State.setByte_sect (a : Nat) (v : Byte) : (s.setByte a v).sect = s.sect := rfl
@[simp] theorem State.setByte_marks (a : Nat) (v : Byte) : (s.setByte a v).marks = s.marks := rfl
@[simp] theorem State.setByte_threads (a : Nat) (v : Byte) : (s.setByte a v).threads = s.threads := rfl
@[simp] theorem State.setByte_slots (a : Nat) (v : Byte) : (s.setByte a v).slots = s.slots := rfl
@[simp] theorem State.setByte_staging (a : Nat) (v : Byte) : (s.setByte a v).staging = s.staging := rfl
@[simp] theorem State.setByte_regions (a : Nat) (v : Byte) : (s.setByte a v).regions = s.regions := rfl
@[simp] theorem State.setByte_images (a : Nat) (v : Byte) : (s.setByte a v).images = s.images := rfl
@[simp] theorem State.setByte_devices (a : Nat) (v : Byte) : (s.setByte a v).devices = s.devices := rfl
@[simp] theorem State.setByte_partitions (a : Nat) (v : Byte) : (s.setByte a v).partitions = s.partitions := rfl
@[simp] theorem State.setByte_tnext (a : Nat) (v : Byte) : (s.setByte a v).tnext = s.tnext := rfl
@[simp] theorem State.setByte_saddles (a : Nat) (v : Byte) : (s.setByte a v).saddles = s.saddles := rfl
@[simp] theorem State.setByte_residency (a : Nat) (v : Byte) : (s.setByte a v).residency = s.residency := rfl
@[simp] theorem State.setByte_groups (a : Nat) (v : Byte) : (s.setByte a v).groups = s.groups := rfl
@[simp] theorem State.setByte_tlb (a : Nat) (v : Byte) : (s.setByte a v).tlb = s.tlb := rfl
@[simp] theorem State.setByte_walkCache (a : Nat) (v : Byte) : (s.setByte a v).walkCache = s.walkCache := rfl
@[simp] theorem State.setByte_walks (a : Nat) (v : Byte) : (s.setByte a v).walks = s.walks := rfl
@[simp] theorem State.setByte_walkQueue (a : Nat) (v : Byte) : (s.setByte a v).walkQueue = s.walkQueue := rfl
@[simp] theorem State.setByte_replays (a : Nat) (v : Byte) : (s.setByte a v).replays = s.replays := rfl
@[simp] theorem State.setByte_parked (a : Nat) (v : Byte) : (s.setByte a v).parked = s.parked := rfl
@[simp] theorem State.setByte_invocations (a : Nat) (v : Byte) : (s.setByte a v).invocations = s.invocations := rfl
@[simp] theorem State.setByte_results (a : Nat) (v : Byte) : (s.setByte a v).results = s.results := rfl
@[simp] theorem State.setByte_replies (a : Nat) (v : Byte) : (s.setByte a v).replies = s.replies := rfl
@[simp] theorem State.setByte_blockLoads (a : Nat) (v : Byte) : (s.setByte a v).blockLoads = s.blockLoads := rfl
@[simp] theorem State.setByte_updates (a : Nat) (v : Byte) : (s.setByte a v).updates = s.updates := rfl
@[simp] theorem State.setByte_flits (a : Nat) (v : Byte) : (s.setByte a v).flits = s.flits := rfl
@[simp] theorem State.setByte_pooled (a : Nat) (v : Byte) : (s.setByte a v).pooled = s.pooled := rfl
@[simp] theorem State.setByte_arrivals (a : Nat) (v : Byte) : (s.setByte a v).arrivals = s.arrivals := rfl
@[simp] theorem State.setByte_attestations (a : Nat) (v : Byte) : (s.setByte a v).attestations = s.attestations := rfl
@[simp] theorem State.setByte_doneRetry (a : Nat) (v : Byte) : (s.setByte a v).doneRetry = s.doneRetry := rfl
@[simp] theorem State.setByte_reservations (a : Nat) (v : Byte) : (s.setByte a v).reservations = s.reservations := rfl
@[simp] theorem State.setByte_hostReads (a : Nat) (v : Byte) : (s.setByte a v).hostReads = s.hostReads := rfl
@[simp] theorem State.setByte_coreReads (a : Nat) (v : Byte) : (s.setByte a v).coreReads = s.coreReads := rfl
@[simp] theorem State.setByte_coreFaults (a : Nat) (v : Byte) : (s.setByte a v).coreFaults = s.coreFaults := rfl
@[simp] theorem State.setByte_cables (a : Nat) (v : Byte) : (s.setByte a v).cables = s.cables := rfl
@[simp] theorem State.setByte_msix (a : Nat) (v : Byte) : (s.setByte a v).msix = s.msix := rfl
@[simp] theorem State.setByte_nextRid (a : Nat) (v : Byte) : (s.setByte a v).nextRid = s.nextRid := rfl
@[simp] theorem State.setByte_nextCtx (a : Nat) (v : Byte) : (s.setByte a v).nextCtx = s.nextCtx := rfl
@[simp] theorem State.setByte_nextLaunch (a : Nat) (v : Byte) : (s.setByte a v).nextLaunch = s.nextLaunch := rfl
@[simp] theorem State.setByte_nextAdmission (a : Nat) (v : Byte) : (s.setByte a v).nextAdmission = s.nextAdmission := rfl
@[simp] theorem State.setByte_cur (a : Nat) (v : Byte) : (s.setByte a v).cur = s.cur := rfl
@[simp] theorem State.setByte_agenda (a : Nat) (v : Byte) : (s.setByte a v).agenda = s.agenda := rfl
@[simp] theorem State.setByte_idle (a : Nat) (v : Byte) : (s.setByte a v).idle = s.idle := rfl
@[simp] theorem State.setByte_turnsLeft (a : Nat) (v : Byte) : (s.setByte a v).turnsLeft = s.turnsLeft := rfl
@[simp] theorem State.setByte_freeDraws (a : Nat) (v : Byte) : (s.setByte a v).freeDraws = s.freeDraws := rfl
@[simp] theorem State.setByte_deferReplies (a : Nat) (v : Byte) : (s.setByte a v).deferReplies = s.deferReplies := rfl
@[simp] theorem State.setByte_holdAccesses (a : Nat) (v : Byte) : (s.setByte a v).holdAccesses = s.holdAccesses := rfl
@[simp] theorem State.setByte_slowWalks (a : Nat) (v : Byte) : (s.setByte a v).slowWalks = s.slowWalks := rfl
@[simp] theorem State.thread_setByte (a : Nat) (v : Byte) (j : Nat) : (s.setByte a v).thread j = s.thread j := rfl
@[simp] theorem State.slot_setByte (a : Nat) (v : Byte) (j : Nat) : (s.setByte a v).slot j = s.slot j := rfl
@[simp] theorem State.region_setByte (a : Nat) (v : Byte) (j : Nat) : (s.setByte a v).region j = s.region j := rfl
@[simp] theorem State.device_setByte (a : Nat) (v : Byte) (j : Nat) : (s.setByte a v).device j = s.device j := rfl
@[simp] theorem State.partition_setByte (a : Nat) (v : Byte) (j : Nat) : (s.setByte a v).partition j = s.partition j := rfl
@[simp] theorem State.sector_setByte (a : Nat) (v : Byte) (j : Nat) : (s.setByte a v).sector j = s.sector j := rfl
@[simp] theorem State.mark_setByte (a : Nat) (v : Byte) (j : Nat) : (s.setByte a v).mark j = s.mark j := rfl

/-! writeBytes. -/

@[simp] theorem State.writeBytes_now (a : Nat) (bs : List Byte) : (s.writeBytes a bs).now = s.now := rfl
@[simp] theorem State.writeBytes_mem (a : Nat) (bs : List Byte) : (s.writeBytes a bs).mem = memWrite s.mem a bs := rfl
@[simp] theorem State.writeBytes_sect (a : Nat) (bs : List Byte) : (s.writeBytes a bs).sect = s.sect := rfl
@[simp] theorem State.writeBytes_marks (a : Nat) (bs : List Byte) : (s.writeBytes a bs).marks = s.marks := rfl
@[simp] theorem State.writeBytes_threads (a : Nat) (bs : List Byte) : (s.writeBytes a bs).threads = s.threads := rfl
@[simp] theorem State.writeBytes_slots (a : Nat) (bs : List Byte) : (s.writeBytes a bs).slots = s.slots := rfl
@[simp] theorem State.writeBytes_staging (a : Nat) (bs : List Byte) : (s.writeBytes a bs).staging = s.staging := rfl
@[simp] theorem State.writeBytes_regions (a : Nat) (bs : List Byte) : (s.writeBytes a bs).regions = s.regions := rfl
@[simp] theorem State.writeBytes_images (a : Nat) (bs : List Byte) : (s.writeBytes a bs).images = s.images := rfl
@[simp] theorem State.writeBytes_devices (a : Nat) (bs : List Byte) : (s.writeBytes a bs).devices = s.devices := rfl
@[simp] theorem State.writeBytes_partitions (a : Nat) (bs : List Byte) : (s.writeBytes a bs).partitions = s.partitions := rfl
@[simp] theorem State.writeBytes_tnext (a : Nat) (bs : List Byte) : (s.writeBytes a bs).tnext = s.tnext := rfl
@[simp] theorem State.writeBytes_saddles (a : Nat) (bs : List Byte) : (s.writeBytes a bs).saddles = s.saddles := rfl
@[simp] theorem State.writeBytes_residency (a : Nat) (bs : List Byte) : (s.writeBytes a bs).residency = s.residency := rfl
@[simp] theorem State.writeBytes_groups (a : Nat) (bs : List Byte) : (s.writeBytes a bs).groups = s.groups := rfl
@[simp] theorem State.writeBytes_tlb (a : Nat) (bs : List Byte) : (s.writeBytes a bs).tlb = s.tlb := rfl
@[simp] theorem State.writeBytes_walkCache (a : Nat) (bs : List Byte) : (s.writeBytes a bs).walkCache = s.walkCache := rfl
@[simp] theorem State.writeBytes_walks (a : Nat) (bs : List Byte) : (s.writeBytes a bs).walks = s.walks := rfl
@[simp] theorem State.writeBytes_walkQueue (a : Nat) (bs : List Byte) : (s.writeBytes a bs).walkQueue = s.walkQueue := rfl
@[simp] theorem State.writeBytes_replays (a : Nat) (bs : List Byte) : (s.writeBytes a bs).replays = s.replays := rfl
@[simp] theorem State.writeBytes_parked (a : Nat) (bs : List Byte) : (s.writeBytes a bs).parked = s.parked := rfl
@[simp] theorem State.writeBytes_invocations (a : Nat) (bs : List Byte) : (s.writeBytes a bs).invocations = s.invocations := rfl
@[simp] theorem State.writeBytes_results (a : Nat) (bs : List Byte) : (s.writeBytes a bs).results = s.results := rfl
@[simp] theorem State.writeBytes_replies (a : Nat) (bs : List Byte) : (s.writeBytes a bs).replies = s.replies := rfl
@[simp] theorem State.writeBytes_blockLoads (a : Nat) (bs : List Byte) : (s.writeBytes a bs).blockLoads = s.blockLoads := rfl
@[simp] theorem State.writeBytes_updates (a : Nat) (bs : List Byte) : (s.writeBytes a bs).updates = s.updates := rfl
@[simp] theorem State.writeBytes_flits (a : Nat) (bs : List Byte) : (s.writeBytes a bs).flits = s.flits := rfl
@[simp] theorem State.writeBytes_pooled (a : Nat) (bs : List Byte) : (s.writeBytes a bs).pooled = s.pooled := rfl
@[simp] theorem State.writeBytes_arrivals (a : Nat) (bs : List Byte) : (s.writeBytes a bs).arrivals = s.arrivals := rfl
@[simp] theorem State.writeBytes_attestations (a : Nat) (bs : List Byte) : (s.writeBytes a bs).attestations = s.attestations := rfl
@[simp] theorem State.writeBytes_doneRetry (a : Nat) (bs : List Byte) : (s.writeBytes a bs).doneRetry = s.doneRetry := rfl
@[simp] theorem State.writeBytes_reservations (a : Nat) (bs : List Byte) : (s.writeBytes a bs).reservations = s.reservations := rfl
@[simp] theorem State.writeBytes_hostReads (a : Nat) (bs : List Byte) : (s.writeBytes a bs).hostReads = s.hostReads := rfl
@[simp] theorem State.writeBytes_coreReads (a : Nat) (bs : List Byte) : (s.writeBytes a bs).coreReads = s.coreReads := rfl
@[simp] theorem State.writeBytes_coreFaults (a : Nat) (bs : List Byte) : (s.writeBytes a bs).coreFaults = s.coreFaults := rfl
@[simp] theorem State.writeBytes_cables (a : Nat) (bs : List Byte) : (s.writeBytes a bs).cables = s.cables := rfl
@[simp] theorem State.writeBytes_msix (a : Nat) (bs : List Byte) : (s.writeBytes a bs).msix = s.msix := rfl
@[simp] theorem State.writeBytes_nextRid (a : Nat) (bs : List Byte) : (s.writeBytes a bs).nextRid = s.nextRid := rfl
@[simp] theorem State.writeBytes_nextCtx (a : Nat) (bs : List Byte) : (s.writeBytes a bs).nextCtx = s.nextCtx := rfl
@[simp] theorem State.writeBytes_nextLaunch (a : Nat) (bs : List Byte) : (s.writeBytes a bs).nextLaunch = s.nextLaunch := rfl
@[simp] theorem State.writeBytes_nextAdmission (a : Nat) (bs : List Byte) : (s.writeBytes a bs).nextAdmission = s.nextAdmission := rfl
@[simp] theorem State.writeBytes_cur (a : Nat) (bs : List Byte) : (s.writeBytes a bs).cur = s.cur := rfl
@[simp] theorem State.writeBytes_agenda (a : Nat) (bs : List Byte) : (s.writeBytes a bs).agenda = s.agenda := rfl
@[simp] theorem State.writeBytes_idle (a : Nat) (bs : List Byte) : (s.writeBytes a bs).idle = s.idle := rfl
@[simp] theorem State.writeBytes_turnsLeft (a : Nat) (bs : List Byte) : (s.writeBytes a bs).turnsLeft = s.turnsLeft := rfl
@[simp] theorem State.writeBytes_freeDraws (a : Nat) (bs : List Byte) : (s.writeBytes a bs).freeDraws = s.freeDraws := rfl
@[simp] theorem State.writeBytes_deferReplies (a : Nat) (bs : List Byte) : (s.writeBytes a bs).deferReplies = s.deferReplies := rfl
@[simp] theorem State.writeBytes_holdAccesses (a : Nat) (bs : List Byte) : (s.writeBytes a bs).holdAccesses = s.holdAccesses := rfl
@[simp] theorem State.writeBytes_slowWalks (a : Nat) (bs : List Byte) : (s.writeBytes a bs).slowWalks = s.slowWalks := rfl
@[simp] theorem State.thread_writeBytes (a : Nat) (bs : List Byte) (j : Nat) : (s.writeBytes a bs).thread j = s.thread j := rfl
@[simp] theorem State.slot_writeBytes (a : Nat) (bs : List Byte) (j : Nat) : (s.writeBytes a bs).slot j = s.slot j := rfl
@[simp] theorem State.region_writeBytes (a : Nat) (bs : List Byte) (j : Nat) : (s.writeBytes a bs).region j = s.region j := rfl
@[simp] theorem State.device_writeBytes (a : Nat) (bs : List Byte) (j : Nat) : (s.writeBytes a bs).device j = s.device j := rfl
@[simp] theorem State.partition_writeBytes (a : Nat) (bs : List Byte) (j : Nat) : (s.writeBytes a bs).partition j = s.partition j := rfl
@[simp] theorem State.sector_writeBytes (a : Nat) (bs : List Byte) (j : Nat) : (s.writeBytes a bs).sector j = s.sector j := rfl
@[simp] theorem State.mark_writeBytes (a : Nat) (bs : List Byte) (j : Nat) : (s.writeBytes a bs).mark j = s.mark j := rfl

/-! zeroRange. -/

@[simp] theorem State.zeroRange_now (lo n : Nat) : (s.zeroRange lo n).now = s.now := rfl
@[simp] theorem State.zeroRange_mem (lo n : Nat) : (s.zeroRange lo n).mem = s.mem.filter (fun c => c.1 < lo || lo + n ≤ c.1) := rfl
@[simp] theorem State.zeroRange_sect (lo n : Nat) : (s.zeroRange lo n).sect = s.sect := rfl
@[simp] theorem State.zeroRange_marks (lo n : Nat) : (s.zeroRange lo n).marks = s.marks := rfl
@[simp] theorem State.zeroRange_threads (lo n : Nat) : (s.zeroRange lo n).threads = s.threads := rfl
@[simp] theorem State.zeroRange_slots (lo n : Nat) : (s.zeroRange lo n).slots = s.slots := rfl
@[simp] theorem State.zeroRange_staging (lo n : Nat) : (s.zeroRange lo n).staging = s.staging := rfl
@[simp] theorem State.zeroRange_regions (lo n : Nat) : (s.zeroRange lo n).regions = s.regions := rfl
@[simp] theorem State.zeroRange_images (lo n : Nat) : (s.zeroRange lo n).images = s.images := rfl
@[simp] theorem State.zeroRange_devices (lo n : Nat) : (s.zeroRange lo n).devices = s.devices := rfl
@[simp] theorem State.zeroRange_partitions (lo n : Nat) : (s.zeroRange lo n).partitions = s.partitions := rfl
@[simp] theorem State.zeroRange_tnext (lo n : Nat) : (s.zeroRange lo n).tnext = s.tnext := rfl
@[simp] theorem State.zeroRange_saddles (lo n : Nat) : (s.zeroRange lo n).saddles = s.saddles := rfl
@[simp] theorem State.zeroRange_residency (lo n : Nat) : (s.zeroRange lo n).residency = s.residency := rfl
@[simp] theorem State.zeroRange_groups (lo n : Nat) : (s.zeroRange lo n).groups = s.groups := rfl
@[simp] theorem State.zeroRange_tlb (lo n : Nat) : (s.zeroRange lo n).tlb = s.tlb := rfl
@[simp] theorem State.zeroRange_walkCache (lo n : Nat) : (s.zeroRange lo n).walkCache = s.walkCache := rfl
@[simp] theorem State.zeroRange_walks (lo n : Nat) : (s.zeroRange lo n).walks = s.walks := rfl
@[simp] theorem State.zeroRange_walkQueue (lo n : Nat) : (s.zeroRange lo n).walkQueue = s.walkQueue := rfl
@[simp] theorem State.zeroRange_replays (lo n : Nat) : (s.zeroRange lo n).replays = s.replays := rfl
@[simp] theorem State.zeroRange_parked (lo n : Nat) : (s.zeroRange lo n).parked = s.parked := rfl
@[simp] theorem State.zeroRange_invocations (lo n : Nat) : (s.zeroRange lo n).invocations = s.invocations := rfl
@[simp] theorem State.zeroRange_results (lo n : Nat) : (s.zeroRange lo n).results = s.results := rfl
@[simp] theorem State.zeroRange_replies (lo n : Nat) : (s.zeroRange lo n).replies = s.replies := rfl
@[simp] theorem State.zeroRange_blockLoads (lo n : Nat) : (s.zeroRange lo n).blockLoads = s.blockLoads := rfl
@[simp] theorem State.zeroRange_updates (lo n : Nat) : (s.zeroRange lo n).updates = s.updates := rfl
@[simp] theorem State.zeroRange_flits (lo n : Nat) : (s.zeroRange lo n).flits = s.flits := rfl
@[simp] theorem State.zeroRange_pooled (lo n : Nat) : (s.zeroRange lo n).pooled = s.pooled := rfl
@[simp] theorem State.zeroRange_arrivals (lo n : Nat) : (s.zeroRange lo n).arrivals = s.arrivals := rfl
@[simp] theorem State.zeroRange_attestations (lo n : Nat) : (s.zeroRange lo n).attestations = s.attestations := rfl
@[simp] theorem State.zeroRange_doneRetry (lo n : Nat) : (s.zeroRange lo n).doneRetry = s.doneRetry := rfl
@[simp] theorem State.zeroRange_reservations (lo n : Nat) : (s.zeroRange lo n).reservations = s.reservations := rfl
@[simp] theorem State.zeroRange_hostReads (lo n : Nat) : (s.zeroRange lo n).hostReads = s.hostReads := rfl
@[simp] theorem State.zeroRange_coreReads (lo n : Nat) : (s.zeroRange lo n).coreReads = s.coreReads := rfl
@[simp] theorem State.zeroRange_coreFaults (lo n : Nat) : (s.zeroRange lo n).coreFaults = s.coreFaults := rfl
@[simp] theorem State.zeroRange_cables (lo n : Nat) : (s.zeroRange lo n).cables = s.cables := rfl
@[simp] theorem State.zeroRange_msix (lo n : Nat) : (s.zeroRange lo n).msix = s.msix := rfl
@[simp] theorem State.zeroRange_nextRid (lo n : Nat) : (s.zeroRange lo n).nextRid = s.nextRid := rfl
@[simp] theorem State.zeroRange_nextCtx (lo n : Nat) : (s.zeroRange lo n).nextCtx = s.nextCtx := rfl
@[simp] theorem State.zeroRange_nextLaunch (lo n : Nat) : (s.zeroRange lo n).nextLaunch = s.nextLaunch := rfl
@[simp] theorem State.zeroRange_nextAdmission (lo n : Nat) : (s.zeroRange lo n).nextAdmission = s.nextAdmission := rfl
@[simp] theorem State.zeroRange_cur (lo n : Nat) : (s.zeroRange lo n).cur = s.cur := rfl
@[simp] theorem State.zeroRange_agenda (lo n : Nat) : (s.zeroRange lo n).agenda = s.agenda := rfl
@[simp] theorem State.zeroRange_idle (lo n : Nat) : (s.zeroRange lo n).idle = s.idle := rfl
@[simp] theorem State.zeroRange_turnsLeft (lo n : Nat) : (s.zeroRange lo n).turnsLeft = s.turnsLeft := rfl
@[simp] theorem State.zeroRange_freeDraws (lo n : Nat) : (s.zeroRange lo n).freeDraws = s.freeDraws := rfl
@[simp] theorem State.zeroRange_deferReplies (lo n : Nat) : (s.zeroRange lo n).deferReplies = s.deferReplies := rfl
@[simp] theorem State.zeroRange_holdAccesses (lo n : Nat) : (s.zeroRange lo n).holdAccesses = s.holdAccesses := rfl
@[simp] theorem State.zeroRange_slowWalks (lo n : Nat) : (s.zeroRange lo n).slowWalks = s.slowWalks := rfl
@[simp] theorem State.thread_zeroRange (lo n : Nat) (j : Nat) : (s.zeroRange lo n).thread j = s.thread j := rfl
@[simp] theorem State.slot_zeroRange (lo n : Nat) (j : Nat) : (s.zeroRange lo n).slot j = s.slot j := rfl
@[simp] theorem State.region_zeroRange (lo n : Nat) (j : Nat) : (s.zeroRange lo n).region j = s.region j := rfl
@[simp] theorem State.device_zeroRange (lo n : Nat) (j : Nat) : (s.zeroRange lo n).device j = s.device j := rfl
@[simp] theorem State.partition_zeroRange (lo n : Nat) (j : Nat) : (s.zeroRange lo n).partition j = s.partition j := rfl
@[simp] theorem State.sector_zeroRange (lo n : Nat) (j : Nat) : (s.zeroRange lo n).sector j = s.sector j := rfl
@[simp] theorem State.mark_zeroRange (lo n : Nat) (j : Nat) : (s.zeroRange lo n).mark j = s.mark j := rfl

/-! setSector. -/

@[simp] theorem State.setSector_now (k : Nat) (v : SectorState) : (s.setSector k v).now = s.now := rfl
@[simp] theorem State.setSector_mem (k : Nat) (v : SectorState) : (s.setSector k v).mem = s.mem := rfl
@[simp] theorem State.setSector_sect (k : Nat) (v : SectorState) : (s.setSector k v).sect = SMap.put .empty s.sect k v := rfl
@[simp] theorem State.setSector_marks (k : Nat) (v : SectorState) : (s.setSector k v).marks = s.marks := rfl
@[simp] theorem State.setSector_threads (k : Nat) (v : SectorState) : (s.setSector k v).threads = s.threads := rfl
@[simp] theorem State.setSector_slots (k : Nat) (v : SectorState) : (s.setSector k v).slots = s.slots := rfl
@[simp] theorem State.setSector_staging (k : Nat) (v : SectorState) : (s.setSector k v).staging = s.staging := rfl
@[simp] theorem State.setSector_regions (k : Nat) (v : SectorState) : (s.setSector k v).regions = s.regions := rfl
@[simp] theorem State.setSector_images (k : Nat) (v : SectorState) : (s.setSector k v).images = s.images := rfl
@[simp] theorem State.setSector_devices (k : Nat) (v : SectorState) : (s.setSector k v).devices = s.devices := rfl
@[simp] theorem State.setSector_partitions (k : Nat) (v : SectorState) : (s.setSector k v).partitions = s.partitions := rfl
@[simp] theorem State.setSector_tnext (k : Nat) (v : SectorState) : (s.setSector k v).tnext = s.tnext := rfl
@[simp] theorem State.setSector_saddles (k : Nat) (v : SectorState) : (s.setSector k v).saddles = s.saddles := rfl
@[simp] theorem State.setSector_residency (k : Nat) (v : SectorState) : (s.setSector k v).residency = s.residency := rfl
@[simp] theorem State.setSector_groups (k : Nat) (v : SectorState) : (s.setSector k v).groups = s.groups := rfl
@[simp] theorem State.setSector_tlb (k : Nat) (v : SectorState) : (s.setSector k v).tlb = s.tlb := rfl
@[simp] theorem State.setSector_walkCache (k : Nat) (v : SectorState) : (s.setSector k v).walkCache = s.walkCache := rfl
@[simp] theorem State.setSector_walks (k : Nat) (v : SectorState) : (s.setSector k v).walks = s.walks := rfl
@[simp] theorem State.setSector_walkQueue (k : Nat) (v : SectorState) : (s.setSector k v).walkQueue = s.walkQueue := rfl
@[simp] theorem State.setSector_replays (k : Nat) (v : SectorState) : (s.setSector k v).replays = if s.sector k = v then s.replays else s.replays.filter (fun e => e.sector != k) := rfl
@[simp] theorem State.setSector_parked (k : Nat) (v : SectorState) : (s.setSector k v).parked = s.parked := rfl
@[simp] theorem State.setSector_invocations (k : Nat) (v : SectorState) : (s.setSector k v).invocations = s.invocations := rfl
@[simp] theorem State.setSector_results (k : Nat) (v : SectorState) : (s.setSector k v).results = s.results := rfl
@[simp] theorem State.setSector_replies (k : Nat) (v : SectorState) : (s.setSector k v).replies = s.replies := rfl
@[simp] theorem State.setSector_blockLoads (k : Nat) (v : SectorState) : (s.setSector k v).blockLoads = s.blockLoads := rfl
@[simp] theorem State.setSector_updates (k : Nat) (v : SectorState) : (s.setSector k v).updates = s.updates := rfl
@[simp] theorem State.setSector_flits (k : Nat) (v : SectorState) : (s.setSector k v).flits = s.flits := rfl
@[simp] theorem State.setSector_pooled (k : Nat) (v : SectorState) : (s.setSector k v).pooled = s.pooled := rfl
@[simp] theorem State.setSector_arrivals (k : Nat) (v : SectorState) : (s.setSector k v).arrivals = s.arrivals := rfl
@[simp] theorem State.setSector_attestations (k : Nat) (v : SectorState) : (s.setSector k v).attestations = s.attestations := rfl
@[simp] theorem State.setSector_doneRetry (k : Nat) (v : SectorState) : (s.setSector k v).doneRetry = s.doneRetry := rfl
@[simp] theorem State.setSector_reservations (k : Nat) (v : SectorState) : (s.setSector k v).reservations = s.reservations := rfl
@[simp] theorem State.setSector_hostReads (k : Nat) (v : SectorState) : (s.setSector k v).hostReads = s.hostReads := rfl
@[simp] theorem State.setSector_coreReads (k : Nat) (v : SectorState) : (s.setSector k v).coreReads = s.coreReads := rfl
@[simp] theorem State.setSector_coreFaults (k : Nat) (v : SectorState) : (s.setSector k v).coreFaults = s.coreFaults := rfl
@[simp] theorem State.setSector_cables (k : Nat) (v : SectorState) : (s.setSector k v).cables = s.cables := rfl
@[simp] theorem State.setSector_msix (k : Nat) (v : SectorState) : (s.setSector k v).msix = s.msix := rfl
@[simp] theorem State.setSector_nextRid (k : Nat) (v : SectorState) : (s.setSector k v).nextRid = s.nextRid := rfl
@[simp] theorem State.setSector_nextCtx (k : Nat) (v : SectorState) : (s.setSector k v).nextCtx = s.nextCtx := rfl
@[simp] theorem State.setSector_nextLaunch (k : Nat) (v : SectorState) : (s.setSector k v).nextLaunch = s.nextLaunch := rfl
@[simp] theorem State.setSector_nextAdmission (k : Nat) (v : SectorState) : (s.setSector k v).nextAdmission = s.nextAdmission := rfl
@[simp] theorem State.setSector_cur (k : Nat) (v : SectorState) : (s.setSector k v).cur = s.cur := rfl
@[simp] theorem State.setSector_agenda (k : Nat) (v : SectorState) : (s.setSector k v).agenda = s.agenda := rfl
@[simp] theorem State.setSector_idle (k : Nat) (v : SectorState) : (s.setSector k v).idle = s.idle := rfl
@[simp] theorem State.setSector_turnsLeft (k : Nat) (v : SectorState) : (s.setSector k v).turnsLeft = s.turnsLeft := rfl
@[simp] theorem State.setSector_freeDraws (k : Nat) (v : SectorState) : (s.setSector k v).freeDraws = s.freeDraws := rfl
@[simp] theorem State.setSector_deferReplies (k : Nat) (v : SectorState) : (s.setSector k v).deferReplies = s.deferReplies := rfl
@[simp] theorem State.setSector_holdAccesses (k : Nat) (v : SectorState) : (s.setSector k v).holdAccesses = s.holdAccesses := rfl
@[simp] theorem State.setSector_slowWalks (k : Nat) (v : SectorState) : (s.setSector k v).slowWalks = s.slowWalks := rfl
@[simp] theorem State.thread_setSector (k : Nat) (v : SectorState) (j : Nat) : (s.setSector k v).thread j = s.thread j := rfl
@[simp] theorem State.slot_setSector (k : Nat) (v : SectorState) (j : Nat) : (s.setSector k v).slot j = s.slot j := rfl
@[simp] theorem State.region_setSector (k : Nat) (v : SectorState) (j : Nat) : (s.setSector k v).region j = s.region j := rfl
@[simp] theorem State.device_setSector (k : Nat) (v : SectorState) (j : Nat) : (s.setSector k v).device j = s.device j := rfl
@[simp] theorem State.partition_setSector (k : Nat) (v : SectorState) (j : Nat) : (s.setSector k v).partition j = s.partition j := rfl
@[simp] theorem State.byte_setSector (k : Nat) (v : SectorState) (j : Nat) : (s.setSector k v).byte j = s.byte j := rfl
@[simp] theorem State.mark_setSector (k : Nat) (v : SectorState) (j : Nat) : (s.setSector k v).mark j = s.mark j := rfl

/-! setMark. -/

@[simp] theorem State.setMark_now (k : Nat) (v : WalkMark) : (s.setMark k v).now = s.now := rfl
@[simp] theorem State.setMark_mem (k : Nat) (v : WalkMark) : (s.setMark k v).mem = s.mem := rfl
@[simp] theorem State.setMark_sect (k : Nat) (v : WalkMark) : (s.setMark k v).sect = s.sect := rfl
@[simp] theorem State.setMark_marks (k : Nat) (v : WalkMark) : (s.setMark k v).marks = SMap.put .clear s.marks k v := rfl
@[simp] theorem State.setMark_threads (k : Nat) (v : WalkMark) : (s.setMark k v).threads = s.threads := rfl
@[simp] theorem State.setMark_slots (k : Nat) (v : WalkMark) : (s.setMark k v).slots = s.slots := rfl
@[simp] theorem State.setMark_staging (k : Nat) (v : WalkMark) : (s.setMark k v).staging = s.staging := rfl
@[simp] theorem State.setMark_regions (k : Nat) (v : WalkMark) : (s.setMark k v).regions = s.regions := rfl
@[simp] theorem State.setMark_images (k : Nat) (v : WalkMark) : (s.setMark k v).images = s.images := rfl
@[simp] theorem State.setMark_devices (k : Nat) (v : WalkMark) : (s.setMark k v).devices = s.devices := rfl
@[simp] theorem State.setMark_partitions (k : Nat) (v : WalkMark) : (s.setMark k v).partitions = s.partitions := rfl
@[simp] theorem State.setMark_tnext (k : Nat) (v : WalkMark) : (s.setMark k v).tnext = s.tnext := rfl
@[simp] theorem State.setMark_saddles (k : Nat) (v : WalkMark) : (s.setMark k v).saddles = s.saddles := rfl
@[simp] theorem State.setMark_residency (k : Nat) (v : WalkMark) : (s.setMark k v).residency = s.residency := rfl
@[simp] theorem State.setMark_groups (k : Nat) (v : WalkMark) : (s.setMark k v).groups = s.groups := rfl
@[simp] theorem State.setMark_tlb (k : Nat) (v : WalkMark) : (s.setMark k v).tlb = s.tlb := rfl
@[simp] theorem State.setMark_walkCache (k : Nat) (v : WalkMark) : (s.setMark k v).walkCache = s.walkCache := rfl
@[simp] theorem State.setMark_walks (k : Nat) (v : WalkMark) : (s.setMark k v).walks = s.walks := rfl
@[simp] theorem State.setMark_walkQueue (k : Nat) (v : WalkMark) : (s.setMark k v).walkQueue = s.walkQueue := rfl
@[simp] theorem State.setMark_replays (k : Nat) (v : WalkMark) : (s.setMark k v).replays = s.replays := rfl
@[simp] theorem State.setMark_parked (k : Nat) (v : WalkMark) : (s.setMark k v).parked = s.parked := rfl
@[simp] theorem State.setMark_invocations (k : Nat) (v : WalkMark) : (s.setMark k v).invocations = s.invocations := rfl
@[simp] theorem State.setMark_results (k : Nat) (v : WalkMark) : (s.setMark k v).results = s.results := rfl
@[simp] theorem State.setMark_replies (k : Nat) (v : WalkMark) : (s.setMark k v).replies = s.replies := rfl
@[simp] theorem State.setMark_blockLoads (k : Nat) (v : WalkMark) : (s.setMark k v).blockLoads = s.blockLoads := rfl
@[simp] theorem State.setMark_updates (k : Nat) (v : WalkMark) : (s.setMark k v).updates = s.updates := rfl
@[simp] theorem State.setMark_flits (k : Nat) (v : WalkMark) : (s.setMark k v).flits = s.flits := rfl
@[simp] theorem State.setMark_pooled (k : Nat) (v : WalkMark) : (s.setMark k v).pooled = s.pooled := rfl
@[simp] theorem State.setMark_arrivals (k : Nat) (v : WalkMark) : (s.setMark k v).arrivals = s.arrivals := rfl
@[simp] theorem State.setMark_attestations (k : Nat) (v : WalkMark) : (s.setMark k v).attestations = s.attestations := rfl
@[simp] theorem State.setMark_doneRetry (k : Nat) (v : WalkMark) : (s.setMark k v).doneRetry = s.doneRetry := rfl
@[simp] theorem State.setMark_reservations (k : Nat) (v : WalkMark) : (s.setMark k v).reservations = s.reservations := rfl
@[simp] theorem State.setMark_hostReads (k : Nat) (v : WalkMark) : (s.setMark k v).hostReads = s.hostReads := rfl
@[simp] theorem State.setMark_coreReads (k : Nat) (v : WalkMark) : (s.setMark k v).coreReads = s.coreReads := rfl
@[simp] theorem State.setMark_coreFaults (k : Nat) (v : WalkMark) : (s.setMark k v).coreFaults = s.coreFaults := rfl
@[simp] theorem State.setMark_cables (k : Nat) (v : WalkMark) : (s.setMark k v).cables = s.cables := rfl
@[simp] theorem State.setMark_msix (k : Nat) (v : WalkMark) : (s.setMark k v).msix = s.msix := rfl
@[simp] theorem State.setMark_nextRid (k : Nat) (v : WalkMark) : (s.setMark k v).nextRid = s.nextRid := rfl
@[simp] theorem State.setMark_nextCtx (k : Nat) (v : WalkMark) : (s.setMark k v).nextCtx = s.nextCtx := rfl
@[simp] theorem State.setMark_nextLaunch (k : Nat) (v : WalkMark) : (s.setMark k v).nextLaunch = s.nextLaunch := rfl
@[simp] theorem State.setMark_nextAdmission (k : Nat) (v : WalkMark) : (s.setMark k v).nextAdmission = s.nextAdmission := rfl
@[simp] theorem State.setMark_cur (k : Nat) (v : WalkMark) : (s.setMark k v).cur = s.cur := rfl
@[simp] theorem State.setMark_agenda (k : Nat) (v : WalkMark) : (s.setMark k v).agenda = s.agenda := rfl
@[simp] theorem State.setMark_idle (k : Nat) (v : WalkMark) : (s.setMark k v).idle = s.idle := rfl
@[simp] theorem State.setMark_turnsLeft (k : Nat) (v : WalkMark) : (s.setMark k v).turnsLeft = s.turnsLeft := rfl
@[simp] theorem State.setMark_freeDraws (k : Nat) (v : WalkMark) : (s.setMark k v).freeDraws = s.freeDraws := rfl
@[simp] theorem State.setMark_deferReplies (k : Nat) (v : WalkMark) : (s.setMark k v).deferReplies = s.deferReplies := rfl
@[simp] theorem State.setMark_holdAccesses (k : Nat) (v : WalkMark) : (s.setMark k v).holdAccesses = s.holdAccesses := rfl
@[simp] theorem State.setMark_slowWalks (k : Nat) (v : WalkMark) : (s.setMark k v).slowWalks = s.slowWalks := rfl
@[simp] theorem State.thread_setMark (k : Nat) (v : WalkMark) (j : Nat) : (s.setMark k v).thread j = s.thread j := rfl
@[simp] theorem State.slot_setMark (k : Nat) (v : WalkMark) (j : Nat) : (s.setMark k v).slot j = s.slot j := rfl
@[simp] theorem State.region_setMark (k : Nat) (v : WalkMark) (j : Nat) : (s.setMark k v).region j = s.region j := rfl
@[simp] theorem State.device_setMark (k : Nat) (v : WalkMark) (j : Nat) : (s.setMark k v).device j = s.device j := rfl
@[simp] theorem State.partition_setMark (k : Nat) (v : WalkMark) (j : Nat) : (s.setMark k v).partition j = s.partition j := rfl
@[simp] theorem State.byte_setMark (k : Nat) (v : WalkMark) (j : Nat) : (s.setMark k v).byte j = s.byte j := rfl
@[simp] theorem State.sector_setMark (k : Nat) (v : WalkMark) (j : Nat) : (s.setMark k v).sector j = s.sector j := rfl

/-! rotate. -/

@[simp] theorem State.rotate_now : (s.rotate).now = s.now := rfl
@[simp] theorem State.rotate_mem : (s.rotate).mem = s.mem := rfl
@[simp] theorem State.rotate_sect : (s.rotate).sect = s.sect := rfl
@[simp] theorem State.rotate_marks : (s.rotate).marks = s.marks := rfl
@[simp] theorem State.rotate_threads : (s.rotate).threads = s.threads := rfl
@[simp] theorem State.rotate_slots : (s.rotate).slots = s.slots := rfl
@[simp] theorem State.rotate_staging : (s.rotate).staging = s.staging := rfl
@[simp] theorem State.rotate_regions : (s.rotate).regions = s.regions := rfl
@[simp] theorem State.rotate_images : (s.rotate).images = s.images := rfl
@[simp] theorem State.rotate_devices : (s.rotate).devices = s.devices := rfl
@[simp] theorem State.rotate_partitions : (s.rotate).partitions = s.partitions := rfl
@[simp] theorem State.rotate_tnext : (s.rotate).tnext = s.tnext := rfl
@[simp] theorem State.rotate_saddles : (s.rotate).saddles = s.saddles := rfl
@[simp] theorem State.rotate_residency : (s.rotate).residency = s.residency := rfl
@[simp] theorem State.rotate_groups : (s.rotate).groups = s.groups := rfl
@[simp] theorem State.rotate_tlb : (s.rotate).tlb = s.tlb := rfl
@[simp] theorem State.rotate_walkCache : (s.rotate).walkCache = s.walkCache := rfl
@[simp] theorem State.rotate_walks : (s.rotate).walks = s.walks := rfl
@[simp] theorem State.rotate_walkQueue : (s.rotate).walkQueue = s.walkQueue := rfl
@[simp] theorem State.rotate_replays : (s.rotate).replays = s.replays := rfl
@[simp] theorem State.rotate_parked : (s.rotate).parked = s.parked := rfl
@[simp] theorem State.rotate_invocations : (s.rotate).invocations = s.invocations := rfl
@[simp] theorem State.rotate_results : (s.rotate).results = s.results := rfl
@[simp] theorem State.rotate_replies : (s.rotate).replies = s.replies := rfl
@[simp] theorem State.rotate_blockLoads : (s.rotate).blockLoads = s.blockLoads := rfl
@[simp] theorem State.rotate_updates : (s.rotate).updates = s.updates := rfl
@[simp] theorem State.rotate_flits : (s.rotate).flits = s.flits := rfl
@[simp] theorem State.rotate_pooled : (s.rotate).pooled = s.pooled := rfl
@[simp] theorem State.rotate_arrivals : (s.rotate).arrivals = s.arrivals := rfl
@[simp] theorem State.rotate_attestations : (s.rotate).attestations = s.attestations := rfl
@[simp] theorem State.rotate_doneRetry : (s.rotate).doneRetry = s.doneRetry := rfl
@[simp] theorem State.rotate_reservations : (s.rotate).reservations = s.reservations := rfl
@[simp] theorem State.rotate_hostReads : (s.rotate).hostReads = s.hostReads := rfl
@[simp] theorem State.rotate_coreReads : (s.rotate).coreReads = s.coreReads := rfl
@[simp] theorem State.rotate_coreFaults : (s.rotate).coreFaults = s.coreFaults := rfl
@[simp] theorem State.rotate_cables : (s.rotate).cables = s.cables := rfl
@[simp] theorem State.rotate_msix : (s.rotate).msix = s.msix := rfl
@[simp] theorem State.rotate_nextRid : (s.rotate).nextRid = s.nextRid := rfl
@[simp] theorem State.rotate_nextCtx : (s.rotate).nextCtx = s.nextCtx := rfl
@[simp] theorem State.rotate_nextLaunch : (s.rotate).nextLaunch = s.nextLaunch := rfl
@[simp] theorem State.rotate_nextAdmission : (s.rotate).nextAdmission = s.nextAdmission := rfl
@[simp] theorem State.rotate_cur : (s.rotate).cur = s.nextKey := rfl
@[simp] theorem State.rotate_agenda : (s.rotate).agenda = s.agenda := rfl
@[simp] theorem State.rotate_idle : (s.rotate).idle = true := rfl
@[simp] theorem State.rotate_turnsLeft : (s.rotate).turnsLeft = s.turnsLeft := rfl
@[simp] theorem State.rotate_freeDraws : (s.rotate).freeDraws = s.freeDraws := rfl
@[simp] theorem State.rotate_deferReplies : (s.rotate).deferReplies = s.deferReplies := rfl
@[simp] theorem State.rotate_holdAccesses : (s.rotate).holdAccesses = s.holdAccesses := rfl
@[simp] theorem State.rotate_slowWalks : (s.rotate).slowWalks = s.slowWalks := rfl
@[simp] theorem State.thread_rotate (j : Nat) : (s.rotate).thread j = s.thread j := rfl
@[simp] theorem State.slot_rotate (j : Nat) : (s.rotate).slot j = s.slot j := rfl
@[simp] theorem State.region_rotate (j : Nat) : (s.rotate).region j = s.region j := rfl
@[simp] theorem State.device_rotate (j : Nat) : (s.rotate).device j = s.device j := rfl
@[simp] theorem State.partition_rotate (j : Nat) : (s.rotate).partition j = s.partition j := rfl
@[simp] theorem State.byte_rotate (j : Nat) : (s.rotate).byte j = s.byte j := rfl
@[simp] theorem State.sector_rotate (j : Nat) : (s.rotate).sector j = s.sector j := rfl
@[simp] theorem State.mark_rotate (j : Nat) : (s.rotate).mark j = s.mark j := rfl

end Sys2Proof.Machine
end

