-- ==== Sys2Proof/Safety.lean ====
section
/-!
DEFINITION. What counts as a well-kept machine: every keyed store of State in its canonical form, memory above all,
and no write to the hard-wired registers.
-/

namespace Sys2Proof.Machine

/-- The canonical form of memory: addresses strictly rising, no byte listed that reads as an unlisted one does. -/
abbrev Memory.wf (s : State) : Prop := SMap.wf (0 : Byte) s.mem = true

/-- The canonical forms of the sector states and walk marks. -/
abbrev Sectors.wf (s : State) : Prop := SMap.wf SectorState.empty s.sect = true ∧ SMap.wf WalkMark.clear s.marks = true

/-- A run of k steps that ends in neither a fault nor a refusal. -/
def SafeRun (k : Nat) (s : State) : Prop :=
  match k with
  | 0 => True
  | n + 1 => match step s with
    | .next t => SafeRun n t
    | _ => False

end Sys2Proof.Machine
end

