-- ==== Sys2Proof/Laws/Store.lean ====
section
/-!
SUPPORT. The keyed store: what a write reads back as, here and elsewhere; every operation keeps the canonical form; and
two canonical stores that read alike are equal.
-/

namespace Sys2Proof

variable {α : Type}

@[simp] theorem SMap.get_nil (d : α) (a : Nat) : SMap.get d [] a = d := rfl

theorem SMap.get_cons (d : α) (k : Nat) (v : α) (m : SMap α) (a : Nat) :
    SMap.get d ((k, v) :: m) a = if k = a then v else SMap.get d m a := rfl

theorem SMap.get_erase_same (d : α) (m : SMap α) (a : Nat) : SMap.get d (SMap.erase m a) a = d := by
  induction m with
  | nil => rfl
  | cons c r ih =>
    obtain ⟨k, v⟩ := c
    by_cases h : k = a <;> simp [SMap.erase, SMap.get_cons, h, ih]

theorem SMap.get_erase_other (d : α) (m : SMap α) {a b : Nat} (h : b ≠ a) :
    SMap.get d (SMap.erase m a) b = SMap.get d m b := by
  induction m with
  | nil => rfl
  | cons c r ih =>
    obtain ⟨k, v⟩ := c
    by_cases hk : k = a
    · subst hk; simp [SMap.erase, SMap.get_cons, ih, Ne.symm h]
    · by_cases hb : k = b
      · subst hb; simp [SMap.erase, SMap.get_cons, hk]
      · simp [SMap.erase, SMap.get_cons, hk, hb, ih]

theorem SMap.get_ins_same (d : α) (m : SMap α) (a : Nat) (v : α) : SMap.get d (SMap.ins m a v) a = v := by
  induction m with
  | nil => simp [SMap.ins, SMap.get_cons]
  | cons c r ih =>
    obtain ⟨k, w⟩ := c
    simp only [SMap.ins]
    split
    · simp [SMap.get_cons]
    · split
      · simp [SMap.get_cons]
      · rename_i h; simp [SMap.get_cons, Ne.symm h, ih]

theorem SMap.get_ins_other (d : α) (m : SMap α) {a b : Nat} (v : α) (h : b ≠ a) :
    SMap.get d (SMap.ins m a v) b = SMap.get d m b := by
  induction m with
  | nil => simp [SMap.ins, SMap.get_cons, Ne.symm h]
  | cons c r ih =>
    obtain ⟨k, w⟩ := c
    simp only [SMap.ins]
    split
    · simp [SMap.get_cons, Ne.symm h]
    · split
      · rename_i h2; subst h2; simp [SMap.get_cons, Ne.symm h]
      · by_cases hb : k = b <;> simp [SMap.get_cons, hb, ih]

variable [DecidableEq α]

/-- A write reads back. -/
@[simp] theorem SMap.get_put_same (d : α) (m : SMap α) (a : Nat) (v : α) : SMap.get d (SMap.put d m a v) a = v := by
  unfold SMap.put
  split
  · rename_i h; rw [h]; exact SMap.get_erase_same d m a
  · exact SMap.get_ins_same d m a v

/-- A write leaves every other key alone. -/
theorem SMap.get_put_other (d : α) (m : SMap α) {a b : Nat} (v : α) (h : b ≠ a) :
    SMap.get d (SMap.put d m a v) b = SMap.get d m b := by
  unfold SMap.put
  split
  · exact SMap.get_erase_other d m h
  · exact SMap.get_ins_other d m v h

theorem SMap.get_put (d : α) (m : SMap α) (a b : Nat) (v : α) :
    SMap.get d (SMap.put d m a v) b = if b = a then v else SMap.get d m b := by
  by_cases h : b = a
  · subst h; simp
  · simp [h, SMap.get_put_other d m v h]

omit [DecidableEq α] in
theorem SMap.sortedFrom_mono {lo lo' : Nat} (h : lo' ≤ lo) :
    ∀ m : SMap α, SMap.sortedFrom lo m = true → SMap.sortedFrom lo' m = true
  | [], _ => rfl
  | (k, _) :: r, hm => by
    simp only [SMap.sortedFrom, Bool.and_eq_true, decide_eq_true_eq] at hm ⊢
    exact ⟨by omega, hm.2⟩

omit [DecidableEq α] in
theorem SMap.sortedFrom_filter (p : Nat × α → Bool) :
    ∀ (lo : Nat) (m : SMap α), SMap.sortedFrom lo m = true → SMap.sortedFrom lo (m.filter p) = true
  | _, [], _ => rfl
  | lo, (k, v) :: r, hm => by
    simp only [SMap.sortedFrom, Bool.and_eq_true, decide_eq_true_eq] at hm
    have ih := SMap.sortedFrom_filter p (k + 1) r hm.2
    by_cases hp : p (k, v) = true
    · simp [hp, SMap.sortedFrom, hm.1, ih]
    · simp only [List.filter_cons, hp]
      exact SMap.sortedFrom_mono (by omega) _ ih

omit [DecidableEq α] in
theorem SMap.erase_eq_filter (m : SMap α) (a : Nat) : SMap.erase m a = m.filter (fun c => c.1 != a) := by
  induction m with
  | nil => rfl
  | cons c r ih =>
    obtain ⟨k, v⟩ := c
    by_cases h : k = a <;> simp [SMap.erase, h, ih]

omit [DecidableEq α] in
theorem SMap.sortedFrom_ins (a : Nat) (v : α) :
    ∀ (lo : Nat) (m : SMap α), lo ≤ a → SMap.sortedFrom lo m = true → SMap.sortedFrom lo (SMap.ins m a v) = true
  | lo, [], ha, _ => by simp [SMap.ins, SMap.sortedFrom, ha]
  | lo, (k, w) :: r, ha, hm => by
    simp only [SMap.sortedFrom, Bool.and_eq_true, decide_eq_true_eq] at hm
    simp only [SMap.ins]
    split
    · rename_i h
      simp only [SMap.sortedFrom, Bool.and_eq_true, decide_eq_true_eq]
      exact ⟨ha, by omega, hm.2⟩
    · split
      · rename_i h; subst h
        simp only [SMap.sortedFrom, Bool.and_eq_true, decide_eq_true_eq]
        exact ⟨ha, hm.2⟩
      · simp only [SMap.sortedFrom, Bool.and_eq_true, decide_eq_true_eq]
        exact ⟨hm.1, SMap.sortedFrom_ins a v (k + 1) r (by omega) hm.2⟩

theorem SMap.all_ins (d : α) (a : Nat) (v : α) (hv : v ≠ d) :
    ∀ m : SMap α, m.all (fun c => decide (c.2 ≠ d)) = true → (SMap.ins m a v).all (fun c => decide (c.2 ≠ d)) = true
  | [], _ => by simp [SMap.ins, hv]
  | (k, w) :: r, hm => by
    simp only [List.all_cons, Bool.and_eq_true, decide_eq_true_eq] at hm
    simp only [SMap.ins]
    split
    · simp only [List.all_cons, Bool.and_eq_true, decide_eq_true_eq]; exact ⟨hv, hm⟩
    · split
      · simp only [List.all_cons, Bool.and_eq_true, decide_eq_true_eq]; exact ⟨hv, hm.2⟩
      · simp only [List.all_cons, Bool.and_eq_true, decide_eq_true_eq]
        exact ⟨hm.1, SMap.all_ins d a v hv r hm.2⟩

/-- Taking entries away keeps the canonical form. -/
theorem SMap.wf_filter (d : α) (m : SMap α) (p : Nat × α → Bool) (h : SMap.wf d m = true) :
    SMap.wf d (m.filter p) = true := by
  simp only [SMap.wf, Bool.and_eq_true] at h ⊢
  refine ⟨SMap.sortedFrom_filter p 0 m h.1, ?_⟩
  simp only [List.all_eq_true, decide_eq_true_eq, List.mem_filter] at h ⊢
  exact fun c hc => h.2 c hc.1

/-- A write keeps the canonical form. -/
theorem SMap.wf_put (d : α) (m : SMap α) (a : Nat) (v : α) (h : SMap.wf d m = true) :
    SMap.wf d (SMap.put d m a v) = true := by
  unfold SMap.put
  split
  · rw [SMap.erase_eq_filter]; exact SMap.wf_filter d m _ h
  · rename_i hv
    simp only [SMap.wf, Bool.and_eq_true] at h ⊢
    exact ⟨SMap.sortedFrom_ins a v 0 m (Nat.zero_le _) h.1, SMap.all_ins d a v hv m h.2⟩

@[simp] theorem SMap.wf_nil (d : α) : SMap.wf d ([] : SMap α) = true := rfl

omit [DecidableEq α] in
theorem SMap.get_below (d : α) :
    ∀ (lo : Nat) (m : SMap α) (a : Nat), SMap.sortedFrom lo m = true → a < lo → SMap.get d m a = d
  | _, [], _, _, _ => rfl
  | lo, (k, v) :: r, a, hm, ha => by
    simp only [SMap.sortedFrom, Bool.and_eq_true, decide_eq_true_eq] at hm
    have hk : k ≠ a := by omega
    simp [SMap.get_cons, hk, SMap.get_below d (k + 1) r a hm.2 (by omega)]

theorem SMap.ext_from (d : α) :
    ∀ (lo : Nat) (m m' : SMap α), SMap.sortedFrom lo m = true → SMap.sortedFrom lo m' = true →
      m.all (fun c => decide (c.2 ≠ d)) = true → m'.all (fun c => decide (c.2 ≠ d)) = true →
      (∀ a, SMap.get d m a = SMap.get d m' a) → m = m'
  | _, [], [], _, _, _, _, _ => rfl
  | _, [], (k, v) :: r, _, _, _, h4, h => by
    simp only [List.all_cons, Bool.and_eq_true, decide_eq_true_eq] at h4
    have := h k
    simp only [SMap.get_nil, SMap.get_cons, if_true] at this
    exact absurd this.symm h4.1
  | _, (k, v) :: r, [], _, _, h3, _, h => by
    simp only [List.all_cons, Bool.and_eq_true, decide_eq_true_eq] at h3
    have := h k
    simp only [SMap.get_nil, SMap.get_cons, if_true] at this
    exact absurd this h3.1
  | lo, (k, v) :: r, (k', v') :: r', h1, h2, h3, h4, h => by
    simp only [SMap.sortedFrom, Bool.and_eq_true, decide_eq_true_eq] at h1 h2
    simp only [List.all_cons, Bool.and_eq_true, decide_eq_true_eq] at h3 h4
    have hk : k = k' := by
      rcases Nat.lt_trichotomy k k' with hlt | heq | hgt
      · have := h k
        have hne : k' ≠ k := by omega
        simp only [SMap.get_cons, if_true, hne, if_false, SMap.get_below d (k' + 1) r' k h2.2 (by omega)] at this
        exact absurd this h3.1
      · exact heq
      · have := h k'
        have hne : k ≠ k' := by omega
        simp only [SMap.get_cons, if_true, hne, if_false, SMap.get_below d (k + 1) r k' h1.2 (by omega)] at this
        exact absurd this.symm h4.1
    subst hk
    have hv : v = v' := by simpa [SMap.get_cons] using h k
    subst hv
    have : r = r' := SMap.ext_from d (k + 1) r r' h1.2 h2.2 h3.2 h4.2 (fun a => by
      by_cases ha : k = a
      · subst ha
        rw [SMap.get_below d (k + 1) r k h1.2 (by omega), SMap.get_below d (k + 1) r' k h2.2 (by omega)]
      · simpa [SMap.get_cons, ha] using h a)
    rw [this]

/-- Canonical stores that read alike at every key are equal. -/
theorem SMap.ext (d : α) (m m' : SMap α) (hm : SMap.wf d m = true) (hm' : SMap.wf d m' = true)
    (h : ∀ a, SMap.get d m a = SMap.get d m' a) : m = m' := by
  simp only [SMap.wf, Bool.and_eq_true] at hm hm'
  exact SMap.ext_from d 0 m m' hm.1 hm'.1 hm.2 hm'.2 h

end Sys2Proof
end

