-- ==== Sys2Proof/Laws/Memory.lean ====
section
/-!
SUPPORT. Memory: bytes read back after a write, bytes outside it are left alone, and every operation that touches memory
keeps the canonical form of Memory.wf.
-/

namespace Sys2Proof.Machine

/-! Bytes. -/

theorem State.byte_setByte (s : State) (a b : Nat) (v : Byte) :
    (s.setByte a v).byte b = if b = a then v else s.byte b := by
  simp [State.byte, SMap.get_put]

theorem get_memWrite_below (m : SMap Byte) (a : Nat) (bs : List Byte) {b : Nat} (h : b < a) :
    SMap.get 0 (memWrite m a bs) b = SMap.get 0 m b := by
  induction bs generalizing m a with
  | nil => rfl
  | cons v r ih => rw [memWrite, ih _ _ (by omega), SMap.get_put_other _ _ _ (by omega)]

/-- A byte outside the written range is left alone. -/
theorem get_memWrite_outside (m : SMap Byte) (a : Nat) (bs : List Byte) {b : Nat} (h : b < a ∨ a + bs.length ≤ b) :
    SMap.get 0 (memWrite m a bs) b = SMap.get 0 m b := by
  induction bs generalizing m a with
  | nil => rfl
  | cons v r ih =>
    simp only [List.length_cons] at h
    rw [memWrite, ih _ _ (by omega), SMap.get_put_other _ _ _ (by omega)]

/-- A written byte reads back. -/
theorem get_memWrite_inside (m : SMap Byte) (a : Nat) (bs : List Byte) (i : Nat) (h : i < bs.length) :
    SMap.get 0 (memWrite m a bs) (a + i) = bs[i] := by
  induction bs generalizing m a i with
  | nil => simp at h
  | cons v r ih =>
    cases i with
    | zero => rw [memWrite, get_memWrite_below _ _ _ (by omega)]; simp
    | succ j =>
      rw [memWrite, show a + (j + 1) = (a + 1) + j by omega, ih _ _ _ (by simpa using h)]
      simp

theorem State.byte_writeBytes_outside (s : State) (a : Nat) (bs : List Byte) {b : Nat} (h : b < a ∨ a + bs.length ≤ b) :
    (s.writeBytes a bs).byte b = s.byte b := get_memWrite_outside s.mem a bs h

theorem State.byte_writeBytes_inside (s : State) (a : Nat) (bs : List Byte) (i : Nat) (h : i < bs.length) :
    (s.writeBytes a bs).byte (a + i) = bs[i] := get_memWrite_inside s.mem a bs i h

/-- What is written reads back. -/
theorem State.bytes_writeBytes (s : State) (a : Nat) (bs : List Byte) : (s.writeBytes a bs).bytes a bs.length = bs := by
  have key : ∀ (n i : Nat), i + n = bs.length → (s.writeBytes a bs).bytes (a + i) n = bs.drop i := by
    intro n
    induction n with
    | zero => intro i h; simp [State.bytes, List.drop_eq_nil_of_le (show bs.length ≤ i by omega)]
    | succ n ih =>
      intro i h
      have hi : i < bs.length := by omega
      rw [State.bytes, State.byte_writeBytes_inside s a bs i hi, Nat.add_assoc, ih (i + 1) (by omega)]
      exact (List.drop_eq_getElem_cons hi).symm
  simpa using key bs.length 0 (by omega)

theorem leBytes_length (v n : Nat) : (leBytes v n).length = n := by
  induction n generalizing v with
  | zero => rfl
  | succ n ih => simp [leBytes, ih]

/-- Little-endian bytes hold the number they were made of, in their width. -/
theorem leNat_leBytes (v n : Nat) : leNat (leBytes v n) = v % 2 ^ (8 * n) := by
  induction n generalizing v with
  | zero => simp [leBytes, leNat, Nat.mod_one]
  | succ n ih =>
    rw [leBytes, leNat, ih]
    have : 2 ^ (8 * (n + 1)) = 256 * 2 ^ (8 * n) := by rw [Nat.mul_add, Nat.pow_add]; norm_num; ring
    rw [this, Nat.mod_mul]
    simp

/-- A word that is written reads back. -/
theorem State.readNat_writeBytes (s : State) (a v n : Nat) :
    (s.writeBytes a (leBytes v n)).readNat a n = v % 2 ^ (8 * n) := by
  have h := State.bytes_writeBytes s a (leBytes v n)
  rw [leBytes_length] at h
  rw [State.readNat, h, leNat_leBytes]

/-! The canonical form. -/

theorem wf_memWrite (m : SMap Byte) (a : Nat) (bs : List Byte) (h : SMap.wf (0 : Byte) m = true) :
    SMap.wf (0 : Byte) (memWrite m a bs) = true := by
  induction bs generalizing m a with
  | nil => exact h
  | cons v r ih => exact ih _ _ (SMap.wf_put _ _ _ _ h)

theorem Memory.wf_reset : Memory.wf State.reset := rfl

theorem Memory.wf_setByte (s : State) (a : Nat) (v : Byte) (h : Memory.wf s) : Memory.wf (s.setByte a v) :=
  SMap.wf_put _ _ _ _ h

theorem Memory.wf_writeBytes (s : State) (a : Nat) (bs : List Byte) (h : Memory.wf s) : Memory.wf (s.writeBytes a bs) :=
  wf_memWrite _ _ _ h

theorem Memory.wf_zeroRange (s : State) (lo n : Nat) (h : Memory.wf s) : Memory.wf (s.zeroRange lo n) :=
  SMap.wf_filter _ _ _ h

theorem Memory.wf_scrub (s : State) (lo n : Nat) (h : Memory.wf s) : Memory.wf (s.scrub lo n) :=
  SMap.wf_filter _ _ _ h

theorem Memory.wf_scrubDevice (s : State) (dev : Nat) (h : Memory.wf s) : Memory.wf (s.scrubDevice dev) :=
  SMap.wf_filter _ _ _ h

/-- The invalidation of cached translations leaves memory alone. -/
@[simp] theorem State.invalidate_mem (s : State) (sec : Nat) : (s.invalidate sec).mem = s.mem := by
  unfold State.invalidate
  split <;> rfl

@[simp] theorem State.invalidate_sect (s : State) (sec : Nat) :
    (s.invalidate sec).sect = s.sect := by
  unfold State.invalidate
  split <;> rfl

@[simp] theorem State.byte_invalidate (s : State) (sec a : Nat) :
    (s.invalidate sec).byte a = s.byte a := by
  simp [State.byte]

@[simp] theorem State.sector_invalidate (s : State) (sec k : Nat) :
    (s.invalidate sec).sector k = s.sector k := by
  simp [State.sector]

theorem Memory.wf_invalidate (s : State) (sec : Nat) (h : Memory.wf s) :
    Memory.wf (s.invalidate sec) := by
  unfold Memory.wf; rw [State.invalidate_mem]; exact h

theorem Memory.wf_storeBytes (s : State) (a : Nat) (bs : List Byte) (h : Memory.wf s) : Memory.wf (s.storeBytes a bs) :=
  Memory.wf_writeBytes _ _ _ (Memory.wf_invalidate _ _ h)

/-- A store's bytes, and no other byte, change. -/
theorem State.byte_storeBytes_outside (s : State) (a : Nat) (bs : List Byte) {b : Nat}
    (h : b < a ∨ a + bs.length ≤ b) : (s.storeBytes a bs).byte b = s.byte b := by
  rw [State.storeBytes, State.byte_writeBytes_outside _ _ _ h, State.byte_invalidate]

theorem Memory.wf_writeMasked (s : State) (sec : Nat) (bs : SMap (Option Byte)) (h : Memory.wf s) :
    Memory.wf (s.writeMasked sec bs) := by
  have key : ∀ (l : SMap (Option Byte)) (x : State), Memory.wf x →
      Memory.wf (l.foldl (fun x c => match c.2 with
        | some b => x.setByte (sec * 64 + c.1) b
        | none => x) x) := by
    intro l
    induction l with
    | nil => exact fun x hx => hx
    | cons c r ih =>
      intro x hx
      simp only [List.foldl_cons]
      apply ih
      split
      · exact Memory.wf_setByte _ _ _ hx
      · exact hx
  exact key bs _ (Memory.wf_invalidate _ _ h)

/-! Sector states keep their form too. -/

theorem wf_setSector (s : State) (k : Nat) (v : SectorState) (h : SMap.wf SectorState.empty s.sect = true) :
    SMap.wf SectorState.empty (s.setSector k v).sect = true := SMap.wf_put _ _ _ _ h

theorem State.sector_setSector (s : State) (k j : Nat) (v : SectorState) :
    (s.setSector k v).sector j = if j = k then v else s.sector j := by
  simp [State.sector, SMap.get_put]

end Sys2Proof.Machine
end

