-- ==== Sys2Proof/Laws/Thread.lean ====
section
/-!
SUPPORT. Keyed parts of State read back after an update, and the registers of a thread: hard-wired g0, p0 and k0, a
write and what it leaves alone.
-/

namespace Sys2Proof.Machine

@[simp] theorem State.thread_setThread (s : State) (k : Nat) (t : Thread) : (s.setThread k t).thread k = some t := by
  simp [State.thread]

theorem State.thread_setThread_other (s : State) {k j : Nat} (t : Thread) (h : j ≠ k) :
    (s.setThread k t).thread j = s.thread j := by
  simp [State.thread, SMap.get_put, h]

@[simp] theorem State.slot_setSlot (s : State) (k : Nat) (x : Slot) : (s.setSlot k x).slot k = x := by
  simp [State.slot]

theorem State.slot_setSlot_other (s : State) {k j : Nat} (x : Slot) (h : j ≠ k) : (s.setSlot k x).slot j = s.slot j := by
  simp [State.slot, SMap.get_put, h]

@[simp] theorem State.region_setRegion (s : State) (k : Nat) (r : Region) : (s.setRegion k r).region k = some r := by
  simp [State.region]

theorem State.region_setRegion_other (s : State) {k j : Nat} (r : Region) (h : j ≠ k) :
    (s.setRegion k r).region j = s.region j := by
  simp [State.region, SMap.get_put, h]

@[simp] theorem State.device_setDevice (s : State) (k : Nat) (d : Device) : (s.setDevice k d).device k = d := by
  simp [State.device]

theorem State.device_setDevice_other (s : State) {k j : Nat} (d : Device) (h : j ≠ k) :
    (s.setDevice k d).device j = s.device j := by
  simp [State.device, SMap.get_put, h]

@[simp] theorem State.partition_setPartition (s : State) (k : Nat) (p : Partition) :
    (s.setPartition k p).partition k = p := by
  simp [State.partition]

/-! Registers. -/

@[simp] theorem Thread.readG_zero (t : Thread) : t.readG 0 = 0 := rfl
@[simp] theorem Thread.readP_zero (t : Thread) : t.readP 0 = true := rfl
@[simp] theorem Thread.token_zero (t : Thread) : t.token 0 = {} := rfl
@[simp] theorem Thread.writeG_zero (t : Thread) (v : Dword) : t.writeG 0 v = t := rfl
@[simp] theorem Thread.writeP_zero (t : Thread) (v : Bool) : t.writeP 0 v = t := rfl

/-- What a register reads after a write. -/
theorem Thread.readG_writeG (t : Thread) (d r : Reg) (v : Dword) :
    (t.writeG d v).readG r = if r = d ∧ d ≠ 0 then v else t.readG r := by
  unfold Thread.writeG Thread.readG
  by_cases hd : d = 0
  · have hn : ¬(r = d ∧ d ≠ 0) := fun h => h.2 hd
    rw [if_pos hd, if_neg hn]
  · by_cases hr : r = d
    · have hy : r = d ∧ d ≠ 0 := ⟨hr, hd⟩
      rw [if_neg hd, if_pos hy, hr, if_neg hd]; exact SMap.get_put_same _ _ _ _
    · have hn : ¬(r = d ∧ d ≠ 0) := fun h => hr h.1
      rw [if_neg hd, if_neg hn]
      by_cases h0 : r = 0
      · rw [if_pos h0, if_pos h0]
      · rw [if_neg h0, if_neg h0]
        exact SMap.get_put_other _ _ _ (fun h => hr (BitVec.eq_of_toNat_eq h))

theorem Thread.readP_writeP (t : Thread) (d r : BitVec 3) (v : Bool) :
    (t.writeP d v).readP r = if r = d ∧ d ≠ 0 then v else t.readP r := by
  unfold Thread.writeP Thread.readP
  by_cases hd : d = 0
  · have hn : ¬(r = d ∧ d ≠ 0) := fun h => h.2 hd
    rw [if_pos hd, if_neg hn]
  · by_cases hr : r = d
    · have hy : r = d ∧ d ≠ 0 := ⟨hr, hd⟩
      rw [if_neg hd, if_pos hy, hr, if_neg hd]; exact SMap.get_put_same _ _ _ _
    · have hn : ¬(r = d ∧ d ≠ 0) := fun h => hr h.1
      rw [if_neg hd, if_neg hn]
      by_cases h0 : r = 0
      · rw [if_pos h0, if_pos h0]
      · rw [if_neg h0, if_neg h0]
        exact SMap.get_put_other _ _ _ (fun h => hr (BitVec.eq_of_toNat_eq h))

theorem Thread.token_setToken (t : Thread) (d k : BitVec 4) (x : TokSet) :
    (t.setToken d x).token k = if k = d ∧ d ≠ 0 then x else t.token k := by
  unfold Thread.setToken Thread.token
  by_cases hd : d = 0
  · have hn : ¬(k = d ∧ d ≠ 0) := fun h => h.2 hd
    rw [if_pos hd, if_neg hn]
  · by_cases hr : k = d
    · have hy : k = d ∧ d ≠ 0 := ⟨hr, hd⟩
      rw [if_neg hd, if_pos hy, hr, if_neg hd]; exact SMap.get_put_same _ _ _ _
    · have hn : ¬(k = d ∧ d ≠ 0) := fun h => hr h.1
      rw [if_neg hd, if_neg hn]
      by_cases h0 : k = 0
      · rw [if_pos h0, if_pos h0]
      · rw [if_neg h0, if_neg h0]
        exact SMap.get_put_other _ _ _ (fun h => hr (BitVec.eq_of_toNat_eq h))

@[simp] theorem Thread.readP_writeG (t : Thread) (d : Reg) (v : Dword) (p : BitVec 3) :
    (t.writeG d v).readP p = t.readP p := by
  unfold Thread.writeG; split <;> rfl

@[simp] theorem Thread.readG_writeP (t : Thread) (d : BitVec 3) (v : Bool) (r : Reg) :
    (t.writeP d v).readG r = t.readG r := by
  unfold Thread.writeP; split <;> rfl

/-! Charging touches the energy counter alone. -/

theorem Thread.chargeIssue_readG (t : Thread) (d : Device) (cls : Nat) (r : Reg) :
    (t.chargeIssue d cls).readG r = t.readG r := by
  unfold Thread.chargeIssue; split <;> rfl

theorem Thread.chargeIssue_readP (t : Thread) (d : Device) (cls : Nat) (p : BitVec 3) :
    (t.chargeIssue d cls).readP p = t.readP p := by
  unfold Thread.chargeIssue; split <;> rfl

/-- An instruction charges its class's weight once, and the counter saturates. -/
theorem Thread.chargeIssue_energy (t : Thread) (d : Device) (cls : Nat) (h : t.charged = false) :
    (t.chargeIssue d cls).energy = BitVec.ofNat 64 (min (t.energy.toNat + d.weight cls) (2 ^ 64 - 1)) := by
  simp [Thread.chargeIssue, h, Thread.charge]

/-- Completion where no loop ends: the PC moves on, and of the rest only the issue bookkeeping changes. -/
theorem Thread.complete_plain (t : Thread) (len : Nat)
    (h : ∀ e r, t.loops = e :: r → t.pc + BitVec.ofNat 64 (len - 4) ≠ e.stop) :
    t.complete len = { t with pc := t.pc + BitVec.ofNat 64 len, wait := .none, charged := false } := by
  unfold Thread.complete
  cases hl : t.loops with
  | nil => simp [Thread.loopStep]
  | cons e r => simp [Thread.loopStep, h e r hl]

end Sys2Proof.Machine
end

