-- ==== Sys2Proof/Laws/Ops.lean ====
section
/-!
SUPPORT. What each shared operation of the control threads can do, said once: whoever has the operation's answer has the
state after it.
-/

namespace Sys2Proof.Machine

/-! Reaching the thread, its guard and its region. -/

theorem onThread_some {s : State} {t : Thread} (h : s.thread s.cur = some t) (f : Thread → Res State) :
    onThread s f = f t := by
  simp [onThread, h]

theorem onThread_none {s : State} (h : s.thread s.cur = none) (f : Thread → Res State) :
    onThread s f = .fault .noIssuer := by
  simp [onThread, h]

/-- If it answers a next state, there is an issuing thread, and the meaning answered it. -/
theorem onThread_next {s u : State} {f : Thread → Res State} (h : onThread s f = .next u) :
    ∃ t, s.thread s.cur = some t ∧ f t = .next u := by
  unfold onThread at h
  split at h
  · rename_i t ht; exact ⟨t, ht, h⟩
  · cases h

theorem guarded_on {s : State} {t : Thread} {g : Guard} (h : s.thread s.cur = some t) (hg : t.guardOn g = true)
    (f : Thread → Res State) : guarded s g f = f t := by
  simp [guarded, onThread_some h, hg]

theorem guarded_off {s : State} {t : Thread} {g : Guard} (h : s.thread s.cur = some t) (hg : t.guardOn g = false)
    (f : Thread → Res State) : guarded s g f = .next (s.setThread s.cur (t.complete 4)) := by
  simp [guarded, onThread_some h, hg]

theorem onRegion_some {s : State} {t : Thread} {r : Region} (h : s.region t.rid = some r) (f : Region → Res State) :
    onRegion s t f = f r := by
  simp [onRegion, h]

/-! Completing, transferring, waiting: each changes the current thread alone. -/

theorem retire_next {s u : State} {t : Thread} {cls len : Nat} (h : retire s t cls len = .next u) :
    u = s.setThread s.cur ((t.chargeIssue s.curDevice cls).complete len) := by
  cases h; rfl

theorem transfer_next {s u : State} {t : Thread} {cls : Nat} {target : Dword} (h : transfer s t cls target = .next u) :
    u = s.setThread s.cur ((t.chargeIssue s.curDevice cls).jump target) := by
  cases h; rfl

theorem hold_next {s u : State} {t : Thread} {cls : Nat} (h : hold s t cls = .next u) :
    u = { s.setThread s.cur { t.chargeIssue s.curDevice cls with wait := .issue } with idle := true } := by
  cases h; rfl

theorem stall_next {s u : State} {t : Thread} (h : stall s t = .next u) :
    u = { s.setThread s.cur { t with wait := .issue } with idle := true } := by
  cases h; rfl

/-- A transfer leaves every register as it was and steps no loop. -/
@[simp] theorem Thread.jump_pc (t : Thread) (a : Dword) : (t.jump a).pc = a := rfl
@[simp] theorem Thread.jump_loops (t : Thread) (a : Dword) : (t.jump a).loops = t.loops := rfl
@[simp] theorem Thread.jump_readG (t : Thread) (a : Dword) (r : Reg) : (t.jump a).readG r = t.readG r := rfl
@[simp] theorem Thread.jump_readP (t : Thread) (a : Dword) (p : BitVec 3) : (t.jump a).readP p = t.readP p := rfl

/-! The loop step (R196). -/

/-- Where the top entry does not end at the word, nothing steps. -/
theorem Thread.loopStep_miss (t : Thread) (a : Dword) (e : LoopEntry) (r : List LoopEntry) (h : a ≠ e.stop) :
    t.loopStep a (e :: r) = { t with loops := e :: r } := by
  simp [Thread.loopStep, h]

/-- An entry with iterations left goes back to its start, and its register takes the next index. -/
theorem Thread.loopStep_again (t : Thread) (e : LoopEntry) (r : List LoopEntry) (h : 1 < e.left.toNat) :
    t.loopStep e.stop (e :: r) =
      { t with loops := { e with left := e.left - 1, idx := e.idx + 1 } :: r, pc := e.start }.writeG e.reg (e.idx + 1) := by
  simp [Thread.loopStep, h]

/-- An entry on its last iteration pops, and the next entry is looked at. -/
theorem Thread.loopStep_last (t : Thread) (e : LoopEntry) (r : List LoopEntry) (h : e.left.toNat ≤ 1) :
    t.loopStep e.stop (e :: r) = t.loopStep e.stop r := by
  have : ¬ 1 < e.left.toNat := by omega
  simp [Thread.loopStep, this]

/-! Traps (R348, R349). -/

theorem terminal_next {s u : State} {t : Thread} {c : Cause} {arg : Nat} (ht : s.thread s.cur = some t)
    (h : terminal s c arg = .next u) : u = s.endGraph t.rid 4 (tcause c 0 false arg).toNat := by
  rw [terminal, onThread_some ht] at h
  cases h; rfl

theorem takeCoreTrap_next {s u : State} {t : Thread} {c : Cause} {code : BitVec 16} (h : takeCoreTrap s t c code = .next u) :
    u = s.addItem s.cur { t with status := .stopped, wait := .none }
      ⟨.core, tcause c 0 false code.toNat, FaultRec.blank (tcause c 0 false code.toNat)⟩ := by
  cases h; rfl

/-! Frames from the pool and the record in the image touch memory and the region alone. -/

/-- The state that taking a frame leaves. -/
def Taken.state : Taken → State
  | .frame _ s => s
  | .fault _ s => s
  | .busy s => s

theorem takeLoop_threads (p : Partition) (s : State) (ring n headA pool size fuel : Nat) :
    (takeLoop p s ring n headA pool size fuel).state.threads = s.threads := by
  induction fuel generalizing s with
  | zero => rfl
  | succ k ih =>
    simp only [takeLoop]
    split
    · rfl
    · split
      · rfl
      · split
        · rw [ih]; rfl
        · rfl

theorem Taken.state_ite {c : Prop} [Decidable c] {a b : Taken} {x : SMap (Option Thread)} (ha : a.state.threads = x)
    (hb : b.state.threads = x) : (if c then a else b).state.threads = x := by
  split <;> assumption

theorem takeFrame_threads (s : State) (dev part : Nat) (big : Bool) :
    (takeFrame s dev part big).state.threads = s.threads := by
  unfold takeFrame
  exact Taken.state_ite rfl (Taken.state_ite rfl (Taken.state_ite rfl (Taken.state_ite rfl (takeLoop_threads ..))))

theorem State.takeImageFrames_threads (s : State) (rid n fuel : Nat) :
    (s.takeImageFrames rid n fuel).1.threads = s.threads := by
  induction fuel generalizing s with
  | zero => rfl
  | succ k ih =>
    simp only [State.takeImageFrames]
    split
    · rfl
    · rename_i r _
      split
      · rfl
      · have h := takeFrame_threads s r.launch.dev r.launch.part false
        split
        · rename_i ht; rw [ht] at h; exact h
        · rename_i ht; rw [ht] at h; exact h
        · rename_i ht; rw [ht] at h; rw [ih]; exact h

@[simp] theorem State.storeBytes_threads (s : State) (a : Nat) (bs : List Byte) :
    (s.storeBytes a bs).threads = s.threads := by
  rw [State.storeBytes, State.writeBytes_threads]
  unfold State.invalidate
  split <;> rfl

@[simp] theorem State.recordAt_threads (s : State) (rid : Nat) (r : Region) (o : Nat) (f : FaultRec) :
    (s.recordAt rid r o f).threads = s.threads := by
  rw [State.recordAt, State.setRegion_threads, State.storeBytes_threads]

theorem State.framed_threads {s : State} {rid : Nat} {r : Region} {c : State × Region} (h : s.framed rid r = some c) :
    c.1.threads = s.threads := by
  have ht := State.takeImageFrames_threads s rid r.imageSize (r.imageSize + 1)
  rw [State.framed] at h
  generalize s.takeImageFrames rid r.imageSize (r.imageSize + 1) = f at h ht
  obtain ⟨s1, b⟩ := f
  cases b with
  | false => simp at h
  | true =>
    simp only [Option.map_eq_some_iff] at h
    obtain ⟨r1, _, rfl⟩ := h
    exact ht

@[simp] theorem State.writeRecord_threads (s : State) (rid part rx ry : Nat) (it : Item) :
    (s.writeRecord rid part rx ry it).threads = s.threads := by
  unfold State.writeRecord
  split
  · rename_i c hc
    obtain ⟨r, _, hf⟩ := Option.bind_eq_some_iff.mp hc
    dsimp only
    split
    · rfl
    · rw [State.recordAt_threads, State.framed_threads hf]
  · rfl

/-- A new item goes to the end of the thread's items, and the thread keeps the rest of its state. -/
theorem State.addItem_thread (s : State) (key : Nat) (t : Thread) (it : Item) :
    (s.addItem key t it).thread key = some { t with items := t.items ++ [it] } := by
  have h : ∀ x : State, x.threads = (s.setThread key { t with items := t.items ++ [it] }).threads →
      x.thread key = some { t with items := t.items ++ [it] } := by
    intro x hx
    rw [State.thread, hx]
    exact State.thread_setThread s key _
  simp only [State.addItem]
  apply h
  repeat' split
  all_goals first | rfl | exact State.writeRecord_threads ..

/-- A trap of the control core writes no record and leaves memory alone. -/
theorem State.addItem_mem (s : State) (key : Nat) (t : Thread) (it : Item) (hc : it.src = .core) :
    (s.addItem key t it).mem = s.mem := by
  simp only [State.addItem, hc, if_true]
  repeat' split
  all_goals rfl

/-! Tags (R108, R109). -/

/-- A completion that leaves the count of a tag above zero changes that count alone. -/
theorem Thread.completeTag_more (t : Thread) (n : BitVec 6) (h : SMap.get 0 t.tagCount n.toNat - 1 ≠ 0) :
    t.completeTag n =
      { t with tagCount := SMap.put 0 t.tagCount n.toNat (SMap.get 0 t.tagCount n.toNat - 1) } := by
  simp [Thread.completeTag, h]

/-! Drawing a value that the manual leaves open counts the draw and changes nothing else. -/

theorem State.draw_eq (s : State) :
    s.draw = (Config.freeValue s.freeDraws, { s with freeDraws := s.freeDraws + 1 }) := rfl

end Sys2Proof.Machine
end

