-- ==== Sys2Proof/Laws/PerInstr.lean ====
section
/-!
SUPPORT. Statements made per instruction. RoundTrip: the decoder reads every field of an instruction's own words back
as it was, at every value the encoding admits. Events have no words. ERET's three forms share one word, which the
decoder reads as the form that TACT has yet to resolve.
-/

set_option Elab.async false
set_option linter.unusedSimpArgs false
set_option linter.unusedVariables false
set_option linter.unusedTactic false

namespace Sys2Proof.Laws

/-- What decoding an instruction's own words gives: the instruction, or for ERET its unresolved form. -/
def unresolved : Instr → Instr
  | .eretKill => .eretResume
  | .eretWake => .eretResume
  | i => i

/-- A well-formed instruction that has words decodes from them as itself. -/
def RoundTrip.Statement (i : Instr) : Prop := i.wf = true → encode i ≠ [] → decode (encode i) = some (unresolved i)

theorem RoundTrip.add : ∀ d a b g, RoundTrip.Statement (.add d a b g) := by
  intro d a b g hw _
  simp (disch := decide) only [↓reduceIte, BitVec.reduceEq, false_and, and_false, and_true, true_and, and_self, encode, decode, Word.major, decodeRaw,
    extract_high, extract_low, extract_whole, Nat.reduceSub, decodeMajor01, Word.guard, unresolved, hw]
theorem RoundTrip.sub : ∀ d a b g, RoundTrip.Statement (.sub d a b g) := by
  intro d a b g hw _
  simp (disch := decide) only [↓reduceIte, BitVec.reduceEq, false_and, and_false, and_true, true_and, and_self, encode, decode, Word.major, decodeRaw,
    extract_high, extract_low, extract_whole, Nat.reduceSub, decodeMajor01, Word.guard, unresolved, hw]
theorem RoundTrip.and : ∀ d a b g, RoundTrip.Statement (.and d a b g) := by
  intro d a b g hw _
  simp (disch := decide) only [↓reduceIte, BitVec.reduceEq, false_and, and_false, and_true, true_and, and_self, encode, decode, Word.major, decodeRaw,
    extract_high, extract_low, extract_whole, Nat.reduceSub, decodeMajor01, Word.guard, unresolved, hw]
theorem RoundTrip.or : ∀ d a b g, RoundTrip.Statement (.or d a b g) := by
  intro d a b g hw _
  simp (disch := decide) only [↓reduceIte, BitVec.reduceEq, false_and, and_false, and_true, true_and, and_self, encode, decode, Word.major, decodeRaw,
    extract_high, extract_low, extract_whole, Nat.reduceSub, decodeMajor01, Word.guard, unresolved, hw]
theorem RoundTrip.xor : ∀ d a b g, RoundTrip.Statement (.xor d a b g) := by
  intro d a b g hw _
  simp (disch := decide) only [↓reduceIte, BitVec.reduceEq, false_and, and_false, and_true, true_and, and_self, encode, decode, Word.major, decodeRaw,
    extract_high, extract_low, extract_whole, Nat.reduceSub, decodeMajor01, Word.guard, unresolved, hw]
theorem RoundTrip.andn : ∀ d a b g, RoundTrip.Statement (.andn d a b g) := by
  intro d a b g hw _
  simp (disch := decide) only [↓reduceIte, BitVec.reduceEq, false_and, and_false, and_true, true_and, and_self, encode, decode, Word.major, decodeRaw,
    extract_high, extract_low, extract_whole, Nat.reduceSub, decodeMajor01, Word.guard, unresolved, hw]
theorem RoundTrip.shl : ∀ d a b g, RoundTrip.Statement (.shl d a b g) := by
  intro d a b g hw _
  simp (disch := decide) only [↓reduceIte, BitVec.reduceEq, false_and, and_false, and_true, true_and, and_self, encode, decode, Word.major, decodeRaw,
    extract_high, extract_low, extract_whole, Nat.reduceSub, decodeMajor01, Word.guard, unresolved, hw]
theorem RoundTrip.shr : ∀ d a b g, RoundTrip.Statement (.shr d a b g) := by
  intro d a b g hw _
  simp (disch := decide) only [↓reduceIte, BitVec.reduceEq, false_and, and_false, and_true, true_and, and_self, encode, decode, Word.major, decodeRaw,
    extract_high, extract_low, extract_whole, Nat.reduceSub, decodeMajor01, Word.guard, unresolved, hw]
theorem RoundTrip.sra : ∀ d a b g, RoundTrip.Statement (.sra d a b g) := by
  intro d a b g hw _
  simp (disch := decide) only [↓reduceIte, BitVec.reduceEq, false_and, and_false, and_true, true_and, and_self, encode, decode, Word.major, decodeRaw,
    extract_high, extract_low, extract_whole, Nat.reduceSub, decodeMajor01, Word.guard, unresolved, hw]
theorem RoundTrip.rol : ∀ d a b g, RoundTrip.Statement (.rol d a b g) := by
  intro d a b g hw _
  simp (disch := decide) only [↓reduceIte, BitVec.reduceEq, false_and, and_false, and_true, true_and, and_self, encode, decode, Word.major, decodeRaw,
    extract_high, extract_low, extract_whole, Nat.reduceSub, decodeMajor01, Word.guard, unresolved, hw]
theorem RoundTrip.min : ∀ d a b g, RoundTrip.Statement (.min d a b g) := by
  intro d a b g hw _
  simp (disch := decide) only [↓reduceIte, BitVec.reduceEq, false_and, and_false, and_true, true_and, and_self, encode, decode, Word.major, decodeRaw,
    extract_high, extract_low, extract_whole, Nat.reduceSub, decodeMajor01, Word.guard, unresolved, hw]
theorem RoundTrip.max : ∀ d a b g, RoundTrip.Statement (.max d a b g) := by
  intro d a b g hw _
  simp (disch := decide) only [↓reduceIte, BitVec.reduceEq, false_and, and_false, and_true, true_and, and_self, encode, decode, Word.major, decodeRaw,
    extract_high, extract_low, extract_whole, Nat.reduceSub, decodeMajor01, Word.guard, unresolved, hw]
theorem RoundTrip.minn : ∀ d a b g, RoundTrip.Statement (.minn d a b g) := by
  intro d a b g hw _
  simp (disch := decide) only [↓reduceIte, BitVec.reduceEq, false_and, and_false, and_true, true_and, and_self, encode, decode, Word.major, decodeRaw,
    extract_high, extract_low, extract_whole, Nat.reduceSub, decodeMajor01, Word.guard, unresolved, hw]
theorem RoundTrip.maxn : ∀ d a b g, RoundTrip.Statement (.maxn d a b g) := by
  intro d a b g hw _
  simp (disch := decide) only [↓reduceIte, BitVec.reduceEq, false_and, and_false, and_true, true_and, and_self, encode, decode, Word.major, decodeRaw,
    extract_high, extract_low, extract_whole, Nat.reduceSub, decodeMajor01, Word.guard, unresolved, hw]
theorem RoundTrip.slt : ∀ d a b g, RoundTrip.Statement (.slt d a b g) := by
  intro d a b g hw _
  simp (disch := decide) only [↓reduceIte, BitVec.reduceEq, false_and, and_false, and_true, true_and, and_self, encode, decode, Word.major, decodeRaw,
    extract_high, extract_low, extract_whole, Nat.reduceSub, decodeMajor01, Word.guard, unresolved, hw]
theorem RoundTrip.sltn : ∀ d a b g, RoundTrip.Statement (.sltn d a b g) := by
  intro d a b g hw _
  simp (disch := decide) only [↓reduceIte, BitVec.reduceEq, false_and, and_false, and_true, true_and, and_self, encode, decode, Word.major, decodeRaw,
    extract_high, extract_low, extract_whole, Nat.reduceSub, decodeMajor01, Word.guard, unresolved, hw]
theorem RoundTrip.seq : ∀ d a b g, RoundTrip.Statement (.seq d a b g) := by
  intro d a b g hw _
  simp (disch := decide) only [↓reduceIte, BitVec.reduceEq, false_and, and_false, and_true, true_and, and_self, encode, decode, Word.major, decodeRaw,
    extract_high, extract_low, extract_whole, Nat.reduceSub, decodeMajor01, Word.guard, unresolved, hw]
theorem RoundTrip.clz : ∀ d a g, RoundTrip.Statement (.clz d a g) := by
  intro d a g hw _
  simp (disch := decide) only [↓reduceIte, BitVec.reduceEq, false_and, and_false, and_true, true_and, and_self, encode, decode, Word.major, decodeRaw,
    extract_high, extract_low, extract_whole, Nat.reduceSub, decodeMajor01, Word.guard, unresolved, hw]
theorem RoundTrip.ctz : ∀ d a g, RoundTrip.Statement (.ctz d a g) := by
  intro d a g hw _
  simp (disch := decide) only [↓reduceIte, BitVec.reduceEq, false_and, and_false, and_true, true_and, and_self, encode, decode, Word.major, decodeRaw,
    extract_high, extract_low, extract_whole, Nat.reduceSub, decodeMajor01, Word.guard, unresolved, hw]
theorem RoundTrip.popc : ∀ d a g, RoundTrip.Statement (.popc d a g) := by
  intro d a g hw _
  simp (disch := decide) only [↓reduceIte, BitVec.reduceEq, false_and, and_false, and_true, true_and, and_self, encode, decode, Word.major, decodeRaw,
    extract_high, extract_low, extract_whole, Nat.reduceSub, decodeMajor01, Word.guard, unresolved, hw]
theorem RoundTrip.bswap : ∀ d a g, RoundTrip.Statement (.bswap d a g) := by
  intro d a g hw _
  simp (disch := decide) only [↓reduceIte, BitVec.reduceEq, false_and, and_false, and_true, true_and, and_self, encode, decode, Word.major, decodeRaw,
    extract_high, extract_low, extract_whole, Nat.reduceSub, decodeMajor01, Word.guard, unresolved, hw]
theorem RoundTrip.sextI8 : ∀ d a g, RoundTrip.Statement (.sextI8 d a g) := by
  intro d a g hw _
  simp (disch := decide) only [↓reduceIte, BitVec.reduceEq, false_and, and_false, and_true, true_and, and_self, encode, decode, Word.major, decodeRaw,
    extract_high, extract_low, extract_whole, Nat.reduceSub, decodeMajor01, Word.guard, unresolved, hw]
theorem RoundTrip.sextI16 : ∀ d a g, RoundTrip.Statement (.sextI16 d a g) := by
  intro d a g hw _
  simp (disch := decide) only [↓reduceIte, BitVec.reduceEq, false_and, and_false, and_true, true_and, and_self, encode, decode, Word.major, decodeRaw,
    extract_high, extract_low, extract_whole, Nat.reduceSub, decodeMajor01, Word.guard, unresolved, hw]
theorem RoundTrip.sextI32 : ∀ d a g, RoundTrip.Statement (.sextI32 d a g) := by
  intro d a g hw _
  simp (disch := decide) only [↓reduceIte, BitVec.reduceEq, false_and, and_false, and_true, true_and, and_self, encode, decode, Word.major, decodeRaw,
    extract_high, extract_low, extract_whole, Nat.reduceSub, decodeMajor01, Word.guard, unresolved, hw]
theorem RoundTrip.zextN8 : ∀ d a g, RoundTrip.Statement (.zextN8 d a g) := by
  intro d a g hw _
  simp (disch := decide) only [↓reduceIte, BitVec.reduceEq, false_and, and_false, and_true, true_and, and_self, encode, decode, Word.major, decodeRaw,
    extract_high, extract_low, extract_whole, Nat.reduceSub, decodeMajor01, Word.guard, unresolved, hw]
theorem RoundTrip.zextN16 : ∀ d a g, RoundTrip.Statement (.zextN16 d a g) := by
  intro d a g hw _
  simp (disch := decide) only [↓reduceIte, BitVec.reduceEq, false_and, and_false, and_true, true_and, and_self, encode, decode, Word.major, decodeRaw,
    extract_high, extract_low, extract_whole, Nat.reduceSub, decodeMajor01, Word.guard, unresolved, hw]
theorem RoundTrip.zextN32 : ∀ d a g, RoundTrip.Statement (.zextN32 d a g) := by
  intro d a g hw _
  simp (disch := decide) only [↓reduceIte, BitVec.reduceEq, false_and, and_false, and_true, true_and, and_self, encode, decode, Word.major, decodeRaw,
    extract_high, extract_low, extract_whole, Nat.reduceSub, decodeMajor01, Word.guard, unresolved, hw]
theorem RoundTrip.mul : ∀ d a b g, RoundTrip.Statement (.mul d a b g) := by
  intro d a b g hw _
  simp (disch := decide) only [↓reduceIte, BitVec.reduceEq, false_and, and_false, and_true, true_and, and_self, encode, decode, Word.major, decodeRaw,
    extract_high, extract_low, extract_whole, Nat.reduceSub, decodeMajor01, Word.guard, unresolved, hw]
theorem RoundTrip.mulh : ∀ d a b g, RoundTrip.Statement (.mulh d a b g) := by
  intro d a b g hw _
  simp (disch := decide) only [↓reduceIte, BitVec.reduceEq, false_and, and_false, and_true, true_and, and_self, encode, decode, Word.major, decodeRaw,
    extract_high, extract_low, extract_whole, Nat.reduceSub, decodeMajor01, Word.guard, unresolved, hw]
theorem RoundTrip.mulhn : ∀ d a b g, RoundTrip.Statement (.mulhn d a b g) := by
  intro d a b g hw _
  simp (disch := decide) only [↓reduceIte, BitVec.reduceEq, false_and, and_false, and_true, true_and, and_self, encode, decode, Word.major, decodeRaw,
    extract_high, extract_low, extract_whole, Nat.reduceSub, decodeMajor01, Word.guard, unresolved, hw]
theorem RoundTrip.div : ∀ d a b g, RoundTrip.Statement (.div d a b g) := by
  intro d a b g hw _
  simp (disch := decide) only [↓reduceIte, BitVec.reduceEq, false_and, and_false, and_true, true_and, and_self, encode, decode, Word.major, decodeRaw,
    extract_high, extract_low, extract_whole, Nat.reduceSub, decodeMajor01, Word.guard, unresolved, hw]
theorem RoundTrip.divn : ∀ d a b g, RoundTrip.Statement (.divn d a b g) := by
  intro d a b g hw _
  simp (disch := decide) only [↓reduceIte, BitVec.reduceEq, false_and, and_false, and_true, true_and, and_self, encode, decode, Word.major, decodeRaw,
    extract_high, extract_low, extract_whole, Nat.reduceSub, decodeMajor01, Word.guard, unresolved, hw]
theorem RoundTrip.rem : ∀ d a b g, RoundTrip.Statement (.rem d a b g) := by
  intro d a b g hw _
  simp (disch := decide) only [↓reduceIte, BitVec.reduceEq, false_and, and_false, and_true, true_and, and_self, encode, decode, Word.major, decodeRaw,
    extract_high, extract_low, extract_whole, Nat.reduceSub, decodeMajor01, Word.guard, unresolved, hw]
theorem RoundTrip.remn : ∀ d a b g, RoundTrip.Statement (.remn d a b g) := by
  intro d a b g hw _
  simp (disch := decide) only [↓reduceIte, BitVec.reduceEq, false_and, and_false, and_true, true_and, and_self, encode, decode, Word.major, decodeRaw,
    extract_high, extract_low, extract_whole, Nat.reduceSub, decodeMajor01, Word.guard, unresolved, hw]
theorem RoundTrip.addi : ∀ d a imm, RoundTrip.Statement (.addi d a imm) := by
  intro d a imm hw _
  simp (disch := decide) only [↓reduceIte, BitVec.reduceEq, false_and, and_false, and_true, true_and, and_self, encode, decode, Word.major, decodeRaw,
    extract_high, extract_low, extract_whole, Nat.reduceSub, decodeMajor02, Word.guard, unresolved, hw]
theorem RoundTrip.andi : ∀ d a imm, RoundTrip.Statement (.andi d a imm) := by
  intro d a imm hw _
  simp (disch := decide) only [↓reduceIte, BitVec.reduceEq, false_and, and_false, and_true, true_and, and_self, encode, decode, Word.major, decodeRaw,
    extract_high, extract_low, extract_whole, Nat.reduceSub, decodeMajor03, Word.guard, unresolved, hw]
theorem RoundTrip.ori : ∀ d a imm, RoundTrip.Statement (.ori d a imm) := by
  intro d a imm hw _
  simp (disch := decide) only [↓reduceIte, BitVec.reduceEq, false_and, and_false, and_true, true_and, and_self, encode, decode, Word.major, decodeRaw,
    extract_high, extract_low, extract_whole, Nat.reduceSub, decodeMajor04, Word.guard, unresolved, hw]
theorem RoundTrip.xori : ∀ d a imm, RoundTrip.Statement (.xori d a imm) := by
  intro d a imm hw _
  simp (disch := decide) only [↓reduceIte, BitVec.reduceEq, false_and, and_false, and_true, true_and, and_self, encode, decode, Word.major, decodeRaw,
    extract_high, extract_low, extract_whole, Nat.reduceSub, decodeMajor05, Word.guard, unresolved, hw]
theorem RoundTrip.shli : ∀ d a n, RoundTrip.Statement (.shli d a n) := by
  intro d a n hw _
  simp (disch := decide) only [↓reduceIte, BitVec.reduceEq, false_and, and_false, and_true, true_and, and_self, encode, decode, Word.major, decodeRaw,
    extract_high, extract_low, extract_whole, Nat.reduceSub, decodeMajor06, Word.guard, unresolved, hw]
theorem RoundTrip.shri : ∀ d a n, RoundTrip.Statement (.shri d a n) := by
  intro d a n hw _
  simp (disch := decide) only [↓reduceIte, BitVec.reduceEq, false_and, and_false, and_true, true_and, and_self, encode, decode, Word.major, decodeRaw,
    extract_high, extract_low, extract_whole, Nat.reduceSub, decodeMajor06, Word.guard, unresolved, hw]
theorem RoundTrip.srai : ∀ d a n, RoundTrip.Statement (.srai d a n) := by
  intro d a n hw _
  simp (disch := decide) only [↓reduceIte, BitVec.reduceEq, false_and, and_false, and_true, true_and, and_self, encode, decode, Word.major, decodeRaw,
    extract_high, extract_low, extract_whole, Nat.reduceSub, decodeMajor06, Word.guard, unresolved, hw]
theorem RoundTrip.roli : ∀ d a n, RoundTrip.Statement (.roli d a n) := by
  intro d a n hw _
  simp (disch := decide) only [↓reduceIte, BitVec.reduceEq, false_and, and_false, and_true, true_and, and_self, encode, decode, Word.major, decodeRaw,
    extract_high, extract_low, extract_whole, Nat.reduceSub, decodeMajor06, Word.guard, unresolved, hw]
theorem RoundTrip.lui : ∀ d a imm, RoundTrip.Statement (.lui d a imm) := by
  intro d a imm hw _
  simp (disch := decide) only [↓reduceIte, BitVec.reduceEq, false_and, and_false, and_true, true_and, and_self, encode, decode, Word.major, decodeRaw,
    extract_high, extract_low, extract_whole, Nat.reduceSub, decodeMajor07, Word.guard, unresolved, hw]
/-- The operand word of a LIM decodes as itself. -/
theorem decodeIOp_encodeIOp (op : IOp) : decodeIOp (encodeIOp op) = some op := by
  cases op <;>
  simp (disch := decide) only [↓reduceIte, BitVec.reduceEq, and_self, encodeIOp, decodeIOp, Word.major, extract_high,
    extract_low, extract_whole, Nat.reduceSub]

theorem RoundTrip.lim : ∀ hi op, RoundTrip.Statement (.lim hi op) := by
  intro hi op hw _
  cases op with
  | none =>
    simp (disch := decide) only [↓reduceIte, encode, decode, Word.major, extract_high, extract_low, extract_whole,
      Nat.reduceSub, decodeLimOp, unresolved]
  | some o =>
    have hl : o.limOk hi = true := hw
    simp (disch := decide) only [↓reduceIte, encode, decode, Word.major, extract_high, extract_low, extract_whole,
      Nat.reduceSub, decodeLimOp, decodeIOp_encodeIOp, hl, unresolved]
theorem RoundTrip.lea : ∀ d a z off, RoundTrip.Statement (.lea d a z off) := by
  intro d a z off hw _
  simp (disch := decide) only [↓reduceIte, BitVec.reduceEq, false_and, and_false, and_true, true_and, and_self, encode, decode, Word.major, decodeRaw,
    extract_high, extract_low, extract_whole, Nat.reduceSub, decodeMajor08, Word.guard, unresolved, hw]
theorem RoundTrip.addr2 : ∀ d a b g ps z, RoundTrip.Statement (.addr2 d a b g ps z) := by
  intro d a b g ps z hw _
  simp (disch := decide) only [↓reduceIte, BitVec.reduceEq, false_and, and_false, and_true, true_and, and_self, encode, decode, Word.major, decodeRaw,
    extract_high, extract_low, extract_whole, Nat.reduceSub, decodeMajor09, Word.guard, unresolved, hw]
theorem RoundTrip.cmp : ∀ p a b g cc, RoundTrip.Statement (.cmp p a b g cc) := by
  intro p a b g cc hw _
  simp (disch := decide) only [↓reduceIte, BitVec.reduceEq, false_and, and_false, and_true, true_and, and_self, encode, decode, Word.major, decodeRaw,
    extract_high, extract_low, extract_whole, Nat.reduceSub, decodeMajor0A, Word.guard, unresolved, hw]
theorem RoundTrip.cmpi : ∀ cc p a imm, RoundTrip.Statement (.cmpi cc p a imm) := by
  intro cc p a imm hw _
  simp (disch := decide) only [↓reduceIte, BitVec.reduceEq, false_and, and_false, and_true, true_and, and_self, encode, decode, Word.major, decodeRaw,
    extract_high, extract_low, extract_whole, Nat.reduceSub, decodeMajor0B, Word.guard, unresolved, hw]
theorem RoundTrip.pand : ∀ pd pa pb g, RoundTrip.Statement (.pand pd pa pb g) := by
  intro pd pa pb g hw _
  simp (disch := decide) only [↓reduceIte, BitVec.reduceEq, false_and, and_false, and_true, true_and, and_self, encode, decode, Word.major, decodeRaw,
    extract_high, extract_low, extract_whole, Nat.reduceSub, decodeMajor0C, Word.guard, unresolved, hw]
theorem RoundTrip.por : ∀ pd pa pb g, RoundTrip.Statement (.por pd pa pb g) := by
  intro pd pa pb g hw _
  simp (disch := decide) only [↓reduceIte, BitVec.reduceEq, false_and, and_false, and_true, true_and, and_self, encode, decode, Word.major, decodeRaw,
    extract_high, extract_low, extract_whole, Nat.reduceSub, decodeMajor0C, Word.guard, unresolved, hw]
theorem RoundTrip.pxor : ∀ pd pa pb g, RoundTrip.Statement (.pxor pd pa pb g) := by
  intro pd pa pb g hw _
  simp (disch := decide) only [↓reduceIte, BitVec.reduceEq, false_and, and_false, and_true, true_and, and_self, encode, decode, Word.major, decodeRaw,
    extract_high, extract_low, extract_whole, Nat.reduceSub, decodeMajor0C, Word.guard, unresolved, hw]
theorem RoundTrip.pandn : ∀ pd pa pb g, RoundTrip.Statement (.pandn pd pa pb g) := by
  intro pd pa pb g hw _
  simp (disch := decide) only [↓reduceIte, BitVec.reduceEq, false_and, and_false, and_true, true_and, and_self, encode, decode, Word.major, decodeRaw,
    extract_high, extract_low, extract_whole, Nat.reduceSub, decodeMajor0C, Word.guard, unresolved, hw]
theorem RoundTrip.porn : ∀ pd pa pb g, RoundTrip.Statement (.porn pd pa pb g) := by
  intro pd pa pb g hw _
  simp (disch := decide) only [↓reduceIte, BitVec.reduceEq, false_and, and_false, and_true, true_and, and_self, encode, decode, Word.major, decodeRaw,
    extract_high, extract_low, extract_whole, Nat.reduceSub, decodeMajor0C, Word.guard, unresolved, hw]
theorem RoundTrip.sel : ∀ d a b g neg pc, RoundTrip.Statement (.sel d a b g neg pc) := by
  intro d a b g neg pc hw _
  simp (disch := decide) only [↓reduceIte, BitVec.reduceEq, false_and, and_false, and_true, true_and, and_self, encode, decode, Word.major, decodeRaw,
    extract_high, extract_low, extract_whole, Nat.reduceSub, decodeMajor0D, Word.guard, unresolved, hw]
theorem RoundTrip.csrr : ∀ d n, RoundTrip.Statement (.csrr d n) := by
  intro d n hw _
  simp (disch := decide) only [↓reduceIte, BitVec.reduceEq, false_and, and_false, and_true, true_and, and_self, encode, decode, Word.major, decodeRaw,
    extract_high, extract_low, extract_whole, Nat.reduceSub, decodeMajor0E, Word.guard, unresolved, hw]
theorem RoundTrip.csrw : ∀ a n, RoundTrip.Statement (.csrw a n) := by
  intro a n hw _
  simp (disch := decide) only [↓reduceIte, BitVec.reduceEq, false_and, and_false, and_true, true_and, and_self, encode, decode, Word.major, decodeRaw,
    extract_high, extract_low, extract_whole, Nat.reduceSub, decodeMajor0E, Word.guard, unresolved, hw]
theorem RoundTrip.csrrw : ∀ d a n, RoundTrip.Statement (.csrrw d a n) := by
  intro d a n hw _
  simp (disch := decide) only [↓reduceIte, BitVec.reduceEq, false_and, and_false, and_true, true_and, and_self, encode, decode, Word.major, decodeRaw,
    extract_high, extract_low, extract_whole, Nat.reduceSub, decodeMajor0E, Word.guard, unresolved, hw]
theorem RoundTrip.tagsWrite : ∀ v, RoundTrip.Statement (.tagsWrite v) := by
  intro v _ he
  exact absurd rfl he
theorem RoundTrip.flagsWrite : ∀ v, RoundTrip.Statement (.flagsWrite v) := by
  intro v _ he
  exact absurd rfl he
theorem RoundTrip.userCsrWrite : ∀ n v, RoundTrip.Statement (.userCsrWrite n v) := by
  intro n v _ he
  exact absurd rfl he
theorem RoundTrip.fadd : ∀ d a b g rm, RoundTrip.Statement (.fadd d a b g rm) := by
  intro d a b g rm hw _
  simp (disch := decide) only [↓reduceIte, BitVec.reduceEq, false_and, and_false, and_true, true_and, and_self, encode, decode, Word.major, decodeRaw,
    extract_high, extract_low, extract_whole, Nat.reduceSub, decodeMajor0F, Word.guard, unresolved, hw]
theorem RoundTrip.fsub : ∀ d a b g rm, RoundTrip.Statement (.fsub d a b g rm) := by
  intro d a b g rm hw _
  simp (disch := decide) only [↓reduceIte, BitVec.reduceEq, false_and, and_false, and_true, true_and, and_self, encode, decode, Word.major, decodeRaw,
    extract_high, extract_low, extract_whole, Nat.reduceSub, decodeMajor0F, Word.guard, unresolved, hw]
theorem RoundTrip.fmul : ∀ d a b g rm, RoundTrip.Statement (.fmul d a b g rm) := by
  intro d a b g rm hw _
  simp (disch := decide) only [↓reduceIte, BitVec.reduceEq, false_and, and_false, and_true, true_and, and_self, encode, decode, Word.major, decodeRaw,
    extract_high, extract_low, extract_whole, Nat.reduceSub, decodeMajor0F, Word.guard, unresolved, hw]
theorem RoundTrip.fdiv : ∀ d a b g rm, RoundTrip.Statement (.fdiv d a b g rm) := by
  intro d a b g rm hw _
  simp (disch := decide) only [↓reduceIte, BitVec.reduceEq, false_and, and_false, and_true, true_and, and_self, encode, decode, Word.major, decodeRaw,
    extract_high, extract_low, extract_whole, Nat.reduceSub, decodeMajor0F, Word.guard, unresolved, hw]
theorem RoundTrip.fsqrt : ∀ d a g rm, RoundTrip.Statement (.fsqrt d a g rm) := by
  intro d a g rm hw _
  simp (disch := decide) only [↓reduceIte, BitVec.reduceEq, false_and, and_false, and_true, true_and, and_self, encode, decode, Word.major, decodeRaw,
    extract_high, extract_low, extract_whole, Nat.reduceSub, decodeMajor0F, Word.guard, unresolved, hw]
theorem RoundTrip.fmin : ∀ d a b g, RoundTrip.Statement (.fmin d a b g) := by
  intro d a b g hw _
  simp (disch := decide) only [↓reduceIte, BitVec.reduceEq, false_and, and_false, and_true, true_and, and_self, encode, decode, Word.major, decodeRaw,
    extract_high, extract_low, extract_whole, Nat.reduceSub, decodeMajor0F, Word.guard, unresolved, hw]
  try simp [hw]
theorem RoundTrip.fmax : ∀ d a b g, RoundTrip.Statement (.fmax d a b g) := by
  intro d a b g hw _
  simp (disch := decide) only [↓reduceIte, BitVec.reduceEq, false_and, and_false, and_true, true_and, and_self, encode, decode, Word.major, decodeRaw,
    extract_high, extract_low, extract_whole, Nat.reduceSub, decodeMajor0F, Word.guard, unresolved, hw]
  try simp [hw]
theorem RoundTrip.fma : ∀ d a b g rm, RoundTrip.Statement (.fma d a b g rm) := by
  intro d a b g rm hw _
  simp (disch := decide) only [↓reduceIte, BitVec.reduceEq, false_and, and_false, and_true, true_and, and_self, encode, decode, Word.major, decodeRaw,
    extract_high, extract_low, extract_whole, Nat.reduceSub, decodeMajor0F, Word.guard, unresolved, hw]
theorem RoundTrip.fcvtfI64 : ∀ d a g rm, RoundTrip.Statement (.fcvtfI64 d a g rm) := by
  intro d a g rm hw _
  simp (disch := decide) only [↓reduceIte, BitVec.reduceEq, false_and, and_false, and_true, true_and, and_self, encode, decode, Word.major, decodeRaw,
    extract_high, extract_low, extract_whole, Nat.reduceSub, decodeMajor0F, Word.guard, unresolved, hw]
theorem RoundTrip.fcvtfN64 : ∀ d a g rm, RoundTrip.Statement (.fcvtfN64 d a g rm) := by
  intro d a g rm hw _
  simp (disch := decide) only [↓reduceIte, BitVec.reduceEq, false_and, and_false, and_true, true_and, and_self, encode, decode, Word.major, decodeRaw,
    extract_high, extract_low, extract_whole, Nat.reduceSub, decodeMajor0F, Word.guard, unresolved, hw]
theorem RoundTrip.fcvtiI64 : ∀ d a g rm, RoundTrip.Statement (.fcvtiI64 d a g rm) := by
  intro d a g rm hw _
  simp (disch := decide) only [↓reduceIte, BitVec.reduceEq, false_and, and_false, and_true, true_and, and_self, encode, decode, Word.major, decodeRaw,
    extract_high, extract_low, extract_whole, Nat.reduceSub, decodeMajor0F, Word.guard, unresolved, hw]
theorem RoundTrip.fcvtiN64 : ∀ d a g rm, RoundTrip.Statement (.fcvtiN64 d a g rm) := by
  intro d a g rm hw _
  simp (disch := decide) only [↓reduceIte, BitVec.reduceEq, false_and, and_false, and_true, true_and, and_self, encode, decode, Word.major, decodeRaw,
    extract_high, extract_low, extract_whole, Nat.reduceSub, decodeMajor0F, Word.guard, unresolved, hw]
theorem RoundTrip.fcmp : ∀ p a b g cc, RoundTrip.Statement (.fcmp p a b g cc) := by
  intro p a b g cc hw _
  simp (disch := decide) only [↓reduceIte, BitVec.reduceEq, false_and, and_false, and_true, true_and, and_self, encode, decode, Word.major, decodeRaw,
    extract_high, extract_low, extract_whole, Nat.reduceSub, decodeMajor0F, Word.guard, unresolved, hw]
theorem RoundTrip.br : ∀ p neg off, RoundTrip.Statement (.br p neg off) := by
  intro p neg off hw _
  simp (disch := decide) only [↓reduceIte, BitVec.reduceEq, false_and, and_false, and_true, true_and, and_self, encode, decode, Word.major, decodeRaw,
    extract_high, extract_low, extract_whole, Nat.reduceSub, decodeMajor10, Word.guard, unresolved, hw]
theorem RoundTrip.call : ∀ p neg off, RoundTrip.Statement (.call p neg off) := by
  intro p neg off hw _
  simp (disch := decide) only [↓reduceIte, BitVec.reduceEq, false_and, and_false, and_true, true_and, and_self, encode, decode, Word.major, decodeRaw,
    extract_high, extract_low, extract_whole, Nat.reduceSub, decodeMajor11, Word.guard, unresolved, hw]
theorem RoundTrip.jr : ∀ a g, RoundTrip.Statement (.jr a g) := by
  intro a g hw _
  simp (disch := decide) only [↓reduceIte, BitVec.reduceEq, false_and, and_false, and_true, true_and, and_self, encode, decode, Word.major, decodeRaw,
    extract_high, extract_low, extract_whole, Nat.reduceSub, decodeMajor12, Word.guard, unresolved, hw]
theorem RoundTrip.jalr : ∀ d a g, RoundTrip.Statement (.jalr d a g) := by
  intro d a g hw _
  simp (disch := decide) only [↓reduceIte, BitVec.reduceEq, false_and, and_false, and_true, true_and, and_self, encode, decode, Word.major, decodeRaw,
    extract_high, extract_low, extract_whole, Nat.reduceSub, decodeMajor12, Word.guard, unresolved, hw]
theorem RoundTrip.ret : ∀ g, RoundTrip.Statement (.ret g) := by
  intro g hw _
  simp (disch := decide) only [↓reduceIte, BitVec.reduceEq, false_and, and_false, and_true, true_and, and_self, encode, decode, Word.major, decodeRaw,
    extract_high, extract_low, extract_whole, Nat.reduceSub, decodeMajor12, Word.guard, unresolved, hw]
theorem RoundTrip.loop : ∀ d a imm, RoundTrip.Statement (.loop d a imm) := by
  intro d a imm hw _
  simp (disch := decide) only [↓reduceIte, BitVec.reduceEq, false_and, and_false, and_true, true_and, and_self, encode, decode, Word.major, decodeRaw,
    extract_high, extract_low, extract_whole, Nat.reduceSub, decodeMajor13, Word.guard, unresolved, hw]
theorem RoundTrip.trap : ∀ code, RoundTrip.Statement (.trap code) := by
  intro code hw _
  simp (disch := decide) only [↓reduceIte, BitVec.reduceEq, false_and, and_false, and_true, true_and, and_self, encode, decode, Word.major, decodeRaw,
    extract_high, extract_low, extract_whole, Nat.reduceSub, decodeMajor3C, Word.guard, unresolved, hw]
theorem RoundTrip.brk : ∀ code, RoundTrip.Statement (.brk code) := by
  intro code hw _
  simp (disch := decide) only [↓reduceIte, BitVec.reduceEq, false_and, and_false, and_true, true_and, and_self, encode, decode, Word.major, decodeRaw,
    extract_high, extract_low, extract_whole, Nat.reduceSub, decodeMajor3C, Word.guard, unresolved, hw]
theorem RoundTrip.halt : RoundTrip.Statement (.halt) := by
  intro hw _
  simp (disch := decide) only [↓reduceIte, BitVec.reduceEq, false_and, and_false, and_true, true_and, and_self, encode, decode, Word.major, decodeRaw,
    extract_high, extract_low, extract_whole, Nat.reduceSub, decodeMajor3C, Word.guard, unresolved, hw]
theorem RoundTrip.wfi : RoundTrip.Statement (.wfi) := by
  intro hw _
  simp (disch := decide) only [↓reduceIte, BitVec.reduceEq, false_and, and_false, and_true, true_and, and_self, encode, decode, Word.major, decodeRaw,
    extract_high, extract_low, extract_whole, Nat.reduceSub, decodeMajor3C, Word.guard, unresolved, hw]
theorem RoundTrip.boost : ∀ r, RoundTrip.Statement (.boost r) := by
  intro r hw _
  simp (disch := decide) only [↓reduceIte, BitVec.reduceEq, false_and, and_false, and_true, true_and, and_self, encode, decode, Word.major, decodeRaw,
    extract_high, extract_low, extract_whole, Nat.reduceSub, decodeMajor3C, Word.guard, unresolved, hw]
theorem RoundTrip.saveset : ∀ r n, RoundTrip.Statement (.saveset r n) := by
  intro r n hw _
  simp (disch := decide) only [↓reduceIte, BitVec.reduceEq, false_and, and_false, and_true, true_and, and_self, encode, decode, Word.major, decodeRaw,
    extract_high, extract_low, extract_whole, Nat.reduceSub, decodeMajor3C, Word.guard, unresolved, hw]
theorem RoundTrip.energy : ∀ r, RoundTrip.Statement (.energy r) := by
  intro r hw _
  simp (disch := decide) only [↓reduceIte, BitVec.reduceEq, false_and, and_false, and_true, true_and, and_self, encode, decode, Word.major, decodeRaw,
    extract_high, extract_low, extract_whole, Nat.reduceSub, decodeMajor3C, Word.guard, unresolved, hw]
theorem RoundTrip.eretResume : RoundTrip.Statement (.eretResume) := by
  intro hw _
  decide
theorem RoundTrip.eretKill : RoundTrip.Statement (.eretKill) := by
  intro hw _
  decide
theorem RoundTrip.eretWake : RoundTrip.Statement (.eretWake) := by
  intro hw _
  decide
theorem RoundTrip.pcsrr : ∀ r n, RoundTrip.Statement (.pcsrr r n) := by
  intro r n hw _
  simp (disch := decide) only [↓reduceIte, BitVec.reduceEq, false_and, and_false, and_true, true_and, and_self, encode, decode, Word.major, decodeRaw,
    extract_high, extract_low, extract_whole, Nat.reduceSub, decodeMajor3C, Word.guard, unresolved, hw]
theorem RoundTrip.pcsrw : ∀ r n, RoundTrip.Statement (.pcsrw r n) := by
  intro r n hw _
  simp (disch := decide) only [↓reduceIte, BitVec.reduceEq, false_and, and_false, and_true, true_and, and_self, encode, decode, Word.major, decodeRaw,
    extract_high, extract_low, extract_whole, Nat.reduceSub, decodeMajor3C, Word.guard, unresolved, hw]
theorem RoundTrip.tnextRead : ∀ r, RoundTrip.Statement (.tnextRead r) := by
  intro r _ he
  exact absurd rfl he
theorem RoundTrip.tselWrite : ∀ v, RoundTrip.Statement (.tselWrite v) := by
  intro v _ he
  exact absurd rfl he
theorem RoundTrip.ptRootWrite : ∀ v, RoundTrip.Statement (.ptRootWrite v) := by
  intro v _ he
  exact absurd rfl he
theorem RoundTrip.fpoolWrite : ∀ v, RoundTrip.Statement (.fpoolWrite v) := by
  intro v _ he
  exact absurd rfl he
theorem RoundTrip.sdlLoadWrite : ∀ v, RoundTrip.Statement (.sdlLoadWrite v) := by
  intro v _ he
  exact absurd rfl he
theorem RoundTrip.sdlLoadApply : ∀ key, RoundTrip.Statement (.sdlLoadApply key) := by
  intro key _ he
  exact absurd rfl he
theorem RoundTrip.privCsrWrite : ∀ n v, RoundTrip.Statement (.privCsrWrite n v) := by
  intro n v _ he
  exact absurd rfl he
theorem RoundTrip.ldB : ∀ d a k sc off, RoundTrip.Statement (.ldB d a k sc off) := by
  intro d a k sc off hw _
  simp (disch := decide) only [↓reduceIte, BitVec.reduceEq, false_and, and_false, and_true, true_and, and_self, encode, decode, Word.major, decodeRaw,
    extract_high, extract_low, extract_whole, Nat.reduceSub, decodeMajor18, Word.guard, unresolved, hw]
theorem RoundTrip.ldH : ∀ d a k sc off, RoundTrip.Statement (.ldH d a k sc off) := by
  intro d a k sc off hw _
  simp (disch := decide) only [↓reduceIte, BitVec.reduceEq, false_and, and_false, and_true, true_and, and_self, encode, decode, Word.major, decodeRaw,
    extract_high, extract_low, extract_whole, Nat.reduceSub, decodeMajor19, Word.guard, unresolved, hw]
theorem RoundTrip.ldW : ∀ d a k sc off, RoundTrip.Statement (.ldW d a k sc off) := by
  intro d a k sc off hw _
  simp (disch := decide) only [↓reduceIte, BitVec.reduceEq, false_and, and_false, and_true, true_and, and_self, encode, decode, Word.major, decodeRaw,
    extract_high, extract_low, extract_whole, Nat.reduceSub, decodeMajor1A, Word.guard, unresolved, hw]
theorem RoundTrip.ldD : ∀ d a k sc off, RoundTrip.Statement (.ldD d a k sc off) := by
  intro d a k sc off hw _
  simp (disch := decide) only [↓reduceIte, BitVec.reduceEq, false_and, and_false, and_true, true_and, and_self, encode, decode, Word.major, decodeRaw,
    extract_high, extract_low, extract_whole, Nat.reduceSub, decodeMajor1B, Word.guard, unresolved, hw]
theorem RoundTrip.stB : ∀ d a k sc off, RoundTrip.Statement (.stB d a k sc off) := by
  intro d a k sc off hw _
  simp (disch := decide) only [↓reduceIte, BitVec.reduceEq, false_and, and_false, and_true, true_and, and_self, encode, decode, Word.major, decodeRaw,
    extract_high, extract_low, extract_whole, Nat.reduceSub, decodeMajor1C, Word.guard, unresolved, hw]
theorem RoundTrip.stH : ∀ d a k sc off, RoundTrip.Statement (.stH d a k sc off) := by
  intro d a k sc off hw _
  simp (disch := decide) only [↓reduceIte, BitVec.reduceEq, false_and, and_false, and_true, true_and, and_self, encode, decode, Word.major, decodeRaw,
    extract_high, extract_low, extract_whole, Nat.reduceSub, decodeMajor1D, Word.guard, unresolved, hw]
theorem RoundTrip.stW : ∀ d a k sc off, RoundTrip.Statement (.stW d a k sc off) := by
  intro d a k sc off hw _
  simp (disch := decide) only [↓reduceIte, BitVec.reduceEq, false_and, and_false, and_true, true_and, and_self, encode, decode, Word.major, decodeRaw,
    extract_high, extract_low, extract_whole, Nat.reduceSub, decodeMajor1E, Word.guard, unresolved, hw]
theorem RoundTrip.stD : ∀ d a k sc off, RoundTrip.Statement (.stD d a k sc off) := by
  intro d a k sc off hw _
  simp (disch := decide) only [↓reduceIte, BitVec.reduceEq, false_and, and_false, and_true, true_and, and_self, encode, decode, Word.major, decodeRaw,
    extract_high, extract_low, extract_whole, Nat.reduceSub, decodeMajor1F, Word.guard, unresolved, hw]
theorem RoundTrip.sts : ∀ d a k sc z off, RoundTrip.Statement (.sts d a k sc z off) := by
  intro d a k sc z off hw _
  simp (disch := decide) only [↓reduceIte, BitVec.reduceEq, false_and, and_false, and_true, true_and, and_self, encode, decode, Word.major, decodeRaw,
    extract_high, extract_low, extract_whole, Nat.reduceSub, decodeMajor21, Word.guard, unresolved, hw]
theorem RoundTrip.lda : ∀ d a k sc z off, RoundTrip.Statement (.lda d a k sc z off) := by
  intro d a k sc z off hw _
  simp (disch := decide) only [↓reduceIte, BitVec.reduceEq, false_and, and_false, and_true, true_and, and_self, encode, decode, Word.major, decodeRaw,
    extract_high, extract_low, extract_whole, Nat.reduceSub, decodeMajor22, Word.guard, unresolved, hw]
theorem RoundTrip.ldwSync : ∀ d a k sc z off, RoundTrip.Statement (.ldwSync d a k sc z off) := by
  intro d a k sc z off hw _
  simp (disch := decide) only [↓reduceIte, BitVec.reduceEq, false_and, and_false, and_true, true_and, and_self, encode, decode, Word.major, decodeRaw,
    extract_high, extract_low, extract_whole, Nat.reduceSub, decodeMajor20, Word.guard, unresolved, hw]
theorem RoundTrip.ldwTake : ∀ d a k sc z off, RoundTrip.Statement (.ldwTake d a k sc z off) := by
  intro d a k sc z off hw _
  simp (disch := decide) only [↓reduceIte, BitVec.reduceEq, false_and, and_false, and_true, true_and, and_self, encode, decode, Word.major, decodeRaw,
    extract_high, extract_low, extract_whole, Nat.reduceSub, decodeMajor20, Word.guard, unresolved, hw]
theorem RoundTrip.stwFill : ∀ d a k sc z off, RoundTrip.Statement (.stwFill d a k sc z off) := by
  intro d a k sc z off hw _
  simp (disch := decide) only [↓reduceIte, BitVec.reduceEq, false_and, and_false, and_true, true_and, and_self, encode, decode, Word.major, decodeRaw,
    extract_high, extract_low, extract_whole, Nat.reduceSub, decodeMajor20, Word.guard, unresolved, hw]
theorem RoundTrip.stwClear : ∀ a k sc off, RoundTrip.Statement (.stwClear a k sc off) := by
  intro a k sc off hw _
  simp (disch := decide) only [↓reduceIte, BitVec.reduceEq, false_and, and_false, and_true, true_and, and_self, encode, decode, Word.major, decodeRaw,
    extract_high, extract_low, extract_whole, Nat.reduceSub, decodeMajor20, Word.guard, unresolved, hw]
theorem RoundTrip.fes : ∀ d a k sc off, RoundTrip.Statement (.fes d a k sc off) := by
  intro d a k sc off hw _
  simp (disch := decide) only [↓reduceIte, BitVec.reduceEq, false_and, and_false, and_true, true_and, and_self, encode, decode, Word.major, decodeRaw,
    extract_high, extract_low, extract_whole, Nat.reduceSub, decodeMajor20, Word.guard, unresolved, hw]
theorem RoundTrip.parkedAccessServe : ∀ sector, RoundTrip.Statement (.parkedAccessServe sector) := by
  intro sector _ he
  exact absurd rfl he
theorem RoundTrip.parkedAccessRetry : ∀ key, RoundTrip.Statement (.parkedAccessRetry key) := by
  intro key _ he
  exact absurd rfl he
theorem RoundTrip.amoSwap : ∀ d a k sc sz off, RoundTrip.Statement (.amoSwap d a k sc sz off) := by
  intro d a k sc sz off hw _
  simp (disch := decide) only [↓reduceIte, BitVec.reduceEq, false_and, and_false, and_true, true_and, and_self, encode, decode, Word.major, decodeRaw,
    extract_high, extract_low, extract_whole, Nat.reduceSub, decodeMajor23, Word.guard, unresolved, hw]
theorem RoundTrip.amoCas : ∀ d a k sc sz off, RoundTrip.Statement (.amoCas d a k sc sz off) := by
  intro d a k sc sz off hw _
  simp (disch := decide) only [↓reduceIte, BitVec.reduceEq, false_and, and_false, and_true, true_and, and_self, encode, decode, Word.major, decodeRaw,
    extract_high, extract_low, extract_whole, Nat.reduceSub, decodeMajor23, Word.guard, unresolved, hw]
theorem RoundTrip.amoAdd : ∀ d a k sc sz off, RoundTrip.Statement (.amoAdd d a k sc sz off) := by
  intro d a k sc sz off hw _
  simp (disch := decide) only [↓reduceIte, BitVec.reduceEq, false_and, and_false, and_true, true_and, and_self, encode, decode, Word.major, decodeRaw,
    extract_high, extract_low, extract_whole, Nat.reduceSub, decodeMajor23, Word.guard, unresolved, hw]
theorem RoundTrip.amoAnd : ∀ d a k sc sz off, RoundTrip.Statement (.amoAnd d a k sc sz off) := by
  intro d a k sc sz off hw _
  simp (disch := decide) only [↓reduceIte, BitVec.reduceEq, false_and, and_false, and_true, true_and, and_self, encode, decode, Word.major, decodeRaw,
    extract_high, extract_low, extract_whole, Nat.reduceSub, decodeMajor23, Word.guard, unresolved, hw]
theorem RoundTrip.amoOr : ∀ d a k sc sz off, RoundTrip.Statement (.amoOr d a k sc sz off) := by
  intro d a k sc sz off hw _
  simp (disch := decide) only [↓reduceIte, BitVec.reduceEq, false_and, and_false, and_true, true_and, and_self, encode, decode, Word.major, decodeRaw,
    extract_high, extract_low, extract_whole, Nat.reduceSub, decodeMajor23, Word.guard, unresolved, hw]
theorem RoundTrip.amoXor : ∀ d a k sc sz off, RoundTrip.Statement (.amoXor d a k sc sz off) := by
  intro d a k sc sz off hw _
  simp (disch := decide) only [↓reduceIte, BitVec.reduceEq, false_and, and_false, and_true, true_and, and_self, encode, decode, Word.major, decodeRaw,
    extract_high, extract_low, extract_whole, Nat.reduceSub, decodeMajor23, Word.guard, unresolved, hw]
theorem RoundTrip.amoMin : ∀ d a k sc sz off, RoundTrip.Statement (.amoMin d a k sc sz off) := by
  intro d a k sc sz off hw _
  simp (disch := decide) only [↓reduceIte, BitVec.reduceEq, false_and, and_false, and_true, true_and, and_self, encode, decode, Word.major, decodeRaw,
    extract_high, extract_low, extract_whole, Nat.reduceSub, decodeMajor23, Word.guard, unresolved, hw]
theorem RoundTrip.amoMax : ∀ d a k sc sz off, RoundTrip.Statement (.amoMax d a k sc sz off) := by
  intro d a k sc sz off hw _
  simp (disch := decide) only [↓reduceIte, BitVec.reduceEq, false_and, and_false, and_true, true_and, and_self, encode, decode, Word.major, decodeRaw,
    extract_high, extract_low, extract_whole, Nat.reduceSub, decodeMajor23, Word.guard, unresolved, hw]
theorem RoundTrip.amoMinn : ∀ d a k sc sz off, RoundTrip.Statement (.amoMinn d a k sc sz off) := by
  intro d a k sc sz off hw _
  simp (disch := decide) only [↓reduceIte, BitVec.reduceEq, false_and, and_false, and_true, true_and, and_self, encode, decode, Word.major, decodeRaw,
    extract_high, extract_low, extract_whole, Nat.reduceSub, decodeMajor23, Word.guard, unresolved, hw]
theorem RoundTrip.amoMaxn : ∀ d a k sc sz off, RoundTrip.Statement (.amoMaxn d a k sc sz off) := by
  intro d a k sc sz off hw _
  simp (disch := decide) only [↓reduceIte, BitVec.reduceEq, false_and, and_false, and_true, true_and, and_self, encode, decode, Word.major, decodeRaw,
    extract_high, extract_low, extract_whole, Nat.reduceSub, decodeMajor23, Word.guard, unresolved, hw]
theorem RoundTrip.amoFadd : ∀ d a k sc off, RoundTrip.Statement (.amoFadd d a k sc off) := by
  intro d a k sc off hw _
  simp (disch := decide) only [↓reduceIte, BitVec.reduceEq, false_and, and_false, and_true, true_and, and_self, encode, decode, Word.major, decodeRaw,
    extract_high, extract_low, extract_whole, Nat.reduceSub, decodeMajor23, Word.guard, unresolved, hw]
theorem RoundTrip.invoke : ∀ d a k sc e t, RoundTrip.Statement (.invoke d a k sc e t) := by
  intro d a k sc e t hw _
  simp (disch := decide) only [↓reduceIte, BitVec.reduceEq, false_and, and_false, and_true, true_and, and_self, encode, decode, Word.major, decodeRaw,
    extract_high, extract_low, extract_whole, Nat.reduceSub, decodeMajor24, Word.guard, unresolved, hw]
theorem RoundTrip.saddleRun : RoundTrip.Statement (.saddleRun) := by
  intro _ he
  exact absurd rfl he
theorem RoundTrip.invocationResult : RoundTrip.Statement (.invocationResult) := by
  intro _ he
  exact absurd rfl he
theorem RoundTrip.tjoin : ∀ kd ka kb g, RoundTrip.Statement (.tjoin kd ka kb g) := by
  intro kd ka kb g hw _
  simp (disch := decide) only [↓reduceIte, BitVec.reduceEq, false_and, and_false, and_true, true_and, and_self, encode, decode, Word.major, decodeRaw,
    extract_high, extract_low, extract_whole, Nat.reduceSub, decodeMajor26, Word.guard, unresolved, hw]
theorem RoundTrip.twait : ∀ ka g, RoundTrip.Statement (.twait ka g) := by
  intro ka g hw _
  simp (disch := decide) only [↓reduceIte, BitVec.reduceEq, false_and, and_false, and_true, true_and, and_self, encode, decode, Word.major, decodeRaw,
    extract_high, extract_low, extract_whole, Nat.reduceSub, decodeMajor26, Word.guard, unresolved, hw]
theorem RoundTrip.fence : ∀ sc, RoundTrip.Statement (.fence sc) := by
  intro sc hw _
  have hw : (Instr.fence sc).wf = true := rfl
  simp (disch := decide) only [↓reduceIte, BitVec.reduceEq, false_and, and_false, and_true, true_and, and_self, encode, decode, Word.major, decodeRaw,
    extract_high, extract_low, extract_whole, Nat.reduceSub, decodeMajor27, Word.guard, unresolved, hw]
  simp [hw]
theorem RoundTrip.fenceFlag : ∀ a k sc off, RoundTrip.Statement (.fenceFlag a k sc off) := by
  intro a k sc off hw _
  simp (disch := decide) only [↓reduceIte, BitVec.reduceEq, false_and, and_false, and_true, true_and, and_self, encode, decode, Word.major, decodeRaw,
    extract_high, extract_low, extract_whole, Nat.reduceSub, decodeMajor27, Word.guard, unresolved, hw]
  try simp [hw]
theorem RoundTrip.waitany : ∀ d a g, RoundTrip.Statement (.waitany d a g) := by
  intro d a g hw _
  simp (disch := decide) only [↓reduceIte, BitVec.reduceEq, false_and, and_false, and_true, true_and, and_self, encode, decode, Word.major, decodeRaw,
    extract_high, extract_low, extract_whole, Nat.reduceSub, decodeMajor28, Word.guard, unresolved, hw]
theorem RoundTrip.waitall : ∀ d a g, RoundTrip.Statement (.waitall d a g) := by
  intro d a g hw _
  simp (disch := decide) only [↓reduceIte, BitVec.reduceEq, false_and, and_false, and_true, true_and, and_self, encode, decode, Word.major, decodeRaw,
    extract_high, extract_low, extract_whole, Nat.reduceSub, decodeMajor28, Word.guard, unresolved, hw]
theorem RoundTrip.ffr : ∀ d a g, RoundTrip.Statement (.ffr d a g) := by
  intro d a g hw _
  simp (disch := decide) only [↓reduceIte, BitVec.reduceEq, false_and, and_false, and_true, true_and, and_self, encode, decode, Word.major, decodeRaw,
    extract_high, extract_low, extract_whole, Nat.reduceSub, decodeMajor28, Word.guard, unresolved, hw]
theorem RoundTrip.ffrClr : ∀ d a g, RoundTrip.Statement (.ffrClr d a g) := by
  intro d a g hw _
  simp (disch := decide) only [↓reduceIte, BitVec.reduceEq, false_and, and_false, and_true, true_and, and_self, encode, decode, Word.major, decodeRaw,
    extract_high, extract_low, extract_whole, Nat.reduceSub, decodeMajor28, Word.guard, unresolved, hw]
theorem RoundTrip.dsync : ∀ l, RoundTrip.Statement (.dsync l) := by
  intro l hw _
  simp (disch := decide) only [↓reduceIte, BitVec.reduceEq, false_and, and_false, and_true, true_and, and_self, encode, decode, Word.major, decodeRaw,
    extract_high, extract_low, extract_whole, Nat.reduceSub, decodeMajor29, Word.guard, unresolved, hw]
theorem RoundTrip.bind : ∀ ag port prog tv t, RoundTrip.Statement (.bind ag port prog tv t) := by
  intro ag port prog tv t hw _
  have hp : port ≠ 31#5 := by
    intro h
    subst h
    have : isSourcePort 31 = false ∧ isSinkPort 31 = false := by decide
    simp [Instr.wf, this] at hw
  simp (disch := decide) only [↓reduceIte, BitVec.reduceEq, false_and, and_false, and_true, true_and, and_self, encode, decode, Word.major, decodeRaw,
    extract_high, extract_low, extract_whole, Nat.reduceSub, decodeMajor30, Word.guard, unresolved, hw, hp]
theorem RoundTrip.unbind : ∀ ag, RoundTrip.Statement (.unbind ag) := by
  intro ag hw _
  simp (disch := decide) only [↓reduceIte, BitVec.reduceEq, false_and, and_false, and_true, true_and, and_self, encode, decode, Word.major, decodeRaw,
    extract_high, extract_low, extract_whole, Nat.reduceSub, decodeMajor30, Word.guard, unresolved, hw]
  try simp [hw]
theorem RoundTrip.tctlStart : ∀ e ix, RoundTrip.Statement (.tctlStart e ix) := by
  intro e ix hw _
  simp (disch := decide) only [↓reduceIte, BitVec.reduceEq, false_and, and_false, and_true, true_and, and_self, encode, decode, Word.major, decodeRaw,
    extract_high, extract_low, extract_whole, Nat.reduceSub, decodeMajor31, Word.guard, unresolved, hw]
theorem RoundTrip.tctlStop : ∀ e, RoundTrip.Statement (.tctlStop e) := by
  intro e hw _
  simp (disch := decide) only [↓reduceIte, BitVec.reduceEq, false_and, and_false, and_true, true_and, and_self, encode, decode, Word.major, decodeRaw,
    extract_high, extract_low, extract_whole, Nat.reduceSub, decodeMajor31, Word.guard, unresolved, hw]
theorem RoundTrip.tctlResume : ∀ e, RoundTrip.Statement (.tctlResume e) := by
  intro e hw _
  simp (disch := decide) only [↓reduceIte, BitVec.reduceEq, false_and, and_false, and_true, true_and, and_self, encode, decode, Word.major, decodeRaw,
    extract_high, extract_low, extract_whole, Nat.reduceSub, decodeMajor31, Word.guard, unresolved, hw]
theorem RoundTrip.tctlBase : ∀ ag r, RoundTrip.Statement (.tctlBase ag r) := by
  intro ag r hw _
  simp (disch := decide) only [↓reduceIte, BitVec.reduceEq, false_and, and_false, and_true, true_and, and_self, encode, decode, Word.major, decodeRaw,
    extract_high, extract_low, extract_whole, Nat.reduceSub, decodeMajor31, Word.guard, unresolved, hw]
theorem RoundTrip.tctlStat : ∀ e r, RoundTrip.Statement (.tctlStat e r) := by
  intro e r hw _
  simp (disch := decide) only [↓reduceIte, BitVec.reduceEq, false_and, and_false, and_true, true_and, and_self, encode, decode, Word.major, decodeRaw,
    extract_high, extract_low, extract_whole, Nat.reduceSub, decodeMajor31, Word.guard, unresolved, hw]
theorem RoundTrip.strm : ∀ ag r, RoundTrip.Statement (.strm ag r) := by
  intro ag r hw _
  simp (disch := decide) only [↓reduceIte, BitVec.reduceEq, false_and, and_false, and_true, true_and, and_self, encode, decode, Word.major, decodeRaw,
    extract_high, extract_low, extract_whole, Nat.reduceSub, decodeMajor32, Word.guard, unresolved, hw]
theorem RoundTrip.strmI : ∀ ag n, RoundTrip.Statement (.strmI ag n) := by
  intro ag n hw _
  simp (disch := decide) only [↓reduceIte, BitVec.reduceEq, false_and, and_false, and_true, true_and, and_self, encode, decode, Word.major, decodeRaw,
    extract_high, extract_low, extract_whole, Nat.reduceSub, decodeMajor32, Word.guard, unresolved, hw]
theorem RoundTrip.drain : ∀ port t, RoundTrip.Statement (.drain port t) := by
  intro port t hw _
  have hp : port ≠ 62#6 := by
    intro h
    subst h
    have : isSourcePort 62 = false := by decide
    simp [Instr.wf, this] at hw
  simp (disch := decide) only [↓reduceIte, BitVec.reduceEq, false_and, and_false, and_true, true_and, and_self, encode, decode, Word.major, decodeRaw,
    extract_high, extract_low, extract_whole, Nat.reduceSub, decodeMajor33, Word.guard, unresolved, hw, hp]
theorem RoundTrip.drainSlot : ∀ t, RoundTrip.Statement (.drainSlot t) := by
  intro t hw _
  simp (disch := decide) only [↓reduceIte, BitVec.reduceEq, false_and, and_false, and_true, true_and, and_self, encode, decode, Word.major, decodeRaw,
    extract_high, extract_low, extract_whole, Nat.reduceSub, decodeMajor33, Word.guard, unresolved, hw]
theorem RoundTrip.drainMarker : ∀ key port, RoundTrip.Statement (.drainMarker key port) := by
  intro key port _ he
  exact absurd rfl he
theorem RoundTrip.cfgLd : ∀ r, RoundTrip.Statement (.cfgLd r) := by
  intro r hw _
  simp (disch := decide) only [↓reduceIte, BitVec.reduceEq, false_and, and_false, and_true, true_and, and_self, encode, decode, Word.major, decodeRaw,
    extract_high, extract_low, extract_whole, Nat.reduceSub, decodeMajor34, Word.guard, unresolved, hw]
theorem RoundTrip.cfgStage : ∀ r, RoundTrip.Statement (.cfgStage r) := by
  intro r hw _
  simp (disch := decide) only [↓reduceIte, BitVec.reduceEq, false_and, and_false, and_true, true_and, and_self, encode, decode, Word.major, decodeRaw,
    extract_high, extract_low, extract_whole, Nat.reduceSub, decodeMajor34, Word.guard, unresolved, hw]
theorem RoundTrip.cfgSw : ∀ t, RoundTrip.Statement (.cfgSw t) := by
  intro t hw _
  simp (disch := decide) only [↓reduceIte, BitVec.reduceEq, false_and, and_false, and_true, true_and, and_self, encode, decode, Word.major, decodeRaw,
    extract_high, extract_low, extract_whole, Nat.reduceSub, decodeMajor34, Word.guard, unresolved, hw]
theorem RoundTrip.eocSwitch : ∀ key node, RoundTrip.Statement (.eocSwitch key node) := by
  intro key node _ he
  exact absurd rfl he
theorem RoundTrip.lqStat : ∀ r q, RoundTrip.Statement (.lqStat r q) := by
  intro r q hw _
  simp (disch := decide) only [↓reduceIte, BitVec.reduceEq, false_and, and_false, and_true, true_and, and_self, encode, decode, Word.major, decodeRaw,
    extract_high, extract_low, extract_whole, Nat.reduceSub, decodeMajor35, Word.guard, unresolved, hw]
theorem RoundTrip.launch : ∀ r, RoundTrip.Statement (.launch r) := by
  intro r hw _
  simp (disch := decide) only [↓reduceIte, BitVec.reduceEq, false_and, and_false, and_true, true_and, and_self, encode, decode, Word.major, decodeRaw,
    extract_high, extract_low, extract_whole, Nat.reduceSub, decodeMajor36, Word.guard, unresolved, hw]
theorem RoundTrip.exit : RoundTrip.Statement (.exit) := by
  intro hw _
  simp (disch := decide) only [↓reduceIte, BitVec.reduceEq, false_and, and_false, and_true, true_and, and_self, encode, decode, Word.major, decodeRaw,
    extract_high, extract_low, extract_whole, Nat.reduceSub, decodeMajor36, Word.guard, unresolved, hw]
theorem RoundTrip.yield : RoundTrip.Statement (.yield) := by
  intro hw _
  simp (disch := decide) only [↓reduceIte, BitVec.reduceEq, false_and, and_false, and_true, true_and, and_self, encode, decode, Word.major, decodeRaw,
    extract_high, extract_low, extract_whole, Nat.reduceSub, decodeMajor36, Word.guard, unresolved, hw]
theorem RoundTrip.marm : ∀ v ix t n, RoundTrip.Statement (.marm v ix t n) := by
  intro v ix t n hw _
  simp (disch := decide) only [↓reduceIte, BitVec.reduceEq, false_and, and_false, and_true, true_and, and_self, encode, decode, Word.major, decodeRaw,
    extract_high, extract_low, extract_whole, Nat.reduceSub, decodeMajor38, Word.guard, unresolved, hw]
theorem RoundTrip.mfence : ∀ m, RoundTrip.Statement (.mfence m) := by
  intro m hw _
  simp (disch := decide) only [↓reduceIte, BitVec.reduceEq, false_and, and_false, and_true, true_and, and_self, encode, decode, Word.major, decodeRaw,
    extract_high, extract_low, extract_whole, Nat.reduceSub, decodeMajor39, Word.guard, unresolved, hw]
theorem RoundTrip.accClr : ∀ m, RoundTrip.Statement (.accClr m) := by
  intro m hw _
  simp (disch := decide) only [↓reduceIte, BitVec.reduceEq, false_and, and_false, and_true, true_and, and_self, encode, decode, Word.major, decodeRaw,
    extract_high, extract_low, extract_whole, Nat.reduceSub, decodeMajor3A, Word.guard, unresolved, hw]
theorem RoundTrip.accHold : ∀ m, RoundTrip.Statement (.accHold m) := by
  intro m hw _
  simp (disch := decide) only [↓reduceIte, BitVec.reduceEq, false_and, and_false, and_true, true_and, and_self, encode, decode, Word.major, decodeRaw,
    extract_high, extract_low, extract_whole, Nat.reduceSub, decodeMajor3A, Word.guard, unresolved, hw]
theorem RoundTrip.accStat : ∀ r, RoundTrip.Statement (.accStat r) := by
  intro r hw _
  simp (disch := decide) only [↓reduceIte, BitVec.reduceEq, false_and, and_false, and_true, true_and, and_self, encode, decode, Word.major, decodeRaw,
    extract_high, extract_low, extract_whole, Nat.reduceSub, decodeMajor3A, Word.guard, unresolved, hw]
theorem RoundTrip.accRd : ∀ r n, RoundTrip.Statement (.accRd r n) := by
  intro r n hw _
  simp (disch := decide) only [↓reduceIte, BitVec.reduceEq, false_and, and_false, and_true, true_and, and_self, encode, decode, Word.major, decodeRaw,
    extract_high, extract_low, extract_whole, Nat.reduceSub, decodeMajor3A, Word.guard, unresolved, hw]
theorem RoundTrip.streamAccess : ∀ key ag, RoundTrip.Statement (.streamAccess key ag) := by
  intro key ag _ he
  exact absurd rfl he
theorem RoundTrip.combiningBufferSend : ∀ key n, RoundTrip.Statement (.combiningBufferSend key n) := by
  intro key n _ he
  exact absurd rfl he
theorem RoundTrip.tableWalk : ∀ key va kind, RoundTrip.Statement (.tableWalk key va kind) := by
  intro key va kind _ he
  exact absurd rfl he
theorem RoundTrip.invalidation : ∀ sector, RoundTrip.Statement (.invalidation sector) := by
  intro sector _ he
  exact absurd rfl he
theorem RoundTrip.tokenAccept : ∀ key point, RoundTrip.Statement (.tokenAccept key point) := by
  intro key point _ he
  exact absurd rfl he
theorem RoundTrip.laneFire : ∀ key lane, RoundTrip.Statement (.laneFire key lane) := by
  intro key lane _ he
  exact absurd rfl he
theorem RoundTrip.laneEos : ∀ key lane, RoundTrip.Statement (.laneEos key lane) := by
  intro key lane _ he
  exact absurd rfl he
theorem RoundTrip.groupFire : ∀ key grp, RoundTrip.Statement (.groupFire key grp) := by
  intro key grp _ he
  exact absurd rfl he
theorem RoundTrip.switchBoxFire : ∀ key node, RoundTrip.Statement (.switchBoxFire key node) := by
  intro key node _ he
  exact absurd rfl he
theorem RoundTrip.arcEosPadding : ∀ key arc, RoundTrip.Statement (.arcEosPadding key arc) := by
  intro key arc _ he
  exact absurd rfl he
theorem RoundTrip.latchEosPadding : ∀ key north, RoundTrip.Statement (.latchEosPadding key north) := by
  intro key north _ he
  exact absurd rfl he
theorem RoundTrip.gatherRead : ∀ key, RoundTrip.Statement (.gatherRead key) := by
  intro key _ he
  exact absurd rfl he
theorem RoundTrip.mmaFire : ∀ key ix, RoundTrip.Statement (.mmaFire key ix) := by
  intro key ix _ he
  exact absurd rfl he
theorem RoundTrip.mltFire : ∀ key ix, RoundTrip.Statement (.mltFire key ix) := by
  intro key ix _ he
  exact absurd rfl he
theorem RoundTrip.mstFire : ∀ key ix, RoundTrip.Statement (.mstFire key ix) := by
  intro key ix _ he
  exact absurd rfl he
theorem RoundTrip.armingEnd : ∀ key ix, RoundTrip.Statement (.armingEnd key ix) := by
  intro key ix _ he
  exact absurd rfl he
theorem RoundTrip.arrayEos : ∀ key out, RoundTrip.Statement (.arrayEos key out) := by
  intro key out _ he
  exact absurd rfl he
theorem RoundTrip.sinkEos : ∀ key port, RoundTrip.Statement (.sinkEos key port) := by
  intro key port _ he
  exact absurd rfl he
theorem RoundTrip.egressGroupSend : ∀ key q, RoundTrip.Statement (.egressGroupSend key q) := by
  intro key q _ he
  exact absurd rfl he
theorem RoundTrip.egressEos : ∀ key q, RoundTrip.Statement (.egressEos key q) := by
  intro key q _ he
  exact absurd rfl he
theorem RoundTrip.integrityCheck : ∀ key q good, RoundTrip.Statement (.integrityCheck key q good) := by
  intro key q good _ he
  exact absurd rfl he
theorem RoundTrip.groupReplay : ∀ key q, RoundTrip.Statement (.groupReplay key q) := by
  intro key q _ he
  exact absurd rfl he
theorem RoundTrip.ingressEos : ∀ key q, RoundTrip.Statement (.ingressEos key q) := by
  intro key q _ he
  exact absurd rfl he
theorem RoundTrip.oiAdvance : ∀ rid part, RoundTrip.Statement (.oiAdvance rid part) := by
  intro rid part _ he
  exact absurd rfl he
theorem RoundTrip.flitReceive : ∀ dev port group good, RoundTrip.Statement (.flitReceive dev port group good) := by
  intro dev port group good _ he
  exact absurd rfl he
theorem RoundTrip.laneGroupRetrain : ∀ dev port group, RoundTrip.Statement (.laneGroupRetrain dev port group) := by
  intro dev port group _ he
  exact absurd rfl he
theorem RoundTrip.portDown : ∀ dev port, RoundTrip.Statement (.portDown dev port) := by
  intro dev port _ he
  exact absurd rfl he
theorem RoundTrip.bindingRelocate : ∀ dev port group, RoundTrip.Statement (.bindingRelocate dev port group) := by
  intro dev port group _ he
  exact absurd rfl he
theorem RoundTrip.loadRequest : RoundTrip.Statement (.loadRequest) := by
  intro _ he
  exact absurd rfl he
theorem RoundTrip.loadReply : RoundTrip.Statement (.loadReply) := by
  intro _ he
  exact absurd rfl he
theorem RoundTrip.atomicRequest : RoundTrip.Statement (.atomicRequest) := by
  intro _ he
  exact absurd rfl he
theorem RoundTrip.atomicReply : RoundTrip.Statement (.atomicReply) := by
  intro _ he
  exact absurd rfl he
theorem RoundTrip.invocation : RoundTrip.Statement (.invocation) := by
  intro _ he
  exact absurd rfl he
theorem RoundTrip.storeAcknowledgement : RoundTrip.Statement (.storeAcknowledgement) := by
  intro _ he
  exact absurd rfl he
theorem RoundTrip.pooledReadRequest : RoundTrip.Statement (.pooledReadRequest) := by
  intro _ he
  exact absurd rfl he
theorem RoundTrip.pooledDataFlit : RoundTrip.Statement (.pooledDataFlit) := by
  intro _ he
  exact absurd rfl he
theorem RoundTrip.schedulerMessage : RoundTrip.Statement (.schedulerMessage) := by
  intro _ he
  exact absurd rfl he
theorem RoundTrip.hostStore : ∀ bridge fa data, RoundTrip.Statement (.hostStore bridge fa data) := by
  intro bridge fa data _ he
  exact absurd rfl he
theorem RoundTrip.hostRead : ∀ bridge fa n, RoundTrip.Statement (.hostRead bridge fa n) := by
  intro bridge fa n _ he
  exact absurd rfl he
theorem RoundTrip.hostSyncRead : ∀ bridge fa n, RoundTrip.Statement (.hostSyncRead bridge fa n) := by
  intro bridge fa n _ he
  exact absurd rfl he
theorem RoundTrip.launchInvocation : ∀ bridge page off data, RoundTrip.Statement (.launchInvocation bridge page off data) := by
  intro bridge page off data _ he
  exact absurd rfl he
theorem RoundTrip.launchEnqueue : ∀ dev, RoundTrip.Statement (.launchEnqueue dev) := by
  intro dev _ he
  exact absurd rfl he
theorem RoundTrip.schedulerRound : ∀ dev part, RoundTrip.Statement (.schedulerRound dev part) := by
  intro dev part _ he
  exact absurd rfl he
theorem RoundTrip.bidBlocking : ∀ dev part, RoundTrip.Statement (.bidBlocking dev part) := by
  intro dev part _ he
  exact absurd rfl he
theorem RoundTrip.reservation : ∀ dev part, RoundTrip.Statement (.reservation dev part) := by
  intro dev part _ he
  exact absurd rfl he
theorem RoundTrip.graphStart : ∀ rid, RoundTrip.Statement (.graphStart rid) := by
  intro rid _ he
  exact absurd rfl he
theorem RoundTrip.configAck : ∀ rid dev, RoundTrip.Statement (.configAck rid dev) := by
  intro rid dev _ he
  exact absurd rfl he
theorem RoundTrip.graphCompletion : ∀ rid, RoundTrip.Statement (.graphCompletion rid) := by
  intro rid _ he
  exact absurd rfl he
theorem RoundTrip.kill : ∀ rid, RoundTrip.Statement (.kill rid) := by
  intro rid _ he
  exact absurd rfl he
theorem RoundTrip.preemption : ∀ rid, RoundTrip.Statement (.preemption rid) := by
  intro rid _ he
  exact absurd rfl he
theorem RoundTrip.gateRequest : ∀ rid tick, RoundTrip.Statement (.gateRequest rid tick) := by
  intro rid tick _ he
  exact absurd rfl he
theorem RoundTrip.gate : ∀ rid, RoundTrip.Statement (.gate rid) := by
  intro rid _ he
  exact absurd rfl he
theorem RoundTrip.restore : ∀ rid, RoundTrip.Statement (.restore rid) := by
  intro rid _ he
  exact absurd rfl he
theorem RoundTrip.imageUpdate : RoundTrip.Statement (.imageUpdate) := by
  intro _ he
  exact absurd rfl he
theorem RoundTrip.policyRecordWrite : ∀ dev part word v tree, RoundTrip.Statement (.policyRecordWrite dev part word v tree) := by
  intro dev part word v tree _ he
  exact absurd rfl he
theorem RoundTrip.powerRecordWrite : ∀ dev part v, RoundTrip.Statement (.powerRecordWrite dev part v) := by
  intro dev part v _ he
  exact absurd rfl he
theorem RoundTrip.energyWeightWrite : ∀ dev word v, RoundTrip.Statement (.energyWeightWrite dev word v) := by
  intro dev word v _ he
  exact absurd rfl he
theorem RoundTrip.controlSpaceWrite : ∀ dev off v, RoundTrip.Statement (.controlSpaceWrite dev off v) := by
  intro dev off v _ he
  exact absurd rfl he
theorem RoundTrip.partitionChange : ∀ res owner, RoundTrip.Statement (.partitionChange res owner) := by
  intro res owner _ he
  exact absurd rfl he
theorem RoundTrip.powerInterval : ∀ dev sense, RoundTrip.Statement (.powerInterval dev sense) := by
  intro dev sense _ he
  exact absurd rfl he
theorem RoundTrip.leaseEnd : ∀ rid, RoundTrip.Statement (.leaseEnd rid) := by
  intro rid _ he
  exact absurd rfl he
theorem RoundTrip.hbmTempRead : ∀ dev stack code, RoundTrip.Statement (.hbmTempRead dev stack code) := by
  intro dev stack code _ he
  exact absurd rfl he
theorem RoundTrip.wearUpdate : ∀ dev eolh, RoundTrip.Statement (.wearUpdate dev eolh) := by
  intro dev eolh _ he
  exact absurd rfl he
theorem RoundTrip.powerFail : ∀ dev, RoundTrip.Statement (.powerFail dev) := by
  intro dev _ he
  exact absurd rfl he
theorem RoundTrip.reserveExhausted : ∀ dev, RoundTrip.Statement (.reserveExhausted dev) := by
  intro dev _ he
  exact absurd rfl he
theorem RoundTrip.supplyReturn : ∀ dev, RoundTrip.Statement (.supplyReturn dev) := by
  intro dev _ he
  exact absurd rfl he
theorem RoundTrip.powerOnReset : ∀ dev, RoundTrip.Statement (.powerOnReset dev) := by
  intro dev _ he
  exact absurd rfl he
theorem RoundTrip.coldReset : ∀ dev, RoundTrip.Statement (.coldReset dev) := by
  intro dev _ he
  exact absurd rfl he
theorem RoundTrip.warmReset : ∀ dev, RoundTrip.Statement (.warmReset dev) := by
  intro dev _ he
  exact absurd rfl he
theorem RoundTrip.tackWatchdog : ∀ dev, RoundTrip.Statement (.tackWatchdog dev) := by
  intro dev _ he
  exact absurd rfl he
theorem RoundTrip.linkTraining : ∀ dev port group partner, RoundTrip.Statement (.linkTraining dev port group partner) := by
  intro dev port group partner _ he
  exact absurd rfl he
theorem RoundTrip.attestationRequest : ∀ dev, RoundTrip.Statement (.attestationRequest dev) := by
  intro dev _ he
  exact absurd rfl he
theorem RoundTrip.staticShare : ∀ tile, RoundTrip.Statement (.staticShare tile) := by
  intro tile _ he
  exact absurd rfl he
theorem RoundTrip.accessReply : ∀ key, RoundTrip.Statement (.accessReply key) := by
  intro key _ he
  exact absurd rfl he
theorem RoundTrip.linkFailure : ∀ dev port, RoundTrip.Statement (.linkFailure dev port) := by
  intro dev port _ he
  exact absurd rfl he
theorem RoundTrip.gateRequestWithdrawal : ∀ rid, RoundTrip.Statement (.gateRequestWithdrawal rid) := by
  intro rid _ he
  exact absurd rfl he

end Sys2Proof.Laws
end

