-- ==== Sys2Proof/Certificates/Slice0/Obligations.lean ====
section
/-!
DEFINITION. The statements for the provers. Each says which rule of the manual it formalises.
-/

namespace Sys2Proof.Claims

open Sys2Proof.Machine

/-! The words that statements are made of. -/

/-- `t` is the thread that issues. -/
abbrev Issues (s : State) (t : Thread) : Prop := s.thread s.cur = some t

/-- `t` issues, and `r` is its region. -/
abbrev IssuesIn (s : State) (t : Thread) (r : Region) : Prop := s.thread s.cur = some t ∧ s.region t.rid = some r

/-- Nothing but the current thread differs: every byte of memory, every other thread and every other part of the state
is as before. -/
def OnlyIssuer (s u : State) : Prop :=
  (∀ a, u.byte a = s.byte a) ∧ (∀ k, k ≠ s.cur → u.thread k = s.thread k) ∧ { u with threads := s.threads } = s

/-- The energy counter after one charge of a class (R365, R367). -/
def charged (s : State) (t : Thread) (cls : Nat) : Dword :=
  if t.charged then t.energy
  else BitVec.ofNat 64 (min (t.energy.toNat + s.curDevice.weight cls) (2 ^ 64 - 1))

/-- The instruction answers, changes nothing but its thread, and the thread is `t1` with the word of `len` bytes at its
PC completed (R152, R196). -/
def Finishes (i : Instr) (s : State) (t1 : Thread) (len : Nat) : Prop :=
  ∃ u, exec i s = .next u ∧ OnlyIssuer s u ∧ u.thread s.cur = some (t1.complete len)

/-- `t1` is `t` with register `d` reading `v` (nothing is written to g0) and one charge of class `cls`. -/
def WritesG (s : State) (t t1 : Thread) (d : Reg) (v : Dword) (cls : Nat) : Prop :=
  (∀ r, t1.readG r = if r = d ∧ d ≠ 0 then v else t.readG r) ∧
  t1.energy = charged s t cls ∧
  { t1 with g := t.g, pending := t.pending, energy := t.energy, charged := t.charged } = t

/-- `t1` is `t` with predicate `p` reading `v` (nothing is written to p0) and one charge of class `cls`. -/
def WritesP (s : State) (t t1 : Thread) (p : BitVec 3) (v : Bool) (cls : Nat) : Prop :=
  (∀ r, t1.readP r = if r = p ∧ p ≠ 0 then v else t.readP r) ∧
  t1.energy = charged s t cls ∧
  { t1 with p := t.p, energy := t.energy, charged := t.charged } = t

/-! Results of integer instructions (R174, R175, R180, R184). -/

/-- div_i64 of R175, quotient and remainder. -/
def divSigned (a b : Dword) : Dword × Dword :=
  if b = 0 then (0xFFFFFFFFFFFFFFFF#64, a)
  else if a.toInt = -2 ^ 63 ∧ b.toInt = -1 then (a, 0)
  else (BitVec.ofInt 64 (a.toInt.tdiv b.toInt), BitVec.ofInt 64 (a.toInt - a.toInt.tdiv b.toInt * b.toInt))

/-- div_n64 of R175. -/
def divUnsigned (a b : Dword) : Dword × Dword :=
  if b = 0 then (0xFFFFFFFFFFFFFFFF#64, a) else (BitVec.ofNat 64 (a.toNat / b.toNat), BitVec.ofNat 64 (a.toNat % b.toNat))

/-- A Boolean as 1 or 0. -/
def bit (b : Bool) : Dword := if b then 1 else 0

/-- A number of bits as a register value. -/
def count (n : Nat) : Dword := BitVec.ofNat 64 n

/-- The guard, destination, result and energy class of an integer instruction under a guard, from the operands that
thread `t` holds. -/
def integerResult (t : Thread) : Instr → Option (Guard × Reg × Dword × Nat)
  | .add d a b g => some (g, d, t.readG a + t.readG b, 0)
  | .sub d a b g => some (g, d, t.readG a - t.readG b, 0)
  | .and d a b g => some (g, d, t.readG a &&& t.readG b, 0)
  | .or d a b g => some (g, d, t.readG a ||| t.readG b, 0)
  | .xor d a b g => some (g, d, t.readG a ^^^ t.readG b, 0)
  | .andn d a b g => some (g, d, t.readG a &&& ~~~t.readG b, 0)
  | .shl d a b g => some (g, d, BitVec.ofNat 64 ((t.readG a).toNat * 2 ^ ((t.readG b).toNat % 64)), 0)
  | .shr d a b g => some (g, d, BitVec.ofNat 64 ((t.readG a).toNat / 2 ^ ((t.readG b).toNat % 64)), 0)
  | .sra d a b g => some (g, d, BitVec.ofInt 64 ((t.readG a).toInt / 2 ^ ((t.readG b).toNat % 64)), 0)
  | .rol d a b g => some (g, d, (t.readG a).rotateLeft ((t.readG b).toNat % 64), 0)
  | .min d a b g => some (g, d, if (t.readG a).toInt ≤ (t.readG b).toInt then t.readG a else t.readG b, 0)
  | .max d a b g => some (g, d, if (t.readG b).toInt ≤ (t.readG a).toInt then t.readG a else t.readG b, 0)
  | .minn d a b g => some (g, d, if (t.readG a).toNat ≤ (t.readG b).toNat then t.readG a else t.readG b, 0)
  | .maxn d a b g => some (g, d, if (t.readG b).toNat ≤ (t.readG a).toNat then t.readG a else t.readG b, 0)
  | .slt d a b g => some (g, d, bit (decide ((t.readG a).toInt < (t.readG b).toInt)), 0)
  | .sltn d a b g => some (g, d, bit (decide ((t.readG a).toNat < (t.readG b).toNat)), 0)
  | .seq d a b g => some (g, d, bit (decide (t.readG a = t.readG b)), 0)
  | .clz d a g => some (g, d, count ((List.range 64).findIdx fun i => (t.readG a).getLsbD (63 - i)), 0)
  | .ctz d a g => some (g, d, count ((List.range 64).findIdx fun i => (t.readG a).getLsbD i), 0)
  | .popc d a g => some (g, d, count ((List.range 64).countP fun i => (t.readG a).getLsbD i), 0)
  | .bswap d a g => some (g, d, byteSwap (t.readG a), 0)
  | .sextI8 d a g => some (g, d, ((t.readG a).extractLsb' 0 8).signExtend 64, 0)
  | .sextI16 d a g => some (g, d, ((t.readG a).extractLsb' 0 16).signExtend 64, 0)
  | .sextI32 d a g => some (g, d, ((t.readG a).extractLsb' 0 32).signExtend 64, 0)
  | .zextN8 d a g => some (g, d, t.readG a &&& 0xFF#64, 0)
  | .zextN16 d a g => some (g, d, t.readG a &&& 0xFFFF#64, 0)
  | .zextN32 d a g => some (g, d, t.readG a &&& 0xFFFFFFFF#64, 0)
  | .mul d a b g => some (g, d, t.readG a * t.readG b, 1)
  | .mulh d a b g => some (g, d, BitVec.ofInt 64 ((t.readG a).toInt * (t.readG b).toInt / 2 ^ 64), 1)
  | .mulhn d a b g => some (g, d, BitVec.ofNat 64 ((t.readG a).toNat * (t.readG b).toNat / 2 ^ 64), 1)
  | .div d a b g => some (g, d, (divSigned (t.readG a) (t.readG b)).1, 1)
  | .divn d a b g => some (g, d, (divUnsigned (t.readG a) (t.readG b)).1, 1)
  | .rem d a b g => some (g, d, (divSigned (t.readG a) (t.readG b)).2, 1)
  | .remn d a b g => some (g, d, (divUnsigned (t.readG a) (t.readG b)).2, 1)
  | .addr2 d a b g ps z =>
    some (g, d, BitVec.ofNat 64 ((t.readG a).toNat +
      ((t.readG b).toNat / 2 ^ 32 * 2 ^ ps.toNat + (t.readG b).toNat % 2 ^ 32) * 2 ^ z.toNat), 0)
  | .sel d a b g neg pc => some (g, d, if t.readP pc ^^ decide (neg = 1) then t.readG a else t.readG b, 0)
  | _ => none

/-- The destination, result and length of an immediate form, alone or behind a LIM (R150, R151, R176 to R179). -/
def immediateResult (t : Thread) : Instr → Option (Reg × Dword × Nat)
  | .addi d a v => some (d, t.readG a + v.signExtend 64, 4)
  | .andi d a v => some (d, t.readG a &&& v.signExtend 64, 4)
  | .ori d a v => some (d, t.readG a ||| v.signExtend 64, 4)
  | .xori d a v => some (d, t.readG a ^^^ v.signExtend 64, 4)
  | .shli d a n => some (d, t.readG a <<< n.toNat, 4)
  | .shri d a n => some (d, t.readG a >>> n.toNat, 4)
  | .srai d a n => some (d, (t.readG a).sshiftRight n.toNat, 4)
  | .roli d a n => some (d, (t.readG a).rotateLeft n.toNat, 4)
  | .lui d a v => some (d, (v.signExtend 32 : Word) ++ (t.readG a).extractLsb' 0 32, 4)
  | .lea d a z off => some (d, t.readG a + off.signExtend 64 * BitVec.ofNat 64 (2 ^ z.toNat), 4)
  | .lim hi (some (.addi d a lo)) => some (d, t.readG a + (hi ++ lo : BitVec 42).signExtend 64, 8)
  | .lim hi (some (.andi d a lo)) => some (d, t.readG a &&& (hi ++ lo : BitVec 42).signExtend 64, 8)
  | .lim hi (some (.ori d a lo)) => some (d, t.readG a ||| (hi ++ lo : BitVec 42).signExtend 64, 8)
  | .lim hi (some (.xori d a lo)) => some (d, t.readG a ^^^ (hi ++ lo : BitVec 42).signExtend 64, 8)
  | .lim _ (some (.shift d a 0 n)) => some (d, t.readG a <<< n.toNat, 8)
  | .lim _ (some (.shift d a 1 n)) => some (d, t.readG a >>> n.toNat, 8)
  | .lim _ (some (.shift d a 2 n)) => some (d, (t.readG a).sshiftRight n.toNat, 8)
  | .lim _ (some (.shift d a 3 n)) => some (d, (t.readG a).rotateLeft n.toNat, 8)
  | .lim hi (some (.lui d a lo)) => some (d, ((hi ++ lo : BitVec 42).extractLsb' 0 32) ++ (t.readG a).extractLsb' 0 32, 8)
  | _ => none

/-- A comparison of R181. -/
def comparison (cc : BitVec 3) (a b : Dword) : Bool :=
  match cc with
  | 0 => decide (a = b)
  | 1 => decide (a ≠ b)
  | 2 => decide (a.toInt < b.toInt)
  | 3 => decide (b.toInt ≤ a.toInt)
  | 4 => decide (a.toNat < b.toNat)
  | 5 => decide (b.toNat ≤ a.toNat)
  | 6 => decide (a &&& b ≠ 0)
  | 7 => decide (a &&& b = 0)

/-- The condition of R181 that a condition of R182 stands for: eq, ne, lt, ltn. -/
def shortCondition (cc : BitVec 2) : BitVec 3 :=
  match cc with
  | 0 => 0
  | 1 => 1
  | 2 => 2
  | 3 => 4

/-- The guard, predicate, result and length of a comparison or predicate instruction (R181 to R183). -/
def predicateResult (t : Thread) : Instr → Option (Option Guard × BitVec 3 × Bool × Nat)
  | .cmp p a b g cc => some (some g, p, comparison cc (t.readG a) (t.readG b), 4)
  | .cmpi cc p a v => some (none, p, comparison (shortCondition cc) (t.readG a) (v.signExtend 64), 4)
  | .lim hi (some (.cmpi cc p a lo)) =>
    some (none, p, comparison (shortCondition cc) (t.readG a) ((hi ++ lo : BitVec 42).signExtend 64), 8)
  | .pand d a b g => some (some g, d, t.readP a && t.readP b, 4)
  | .por d a b g => some (some g, d, t.readP a || t.readP b, 4)
  | .pxor d a b g => some (some g, d, t.readP a ^^ t.readP b, 4)
  | .pandn d a b g => some (some g, d, t.readP a && !t.readP b, 4)
  | .porn d a b g => some (some g, d, t.readP a || !t.readP b, 4)
  | _ => none

/-- A LIM that may take effect: its immediate suits the word behind it, and no active loop body ends at it (R151). -/
def limAllowed (t : Thread) : Instr → Prop
  | .lim hi (some op) => op.limOk hi = true ∧ ∀ e ∈ t.loops, e.stop ≠ t.pc
  | .lim _ none => False
  | _ => True

/-- The guard of an instruction of format A (R149). -/
def guardOf : Instr → Option Guard
  | .add _ _ _ g | .sub _ _ _ g | .and _ _ _ g | .or _ _ _ g | .xor _ _ _ g | .andn _ _ _ g | .shl _ _ _ g
  | .shr _ _ _ g | .sra _ _ _ g | .rol _ _ _ g | .min _ _ _ g | .max _ _ _ g | .minn _ _ _ g | .maxn _ _ _ g
  | .slt _ _ _ g | .sltn _ _ _ g | .seq _ _ _ g | .clz _ _ g | .ctz _ _ g | .popc _ _ g | .bswap _ _ g
  | .sextI8 _ _ g | .sextI16 _ _ g | .sextI32 _ _ g | .zextN8 _ _ g | .zextN16 _ _ g | .zextN32 _ _ g | .mul _ _ _ g
  | .mulh _ _ _ g | .mulhn _ _ _ g | .div _ _ _ g | .divn _ _ _ g | .rem _ _ _ g | .remn _ _ _ g
  | .addr2 _ _ _ g _ _ | .cmp _ _ _ g _ | .pand _ _ _ g | .por _ _ _ g | .pxor _ _ _ g | .pandn _ _ _ g
  | .porn _ _ _ g | .sel _ _ _ g _ _ | .fadd _ _ _ g _ | .fsub _ _ _ g _ | .fmul _ _ _ g _ | .fdiv _ _ _ g _
  | .fsqrt _ _ g _ | .fmin _ _ _ g | .fmax _ _ _ g | .fma _ _ _ g _ | .fcvtfI64 _ _ g _ | .fcvtfN64 _ _ g _
  | .fcvtiI64 _ _ g _ | .fcvtiN64 _ _ g _ | .fcmp _ _ _ g _ | .jr _ g | .jalr _ _ g | .ret g | .tjoin _ _ _ g
  | .twait _ g | .waitany _ _ g | .waitall _ _ g | .ffr _ _ g | .ffrClr _ _ g => some g
  | _ => none

end Sys2Proof.Claims

open Sys2Proof Sys2Proof.Machine Sys2Proof.Claims

/-! Encoding. -/

/-- R146, R148, R151 and the encodings of the instruction chapters: every well-formed instruction that has words
decodes from them as itself, with every field at every value. ERET's three forms share one word, which decodes as the
form that TACT resolves at issue (R198, R314). -/
def Obligations.DecodeInvertsEncode : Prop :=
  ∀ i : Instr, i.wf = true → encode i ≠ [] → decode (encode i) = some (Laws.unresolved i)

/-- R148: a word of the decoder's domain is the word of the instruction that it gives, so no bit of it goes unread: what
decodes at the head of a list of words encodes back to the words taken there. -/
def Obligations.DecodedWordIsEncoded : Prop :=
  ∀ (ws : List Word) (i : Instr), decode ws = some i → encode i <+: ws ∧ i.wf = true

/-- R148: a guard 0b000 with its negation in any A-format major, a predicate 0b000 with its negation in br, call and sel, and
a word of a major that no table entry assigns, decode to nothing. A turn laid down by the agents' schedule: an event of the table happens, or fabric time passes. R148, R348: a
word that decodes to nothing ends the graph with the illegal-instruction cause; no instruction runs.
Readings and choices of the model that this rests on: log entry 2. -/
def Obligations.ReservedWordsAndScheduledTurns : Prop :=
  ((∀ (w : Word) (r : List Word), (w.major = 1 ∨ w.major = 9 ∨ w.major = 10 ∨ w.major = 12 ∨ w.major = 13 ∨ w.major = 15 ∨
       w.major = 0x12 ∨ w.major = 0x26 ∨ w.major = 0x28) → w.guard = ⟨0, 1⟩ → decode (w :: r) = none) ∧
   (∀ (w : Word) (r : List Word), (w.major = 0x10 ∨ w.major = 0x11) → w.extractLsb' 23 3 = 0 → w.extractLsb' 22 1 = 1 →
     decode (w :: r) = none) ∧
   (∀ (w : Word) (r : List Word), w.major = 0x0D → w.extractLsb' 0 3 = 0 → w.extractLsb' 3 1 = 1 →
     decode (w :: r) = none) ∧
   (∀ (w : Word) (r : List Word), (w.major = 0 ∨ w.major = 20 ∨ w.major = 21 ∨ w.major = 22 ∨ w.major = 23 ∨ w.major = 37 ∨
       (42 ≤ w.major.toNat ∧ w.major.toNat ≤ 47) ∨ w.major = 55 ∨ w.major = 59 ∨ w.major = 61 ∨ w.major = 62) →
     decode (w :: r) = none)) ∧
  (((∀ (s : State) (i : Instr) (r : List Turn), s.agenda = .event i :: r → step s = exec i { s with agenda := r }) ∧
    (∀ (s : State) (n : Nat) (r : List Turn), s.agenda = .tick n :: r →
      step s = .next ({ s with agenda := r }.passTime n))) ∧
   (∀ (s s1 : State) (t t1 : Thread) (r : Region) (ws : List Word),
      s.agenda = [] → s.idle = false → IssuesIn s t r → s.canIssue t r = true → t.inStream t.pc = true →
      fetchWords s r t = .words ws s1 → decode ws = none → s1.thread s1.cur = some t1 →
      step s = .next (s1.endGraph t1.rid 4 0x01)))

/-- Sanity: words written out from the encodings decode to the instructions they stand for, among them the four words
of the example of R178. -/
def Obligations.ExampleWordsDecode : Prop :=
  decode [0xFFFF89AB#32, 0x08C0CDEF#32] = some (.lim 0x3FF89AB (some (.addi 6 0 0xCDEF))) ∧
  decode [0xFC000123#32, 0x1CA64567#32] = some (.lim 0x123 (some (.lui 5 6 0x4567))) ∧
  decode [0x04A63800#32] = some (.add 5 6 7 ⟨0, 0⟩) ∧
  decode [0x0000000#32] = none

/-! A step. -/

/-- R41, R145, R161: with no turn laid down, a running thread of a resident region fetches the words at its PC, and the
step is exec of the instruction they decode to (ERET as TACT resolves it) on the state after the fetch; the turn to issue
then passes to the next thread, behind one turn of the agents (R55).
Readings and choices of the model that this rests on: log entry 2. -/
def Obligations.StepRunsDecodedInstruction : Prop :=
  ∀ (s s1 : State) (t : Thread) (r : Region) (ws : List Word) (i : Instr),
    s.agenda = [] → s.idle = false → IssuesIn s t r → s.canIssue t r = true → t.inStream t.pc = true →
    fetchWords s r t = .words ws s1 → decode ws = some i → t.awaits (instrSources i) = false →
    step s = match exec (t.resolve i) s1 with
      | .next u => .next { u with cur := u.nextKey, idle := true }
      | .fault f => .fault f
      | .refused x => .refused x

/-! Integer, comparison and predicate instructions. -/

/-- R174, R175, R180, R184: each integer instruction whose guard holds completes with its result in g[d], with every
other register, every predicate, flag and CSR of its thread unchanged, and no byte of memory changed. Writing g0 writes
nothing. -/
def Obligations.IntegerInstructionsCompute : Prop :=
  ∀ (i : Instr) (s : State) (t : Thread) (g : Guard) (d : Reg) (v : Dword) (cls : Nat),
    Issues s t → integerResult t i = some (g, d, v, cls) → t.guardOn g = true →
    ∃ t1, Finishes i s t1 4 ∧ WritesG s t t1 d v cls

/-- R150, R151, R176 to R179: the immediate forms, alone with the 16-bit immediate and behind a LIM with the 42-bit one. -/
def Obligations.ImmediateInstructionsCompute : Prop :=
  ∀ (i : Instr) (s : State) (t : Thread) (d : Reg) (v : Dword) (len : Nat),
    Issues s t → limAllowed t i → immediateResult t i = some (d, v, len) →
    ∃ t1, Finishes i s t1 len ∧ WritesG s t t1 d v 0

/-- R181 to R183: comparisons and predicate instructions write their predicate and nothing else; a write to p0 is
discarded. -/
def Obligations.PredicateInstructionsCompute : Prop :=
  ∀ (i : Instr) (s : State) (t : Thread) (g : Option Guard) (p : BitVec 3) (v : Bool) (len : Nat),
    Issues s t → limAllowed t i → predicateResult t i = some (g, p, v, len) → (∀ x, g = some x → t.guardOn x = true) →
    ∃ t1, Finishes i s t1 len ∧ WritesP s t t1 p v 0

/-- R149: an instruction of format A whose guard is false changes nothing but its thread's PC (and the loop step at its
word), charges nothing and raises nothing. -/
def Obligations.FalseGuardSkipsInstruction : Prop :=
  ∀ (i : Instr) (s : State) (t : Thread) (g : Guard),
    Issues s t → guardOf i = some g → t.guardOn g = false → Finishes i s t 4

/-! FP32 instructions, transfers, loops, traps and user CSRs: the words of the statements. -/

namespace Sys2Proof.Claims

open Sys2Proof.Machine

/-- No byte of memory and no sector's state differs. -/
def SameMemory (s u : State) : Prop := (∀ a, u.byte a = s.byte a) ∧ ∀ k, u.sector k = s.sector k

/-- As WritesG, with flag bits `fl` raised in FLAGS. -/
def WritesGFlags (s : State) (t t1 : Thread) (d : Reg) (v fl : Dword) (cls : Nat) : Prop :=
  (∀ r, t1.readG r = if r = d ∧ d ≠ 0 then v else t.readG r) ∧ t1.energy = charged s t cls ∧
  t1.flags = t.flags ||| (fl &&& 0x7F#64) ∧
  { t1 with g := t.g, pending := t.pending, energy := t.energy, charged := t.charged, flags := t.flags } = t

/-- The FP32 value of a register: its low 32 bits (R189). -/
def fpValue (t : Thread) (r : Reg) : XR := fp32.value ((t.readG r).toNat % 2 ^ 32)

/-- The rounding mode of a code (R74). -/
def roundingMode (rm : BitVec 3) : Rmode :=
  match rm with
  | 0 => .rne
  | 1 => .rtz
  | 2 => .rup
  | 3 => .rdn
  | _ => .raz

/-- The floating-point formats of R58. -/
def floatFormats : List Fmt := [fp32, bf16, fp16, e4m3, e5m2, e3m2, e2m3, e2m1]

/-- An integer result under R78 as a register value. -/
def intResult (x : Int × Dword) : Dword × Dword := (BitVec.ofInt 64 x.1, x.2)

/-- An FP32 result in the low half of a register, with the flags that it raises. -/
def fpPair (x : Nat × Dword) : Dword × Dword := (BitVec.ofNat 64 x.1, x.2)

/-- Guard, destination, and result with flags of an FP32 instruction (R190). -/
def fpResult (t : Thread) : Instr → Option (Guard × Reg × Dword × Dword)
  | .fadd d a b g rm => some (g, d, fpPair (addX (fpValue t a) (fpValue t b) (roundingMode rm)))
  | .fsub d a b g rm =>
    some (g, d, fpPair (addX (fpValue t a) (if (fpValue t b).isNan then fpValue t b else (fpValue t b).neg)
      (roundingMode rm)))
  | .fmul d a b g rm => some (g, d, fpPair (mulX (fpValue t a) (fpValue t b) (roundingMode rm)))
  | .fdiv d a b g rm => some (g, d, fpPair (divX (fpValue t a) (fpValue t b) (roundingMode rm)))
  | .fsqrt d a g rm => some (g, d, fpPair (sqrtX (fpValue t a) (roundingMode rm)))
  | .fmin d a b g => some (g, d, fpPair (minmaxX false ((t.readG a).toNat % 2 ^ 32) ((t.readG b).toNat % 2 ^ 32)))
  | .fmax d a b g => some (g, d, fpPair (minmaxX true ((t.readG a).toNat % 2 ^ 32) ((t.readG b).toNat % 2 ^ 32)))
  | .fma d a b g rm => some (g, d, fpPair (fmaX (fpValue t a) (fpValue t b) (fpValue t d) (roundingMode rm)))
  | .fcvtfI64 d a g rm =>
    some (g, d, fpPair (roundFmt (.fin (decide ((t.readG a).toInt < 0)) (t.readG a).toInt.natAbs 1) fp32
      (roundingMode rm) false))
  | .fcvtfN64 d a g rm => some (g, d, fpPair (roundFmt (.fin false (t.readG a).toNat 1) fp32 (roundingMode rm) false))
  | .fcvtiI64 d a g rm => some (g, d, intResult (roundInt (fpValue t a) (-2 ^ 63) (2 ^ 63 - 1) (roundingMode rm)))
  | .fcvtiN64 d a g rm => some (g, d, intResult (roundInt (fpValue t a) 0 (2 ^ 64 - 1) (roundingMode rm)))
  | _ => none

/-- A transfer target inside the thread's stream (R145). -/
def InStream (t : Thread) (target : Dword) : Prop := target.toNat % 4 = 0 ∧ target.toNat < 4 * t.words

/-- The instruction answers with a taken transfer of the thread `t1` to `target`, one charge of class 0, and nothing else
changed (R196). -/
def Transfers (i : Instr) (s : State) (t t1 : Thread) (target : Dword) : Prop :=
  ∃ u, exec i s = .next u ∧ OnlyIssuer s u ∧
    u.thread s.cur = some { t1 with pc := target, wait := .none, charged := false, energy := charged s t 0 }

/-- Loop entries left when a br or jr is taken: those above the first whose range holds the target pop (R197). -/
def loopsKept (target : Dword) (l : List LoopEntry) : List LoopEntry :=
  l.dropWhile fun e => !(decide (e.start.toNat ≤ target.toNat) && decide (target.toNat ≤ e.stop.toNat))

/-- The target of a B-format word (R150). -/
def branchTarget (t : Thread) (off : BitVec 22) : Dword := t.pc + off.signExtend 64 * 4

/-- The graph of the current thread ends with STATUS 4 and DETAIL `cause` (R44, R348). -/
def EndsGraph (i : Instr) (s : State) (t : Thread) (cause : Nat) : Prop := exec i s = .next (s.endGraph t.rid 4 cause)

/-- The two forms of LOOP, alone or behind a LIM, with the length of the form (R195, R151). -/
def LoopForm (t : Thread) (i : Instr) (d a : Reg) (imm : BitVec 16) (len : Nat) : Prop :=
  (i = .loop d a imm ∧ len = 4 ∧ imm ≠ 0) ∨
  (i = .lim 0 (some (.loop d a imm)) ∧ len = 8 ∧ imm ≠ 0 ∧ ∀ e ∈ t.loops, e.stop ≠ t.pc)

/-- The value of a user CSR of thread `t` in region `r` (R186, R187). -/
def csrValue (t : Thread) (r : Region) (n : Nat) : Option Dword :=
  match n with
  | 0 => some t.tags
  | 1 => some t.flags
  | 2 => some t.ctxId
  | 3 => some t.domMemb
  | 4 => some t.srSeed
  | 5 => some (BitVec.ofNat 64 (t.energy.toNat / 2 ^ 16))
  | 6 => some (BitVec.ofNat 64 (t.energy.toNat % 2 ^ 16))
  | 7 => some (BitVec.ofNat 64 (r.lease.state.toNat + r.lease.step.toNat * 2 ^ 8 + r.lease.remain.toNat * 2 ^ 16 +
      if r.lease.clipped then 2 ^ 30 else 0))
  | 8 => some r.savesetBase
  | 9 => some (BitVec.ofNat 64 (r.saveset.length + (r.saveset.map Piece.len).sum * 2 ^ 16))
  | 10 => some t.latMode
  | _ => none

/-- The thread after a write of `v` to user CSR n (R186): TAGS and FLAGS[6:0] clear where 1 is written, BADSPARSE and
SR_SEED are replaced; every other CSR refuses. -/
def csrWritten (t : Thread) (n : Nat) (v : Dword) : Option Thread :=
  match n with
  | 0 => some { t with tags := t.tags &&& ~~~v }
  | 1 => some { t with flags := (t.flags &&& ~~~v &&& 0x7F#64) ||| (v &&& 0xFFFF0000#64) }
  | 4 => some { t with srSeed := v }
  | _ => none

/-- A form of csrr, csrw or csrrw: alone, or behind a LIM with high bits zero. -/
def CsrForm (t : Thread) (i alone : Instr) (op : IOp) (len : Nat) : Prop :=
  (i = alone ∧ len = 4) ∨ (i = .lim 0 (some op) ∧ len = 8 ∧ ∀ e ∈ t.loops, e.stop ≠ t.pc)

/-- The current thread keeps everything but a register result, its PC and its energy; the rest of the machine but
region `t.rid` keeps everything. -/
def OnlyIssuerAndRegion (s u : State) (rid : Nat) : Prop :=
  SameMemory s u ∧ (∀ k, k ≠ s.cur → u.thread k = s.thread k) ∧ (∀ k, k ≠ rid → u.region k = s.region k) ∧
  { u with threads := s.threads, regions := s.regions } = s

end Sys2Proof.Claims

/-- R189, R190: each FP32 instruction whose guard holds completes with its once-rounded result in the low half of g[d],
zero in the high half (a 64-bit integer for fcvti), and its flags raised in FLAGS; nothing else of the machine changes. -/
def Obligations.Fp32InstructionsCompute : Prop :=
  (∀ (i : Instr) (s : State) (t : Thread) (g : Guard) (d : Reg) (v fl : Dword),
    Issues s t → i.wf = true → fpResult t i = some (g, d, v, fl) → t.guardOn g = true →
    ∃ t1, Finishes i s t1 4 ∧ WritesGFlags s t t1 d v fl 2) ∧
  (∀ (s : State) (t : Thread) (p : BitVec 3) (a b : Reg) (g : Guard) (cc : BitVec 3),
    Issues s t → cc.toNat ≤ 4 → t.guardOn g = true →
    ∃ t1, Finishes (.fcmp p a b g cc) s t1 4 ∧
      (∀ q, t1.readP q = if q = p ∧ p ≠ 0 then (fcmpX cc.toNat (fpValue t a) (fpValue t b)).1 else t.readP q) ∧
      t1.flags = t.flags ||| ((fcmpX cc.toNat (fpValue t a) (fpValue t b)).2 &&& 0x7F#64) ∧
      t1.energy = charged s t 2 ∧
      { t1 with p := t.p, flags := t.flags, energy := t.energy, charged := t.charged } = t)

/-- R190, R191: operands that are not finite. fma of a zero and an infinity is invalid even with a NaN addend; a NaN
operand otherwise gives the canonical NaN without a flag, with the first NaN's sign; the four invalid cases give
0x7FC0_0000 and raise invalid; a finite non-zero value over zero is an infinity without a flag. R78: rounding a finite
value toward zero to an integer gives its truncation, clamped to the range; inexact says whether anything was dropped,
saturated whether it was clamped. A NaN gives 0, an infinity its bound, with invalid. R75, R76: in every floating-point format
an encodable value rounds to itself and raises nothing; RTZ gives the last code not above the magnitude, RAZ the first not
below it, RUP and RDN are RTZ or RAZ by the sign, and RNE is the nearer of the two neighbours, the one with an even code in the
middle; inexact says that the result is another value, underflow that an inexact magnitude lies below 2^emin. A magnitude of
2^128 and more overflows FP32, with the result that the mode and the saturation bit give. -/
def Obligations.Fp32SpecialOperandsAndRounding : Prop :=
  ((∀ (x y z : XR) (m : Rmode), (x.isZero = true ∧ y.isInf = true) ∨ (x.isInf = true ∧ y.isZero = true) →
     fmaX x y z m = (0x7FC00000, flInvalid) ∧ mulX x y m = (0x7FC00000, flInvalid)) ∧
   (∀ (n : Bool) (y : XR) (m : Rmode), addX (.nan n) y m = ((if n then 0x80000000 else 0) + 0x7FC00000, 0) ∧
     mulX (.nan n) y m = ((if n then 0x80000000 else 0) + 0x7FC00000, 0) ∧
     divX (.nan n) y m = ((if n then 0x80000000 else 0) + 0x7FC00000, 0) ∧
     sqrtX (.nan n) m = ((if n then 0x80000000 else 0) + 0x7FC00000, 0)) ∧
   (∀ (n : Bool) (m : Rmode), addX (.inf n) (.inf (!n)) m = (0x7FC00000, flInvalid) ∧
     addX (.inf n) (.inf n) m = ((if n then 0x80000000 else 0) + 0x7F800000, 0)) ∧
   (∀ (a b : Bool) (m : Rmode), divX (.fin a 0 1) (.fin b 0 1) m = (0x7FC00000, flInvalid) ∧
     divX (.inf a) (.inf b) m = (0x7FC00000, flInvalid)) ∧
   (∀ (a b : Bool) (n d : Nat) (m : Rmode), n ≠ 0 → d ≠ 0 →
     divX (.fin a n d) (.fin b 0 1) m = ((if a ^^ b then 0x80000000 else 0) + 0x7F800000, 0) ∧
     sqrtX (.fin true n d) m = (0x7FC00000, flInvalid)) ∧
   (∀ (cc : Nat) (n : Bool) (y : XR), cc ≤ 4 →
     (fcmpX cc (.nan n) y).1 = decide (cc = 3 ∨ cc = 4) ∧ (fcmpX cc y (.nan n)).1 = decide (cc = 3 ∨ cc = 4))) ∧
  ((∀ (neg : Bool) (num den : Nat) (lo hi : Int), 0 < den → lo ≤ 0 → 0 ≤ hi →
     let v : Int := if neg then -((num / den : Nat) : Int) else ((num / den : Nat) : Int)
     (roundInt (.fin neg num den) lo hi .rtz).1 = max lo (min hi v) ∧
     ((roundInt (.fin neg num den) lo hi .rtz).2 &&& flInexact ≠ 0 ↔ num % den ≠ 0) ∧
     ((roundInt (.fin neg num den) lo hi .rtz).2 &&& flSaturated ≠ 0 ↔ v < lo ∨ hi < v)) ∧
   (∀ (n : Bool) (lo hi : Int) (m : Rmode), roundInt (.nan n) lo hi m = (0, flInvalid) ∧
     roundInt (.inf n) lo hi m = (if n then lo else hi, flInvalid))) ∧
  ((∀ (f : Fmt) (neg sat : Bool) (m : Rmode) (c : Nat), f ∈ floatFormats → c ≤ f.maxCode →
     roundFmt (f.value (f.signed neg c)) f m sat = (f.signed neg c, 0)) ∧
   (∀ (f : Fmt) (num den : Nat), f ∈ floatFormats → 0 < num → 0 < den →
     let x : XR := .fin false num den
     let down := roundFmt x f .rtz false
     let up := roundFmt x f .raz false
     let near := roundFmt x f .rne false
     let middle := XR.add false (f.value down.1) (f.value (down.1 + 1))
     down.1 ≤ f.maxCode ∧ XR.lt x (f.value down.1) = false ∧
     (down.1 < f.maxCode → XR.lt x (f.value (down.1 + 1)) = true) ∧
     (up.2 &&& flOverflow = 0 → XR.lt (f.value up.1) x = false ∧ (0 < up.1 → XR.lt (f.value (up.1 - 1)) x = true)) ∧
     (down.1 < f.maxCode →
       (XR.lt (x.scale 1) middle = true → near.1 = down.1) ∧ (XR.lt middle (x.scale 1) = true → near.1 = down.1 + 1) ∧
       (XR.eqv (x.scale 1) middle = true → near.1 = down.1 + down.1 % 2)) ∧
     (up.2 &&& flOverflow = 0 → ∀ neg : Bool,
       roundFmt (.fin neg num den) f .rup false = roundFmt (.fin neg num den) f (if neg then .rtz else .raz) false ∧
       roundFmt (.fin neg num den) f .rdn false = roundFmt (.fin neg num den) f (if neg then .raz else .rtz) false ∧
       ∀ m : Rmode, let r := roundFmt (.fin neg num den) f m false
         (r.2 &&& flInexact = 0 ↔ XR.eqv (.fin neg num den) (f.value r.1) = true) ∧
         (r.2 &&& flUnderflow ≠ 0 ↔ r.2 &&& flInexact ≠ 0 ∧ XR.lt x (.dyadic false 1 f.emin) = true))) ∧
   (∀ (neg sat : Bool) (num den : Nat) (m : Rmode), 0 < den → 2 ^ 128 * den ≤ num →
     let r := roundFmt (.fin neg num den) fp32 m sat
     r.2 &&& flOverflow ≠ 0 ∧ (r.2 &&& flSaturated ≠ 0 ↔ sat = true) ∧
     r.1 = fp32.signed neg (if sat = true ∨ m = .rtz ∨ (m = .rup ∧ neg = true) ∨ (m = .rdn ∧ neg = false) then 0x7F7FFFFF
       else 0x7F800000)))

/-! Transfers and loops. -/

/-- R192 to R194, R197: taken branches, calls and returns go to their targets; br and jr pop the loops whose range
does not hold the target, call, jalr and ret pop none; call writes PC + 4 to g31, jalr to g[d] after reading its
target. A br or call that is not taken completes. R145, R192 to R194: a taken transfer to a target outside the stream
ends the graph with the instruction-fetch cause, and no register is written. -/
def Obligations.TransfersReachTargets : Prop :=
  ((∀ (s : State) (t : Thread) (p : BitVec 3) (neg : BitVec 1) (off : BitVec 22), Issues s t →
     ((t.readP p ^^ decide (neg = 1)) = false → Finishes (.br p neg off) s (t.chargeIssue s.curDevice 0) 4 ∧
       Finishes (.call p neg off) s (t.chargeIssue s.curDevice 0) 4) ∧
     ((t.readP p ^^ decide (neg = 1)) = true → InStream t (branchTarget t off) →
       Transfers (.br p neg off) s t { t with loops := loopsKept (branchTarget t off) t.loops } (branchTarget t off) ∧
       Transfers (.call p neg off) s t (t.writeG 31 (t.pc + 4)) (branchTarget t off))) ∧
   (∀ (s : State) (t : Thread) (d a : Reg) (g : Guard), Issues s t → t.guardOn g = true →
     (InStream t (t.readG a) →
       Transfers (.jr a g) s t { t with loops := loopsKept (t.readG a) t.loops } (t.readG a) ∧
       Transfers (.jalr d a g) s t (t.writeG d (t.pc + 4)) (t.readG a)) ∧
     (InStream t (t.readG 31) → Transfers (.ret g) s t t (t.readG 31)))) ∧
  ((∀ (s : State) (t : Thread) (p : BitVec 3) (neg : BitVec 1) (off : BitVec 22), Issues s t →
     (t.readP p ^^ decide (neg = 1)) = true → ¬ InStream t (branchTarget t off) →
     EndsGraph (.br p neg off) s t 0x02 ∧ EndsGraph (.call p neg off) s t 0x02) ∧
   (∀ (s : State) (t : Thread) (d a : Reg) (g : Guard), Issues s t → t.guardOn g = true →
     (¬ InStream t (t.readG a) → EndsGraph (.jr a g) s t 0x02 ∧ EndsGraph (.jalr d a g) s t 0x02) ∧
     (¬ InStream t (t.readG 31) → EndsGraph (.ret g) s t 0x02)))

/-- R195: a loop whose body's last word is in the stream pushes its entry, writes 0 to its register and goes on at the
body; a trip count of 0 goes to the word after the body, with the enclosing loops stepped at the skipped end word; at
depth four it is an illegal instruction; a body that leaves the stream is a fetch trap. R152, R196: completing a word
of `len` bytes moves the PC past it; where the top loop's body ends at the word's last four bytes, an iteration left
takes the thread back to the loop's start with the next index in the loop's register, and
the last iteration pops the loop, after which the loop below it steps at the same word. -/
def Obligations.LoopsEnterAndStep : Prop :=
  (∀ (s : State) (t : Thread) (i : Instr) (d a : Reg) (imm : BitVec 16) (len : Nat), Issues s t → LoopForm t i d a imm len →
     let here := t.pc + BitVec.ofNat 64 (len - 4)
     let last := here + BitVec.ofNat 64 (4 * imm.toNat)
     let after := { t with pc := last + 4 }.loopStep last t.loops
     (¬ InStream t last → EndsGraph i s t 0x02) ∧
     (InStream t last → t.readG a ≠ 0 → t.loops.length < 4 →
       Transfers i s t ({ t with loops := ⟨here + 4, last, t.readG a, 0, d⟩ :: t.loops }.writeG d 0) (here + 4)) ∧
     (InStream t last → t.readG a ≠ 0 → t.loops.length = 4 → EndsGraph i s t 0x01) ∧
     (InStream t last → t.readG a = 0 → InStream after after.pc → Transfers i s t after after.pc)) ∧
  ((∀ (t : Thread) (len : Nat), (∀ e l, t.loops = e :: l → t.pc + BitVec.ofNat 64 (len - 4) ≠ e.stop) →
     t.complete len = { t with pc := t.pc + BitVec.ofNat 64 len, wait := .none, charged := false }) ∧
   (∀ (t : Thread) (len : Nat) (e : LoopEntry) (l : List LoopEntry), t.loops = e :: l →
     e.stop = t.pc + BitVec.ofNat 64 (len - 4) → 1 < e.left.toNat →
     (t.complete len).pc = e.start ∧ (t.complete len).loops = { e with left := e.left - 1, idx := e.idx + 1 } :: l ∧
     (∀ r, (t.complete len).readG r = if r = e.reg ∧ e.reg ≠ 0 then e.idx + 1 else t.readG r)) ∧
   (∀ (t : Thread) (len : Nat) (e : LoopEntry) (l : List LoopEntry), t.loops = e :: l →
     e.stop = t.pc + BitVec.ofNat 64 (len - 4) → e.left.toNat = 1 →
     t.complete len = ({ t with loops := l } : Thread).complete len))

/-- R199, R349, R350: TRAP completes and then stops its thread with a program item, BRK stops it at its own address
with a breakpoint item; the item joins the thread's items, and memory and every register are unchanged. R349: the
first item of a thread puts it at the end of its partition's TNEXT list, not yet selected. R200, R201: HALT stops a
thread with no access outstanding at the word after it; WFI completes when every tag's count is zero, and otherwise
leaves its thread in WFI past it.
Readings and choices of the model that this rests on: log entries 15, 16 and 17. -/
def Obligations.TrapBrkHaltAndWfiStopTheThread : Prop :=
  ((∀ (s : State) (t : Thread) (code : BitVec 16), Issues s t → t.held = .none →
      (∃ u t1 it, exec (.trap code) s = .next u ∧ SameMemory s u ∧ u.thread s.cur = some t1 ∧
        t1 = { t.complete 4 with status := .stopped, wait := .none, items := t.items ++ [it] } ∧
        it.src = .core ∧ it.tcause = code ++ 0x0008#16) ∧
      (∃ u t1 it, exec (.brk code) s = .next u ∧ SameMemory s u ∧ u.thread s.cur = some t1 ∧
        t1 = { t with status := .stopped, wait := .none, items := t.items ++ [it] } ∧
        it.src = .core ∧ it.tcause = code ++ 0x0009#16)) ∧
   (∀ (s : State) (t : Thread) (r : Region) (code : BitVec 16), IssuesIn s t r → t.held = .none → t.items = [] →
      ∃ u, exec (.brk code) s = .next u ∧
        SMap.get [] u.tnext r.launch.part = SMap.get [] s.tnext r.launch.part ++ [(t.name, false)] ∧
        (∀ p, p ≠ r.launch.part → SMap.get [] u.tnext p = SMap.get [] s.tnext p))) ∧
  (∀ (s : State) (t : Thread), Issues s t →
     (t.outstanding = [] → t.cb = [] → t.held = .none →
       ∃ u t1, exec .halt s = .next u ∧ OnlyIssuer s u ∧ u.thread s.cur = some t1 ∧
         t1 = { t with pc := t.pc + 4, wait := .none, charged := false, energy := charged s t 11, status := .halted }) ∧
     (t.tagCount = [] → Finishes .wfi s (t.chargeIssue s.curDevice 11) 4) ∧
     (t.tagCount ≠ [] → ∃ u t1, exec .wfi s = .next u ∧ OnlyIssuer s u ∧ u.thread s.cur = some t1 ∧
       t1 = { (t.chargeIssue s.curDevice 11).complete 4 with status := .wfi }))

/-- R185 to R188: csrr reads every user CSR, csrw writes the three that take writes, csrrw reads the old value and
writes the new one as one action; a CSR that refuses the write, or no CSR, is an illegal instruction. R186: the
effects of a write to TAGS, FLAGS and SR_SEED as events of their own: only that CSR of the current thread changes. -/
def Obligations.UserCsrsReadAndWrite : Prop :=
  (∀ (s : State) (t : Thread) (r : Region) (i : Instr) (d a : Reg) (n : BitVec 12) (len : Nat), IssuesIn s t r →
     (CsrForm t i (.csrr d n) (.csrr d n) len →
       (∀ v, csrValue t r n.toNat = some v → ∃ t1, Finishes i s t1 len ∧ WritesG s t t1 d v 0) ∧
       (csrValue t r n.toNat = none → EndsGraph i s t 0x01)) ∧
     (CsrForm t i (.csrw a n) (.csrw a n) len →
       (∀ w, csrWritten t n.toNat (t.readG a) = some w → Finishes i s (w.chargeIssue s.curDevice 0) len) ∧
       (csrWritten t n.toNat (t.readG a) = none → EndsGraph i s t 0x01)) ∧
     (CsrForm t i (.csrrw d a n) (.csrrw d a n) len →
       (∀ v w, csrValue t r n.toNat = some v → csrWritten t n.toNat (t.readG a) = some w →
         ∃ t1, Finishes i s t1 len ∧ WritesG s w t1 d v 0) ∧
       (csrWritten t n.toNat (t.readG a) = none → EndsGraph i s t 0x01))) ∧
  (∀ (s : State) (t : Thread) (v : Dword), Issues s t →
     exec (.tagsWrite v) s = .next (s.setThread s.cur { t with tags := t.tags &&& ~~~v }) ∧
     exec (.flagsWrite v) s =
       .next (s.setThread s.cur { t with flags := (t.flags &&& ~~~v &&& 0x7F#64) ||| (v &&& 0xFFFF0000#64) }) ∧
     exec (.userCsrWrite 4 v) s = .next (s.setThread s.cur { t with srSeed := v }) ∧
     (∀ n, n ≠ 4 → exec (.userCsrWrite n v) s = .next (s.setThread s.cur t)))

/-- R202, R204: BOOST writes the first status that applies in the order 3, 1, 2, 0, and the lease changes as the
status says; ENERGY reads the counter as it stood before its own charge. R203: SAVESET with no piece clears the
declaration; a table of well-formed, disjoint pieces within
MS_MAX replaces the declaration and gets status 0; one that is not aligned to 64 bytes or runs past the translated space
gets status 2. The thread has no access outstanding.
Readings and choices of the model that this rests on: log entries 23 and 99. -/
def Obligations.BoostEnergyAndSavesetAnswer : Prop :=
  (∀ (s : State) (t : Thread) (r : Region) (d : Reg), IssuesIn s t r →
     let v := (t.readG d).toNat
     let good := v % 2 ^ 6 ≤ 56 ∧ v / 2 ^ 6 % 2 ^ 10 = 0 ∧ v / 2 ^ 16 % 2 ^ 14 ≤ 10000 ∧ v / 2 ^ 30 = 0
     let dur := v / 2 ^ 16 % 2 ^ 14
     let busy := r.lease.state = 1 ∨ r.lease.state = 2 ∨ ∃ k ∈ r.lease.askersAt s.now, k ≠ t.name
     let status : Dword := if ¬ good then 3 else if dur = 0 then 1 else if busy then 2 else 0
     (∃ u t1 l, exec (.boost d) s = .next u ∧ OnlyIssuerAndRegion s u t.rid ∧
       u.thread s.cur = some (t1.complete 4) ∧ WritesG s t t1 d status 11 ∧
       u.region t.rid = some { r with lease := l } ∧
       (¬ good → l = r.lease) ∧
       (good → dur = 0 → l.state = 0) ∧
       (good → dur ≠ 0 → busy → { l with askers := r.lease.askers, asked := r.lease.asked } = r.lease) ∧
       (good → dur ≠ 0 → ¬ busy → l.state = 1 ∧ l.step = BitVec.ofNat 6 v ∧ l.dur = BitVec.ofNat 14 dur)) ∧
     (∃ t1, Finishes (.energy d) s t1 4 ∧ WritesG s t t1 d t.energy 11)) ∧
  (∀ (s : State) (t : Thread) (r : Region) (d : Reg), IssuesIn s t r → t.held = .none → t.outstanding = [] → t.cb = [] →
     (∃ u t1, exec (.saveset d 0) s = .next u ∧ OnlyIssuerAndRegion s u t.rid ∧
       u.region t.rid = some { r with savesetBase := 0, saveset := [] } ∧
       u.thread s.cur = some (t1.complete 4) ∧ WritesG s t t1 d 0 11) ∧
     (∀ n : BitVec 7, n ≠ 0 → ((t.readG d).toNat % 64 ≠ 0 ∨ 2 ^ 56 < (t.readG d).toNat + 16 * n.toNat) → ∃ t1, Finishes (.saveset d n) s t1 4 ∧ WritesG s t t1 d 2 11) ∧
     (∀ (n : BitVec 7) (bs : List Byte) (fl : Dword) (s1 : State) (ps : List Piece), n ≠ 0 →
       (t.readG d).toNat % 64 = 0 → (t.readG d).toNat + 16 * n.toNat ≤ 2 ^ 56 →
       readBlock s r t (t.readG d) (2 * n.toNat) = .bytes bs fl s1 → piecesOf bs n.toNat = some ps →
       disjointPieces ps = true → (ps.map Piece.len).sum ≤ r.msMax →
       ∃ u t1, exec (.saveset d n) s = .next u ∧ (∀ a, u.byte a = s1.byte a) ∧
         u.region t.rid = some { r with savesetBase := t.readG d, saveset := ps } ∧
         u.thread s1.cur = some t1 ∧ (d ≠ 0 → t.loops = [] → t1.readG d = 0)))

/-! Privileged CSRs, ERET and accesses to memory: the words of the statements. -/

namespace Sys2Proof.Claims

open Sys2Proof.Machine

/-- Privileged CSRs whose read has no effect, as thread `t` of level S and region `r` reads them while no selection
stands or the value does not depend on it (R311, R313). -/
def privValue (s : State) (t : Thread) (r : Region) (n : Nat) : Option Dword :=
  match n with
  | 0x00 => some (1 + BitVec.ofNat 64 (r.launch.part * 256))
  | 0x02 => some t.priv.tsel
  | 0x07 => some t.priv.tact
  | 0x08 => some t.priv.tthr
  | 0x10 => some (s.partition r.launch.part).ptRoot
  | 0x11 => some (s.partition r.launch.part).fpool
  | 0x20 => some t.priv.sdlTgt
  | 0x21 => some 0
  | 0x22 => some (t.priv.sdlStat.setWidth 64)
  | _ => none

/-- The set after a plain write to a privileged CSR of a set (R311, R313). -/
def privWritten (p : PrivSet) (n : Nat) (v : Dword) : Option PrivSet :=
  match n with
  | 0x02 => some { p with tsel := v, tpcDirty := false }
  | 0x07 => some (if v &&& 3 = 3 then p else { p with tact := v &&& 3 })
  | 0x08 => some { p with tthr := v &&& 0x3FFFF, tpcDirty := false }
  | 0x20 => some { p with sdlTgt := v }
  | _ => none

/-- A value that PT_ROOT takes (R335). -/
def RootOk (s : State) (part : Nat) (v : Dword) : Prop :=
  v.toNat % 2 ^ 14 = 0 ∧ v.toNat < 2 ^ 56 ∧
    (v = 0 ∨ (isHbm v.toNat = true ∧ (s.partition part).ownsHbm v.toNat (2 ^ 14) = true))

/-- A value that FPOOL takes (R335). -/
def PoolOk (s : State) (part : Nat) (v : Dword) : Prop :=
  v.toNat % 64 = 0 ∧ v.toNat < 2 ^ 56 ∧
    (v = 0 ∨ (isHbm v.toNat = true ∧ (s.partition part).ownsHbm v.toNat 64 = true))

/-- No cached translation of a partition is left (R335). -/
def NoTranslations (s : State) (part : Nat) : Prop :=
  (∀ e ∈ s.tlb, e.part ≠ part) ∧ ∀ e ∈ s.walkCache, e.part ≠ part

/-- A thread of level S with nothing outstanding, no fault held and no load of SDL_LOAD under way (R208, R314). -/
def QuietSupervisor (s : State) (t : Thread) (r : Region) : Prop :=
  IssuesIn s t r ∧ t.super = true ∧ t.held = .none ∧ t.outstanding = [] ∧ t.cb = [] ∧ t.priv.sdlWords = []

/-- A graph's image has all of its frames (R358). -/
def Framed (r : Region) : Prop := r.imageSize ≤ r.imageFrames.length

/-- No walk under way and no marked sector meets the 64 bytes at `a`, so that a record may be written there at once (R341,
R345). -/
def RecordFree (s : State) (a : Nat) : Prop :=
  (∀ w ∈ s.walks, w.da / 64 < a / 64 ∨ a + 64 ≤ w.da / 64 * 64) ∧ ∀ c ∈ s.marks, c.1 < a / 64 ∨ a + 64 ≤ c.1 * 64

/-- The PC at which ERET lets the selected thread go on: TPC as written since the selection, else its own (R313). -/
def resumePc (p : PrivSet) (x : Selected) : Dword := if p.tpcDirty then p.tpc else x.thread.pc

/-- The state after a kill of a selected thread's graph: STATUS 1 (R314). -/
def killed (s : State) (x : Selected) : State := s.endGraph x.rid 1 0

/-- An access of a control thread: kind, virtual address, bytes, scope, token and register (R150, R207 to R221). -/
structure Form where
  kind : AccKind
  va : Dword
  n : Nat
  sc : BitVec 2
  k : BitVec 4
  d : Reg

/-- A base register plus a scaled offset (R150). -/
def place {w : Nat} (t : Thread) (a : Reg) (off : BitVec w) (scale : Nat) : Dword :=
  t.readG a + off.signExtend 64 * BitVec.ofNat 64 scale

/-- The access that an instruction makes, with the operands that thread `t` holds. -/
def formOf (t : Thread) : Instr → Option Form
  | .ldB d a k sc off => some ⟨.load, place t a off 1, 1, sc, k, d⟩
  | .ldH d a k sc off => some ⟨.load, place t a off 2, 2, sc, k, d⟩
  | .ldW d a k sc off => some ⟨.load, place t a off 4, 4, sc, k, d⟩
  | .ldD d a k sc off => some ⟨.load, place t a off 8, 8, sc, k, d⟩
  | .lda d a k sc z off => some ⟨.lda, place t a off (2 ^ z.toNat), 2 ^ z.toNat, sc, k, d⟩
  | .stB d a k sc off => some ⟨.store, place t a off 1, 1, sc, k, d⟩
  | .stH d a k sc off => some ⟨.store, place t a off 2, 2, sc, k, d⟩
  | .stW d a k sc off => some ⟨.store, place t a off 4, 4, sc, k, d⟩
  | .stD d a k sc off => some ⟨.store, place t a off 8, 8, sc, k, d⟩
  | .sts d a k sc z off => some ⟨.sts, place t a off (2 ^ z.toNat), 2 ^ z.toNat, sc, k, d⟩
  | .ldwSync d a k sc z off => some ⟨.sync, place t a off (2 ^ z.toNat), 2 ^ z.toNat, sc, k, d⟩
  | .ldwTake d a k sc z off => some ⟨.take, place t a off (2 ^ z.toNat), 2 ^ z.toNat, sc, k, d⟩
  | .stwFill d a k sc z off => some ⟨.fill, place t a off (2 ^ z.toNat), 2 ^ z.toNat, sc, k, d⟩
  | .stwClear a k sc off => some ⟨.clear, place t a off 64, 64, sc, k, 0⟩
  | .fes d a k sc off => some ⟨.fes, place t a off 64, 64, sc, k, d⟩
  | .amoSwap d a k sc z off => some ⟨.amo .swap, place t a off (4 * 2 ^ z.toNat), 4 * 2 ^ z.toNat, sc, k, d⟩
  | .amoCas d a k sc z off => some ⟨.amo .cas, place t a off (4 * 2 ^ z.toNat), 4 * 2 ^ z.toNat, sc, k, d⟩
  | .amoAdd d a k sc z off => some ⟨.amo .add, place t a off (4 * 2 ^ z.toNat), 4 * 2 ^ z.toNat, sc, k, d⟩
  | .amoAnd d a k sc z off => some ⟨.amo .and, place t a off (4 * 2 ^ z.toNat), 4 * 2 ^ z.toNat, sc, k, d⟩
  | .amoOr d a k sc z off => some ⟨.amo .or, place t a off (4 * 2 ^ z.toNat), 4 * 2 ^ z.toNat, sc, k, d⟩
  | .amoXor d a k sc z off => some ⟨.amo .xor, place t a off (4 * 2 ^ z.toNat), 4 * 2 ^ z.toNat, sc, k, d⟩
  | .amoMin d a k sc z off => some ⟨.amo .min, place t a off (4 * 2 ^ z.toNat), 4 * 2 ^ z.toNat, sc, k, d⟩
  | .amoMax d a k sc z off => some ⟨.amo .max, place t a off (4 * 2 ^ z.toNat), 4 * 2 ^ z.toNat, sc, k, d⟩
  | .amoMinn d a k sc z off => some ⟨.amo .minn, place t a off (4 * 2 ^ z.toNat), 4 * 2 ^ z.toNat, sc, k, d⟩
  | .amoMaxn d a k sc z off => some ⟨.amo .maxn, place t a off (4 * 2 ^ z.toNat), 4 * 2 ^ z.toNat, sc, k, d⟩
  | .amoFadd d a k sc off => some ⟨.amo .fadd, place t a off 4, 4, sc, k, d⟩
  | _ => none

/-- The issuing thread has no fault held, no access outstanding, no value in the reply edge buffer and nothing in its
combining buffer, so that no token, acquire, release or full buffer holds its next access back (R122, R124, R208, R209,
R356). -/
def NothingOpen (s : State) (t : Thread) : Prop :=
  t.held = .none ∧ t.acquiring = [] ∧ t.outstanding = [] ∧ t.cb = [] ∧ ∀ v ∈ s.replies, v.who.key ≠ s.cur

/-- The access of form `f` reaches place `p`, in the state `s1` after its translation, and may act there at once: the way
to another device is open (R402), a sector that it reads was not written by a group that has not been checked (R134), no
translation that its write makes void is in use (R345), and no turn of the agents' schedule keeps it back. -/
def ReachesPlace (s s1 : State) (t : Thread) (r : Region) (f : Form) (p : Place) : Prop :=
  reach s r t.super t.part t.rx t.ry f.va f.n f.n f.kind.walk = .at p s1 ∧ s1.wayOpen s.cur p.addr = true ∧
    (f.kind.loads = true → s1.unchecked (p.addr / 64) = false) ∧
    (f.kind.writes = true → s1.inUse (p.addr / 64) (fun _ => false) = false) ∧ s.holdAccesses = false

/-- The place lies on the thread's own device. -/
def OnDevice (s : State) (p : Place) : Prop := addrDev p.addr = keyDev s.cur

/-- The effective scope (R117, R100). -/
def effective (f : Form) (p : Place) : Nat := max f.sc.toNat p.home

/-- POISONRD where the sector is poisoned. -/
def poisonFlag (s : State) (a : Nat) : Dword := if s.sector (a / 64) = .poisoned then 0x40 else 0

/-- What an access that has performed leaves of its thread: `v` in its register where it has one, `fl` raised, the charge
of its class, and the token without the access; all else as in `t`. -/
def AccessDone (s : State) (t t1 : Thread) (dst : Option Reg) (v fl : Dword) (cls : Nat) : Prop :=
  (∀ q, t1.readG q = if some q = dst ∧ q ≠ 0 then v else t.readG q) ∧
  t1.flags = t.flags ||| (fl &&& 0x7F#64) ∧ t1.energy = charged s t cls ∧
  { t1 with g := t.g, pending := t.pending, flags := t.flags, energy := t.energy, charged := t.charged, tok := t.tok,
            synced := t.synced } = t

/-- Bytes [a, a + n) hold the low n bytes of `v`, and every other byte is as in `s`. -/
def Stores (s u : State) (a n : Nat) (v : Dword) : Prop :=
  (∀ i, i < n → u.byte (a + i) = v.extractLsb' (8 * i) 8) ∧ ∀ b, (b < a ∨ a + n ≤ b) → u.byte b = s.byte b

/-- No sector's state differs but that of the sector of `a`, which is `v`. -/
def SetsSector (s u : State) (a : Nat) (v : SectorState) : Prop :=
  u.sector (a / 64) = v ∧ ∀ k, k ≠ a / 64 → u.sector k = s.sector k

/-- The value of the bytes [a, a + n). -/
def valueAt (s : State) (a n : Nat) : Dword := BitVec.ofNat 64 (s.readNat a n)

/-- New value of an atomic over w bits from the old value and the operands, zero-extended (R110, R219). -/
def atomicNew (op : AmoOp) (w : Nat) (o x y : Nat) : Nat :=
  let sgn (v : Nat) : Int := if v < 2 ^ (w - 1) then v else (v : Int) - 2 ^ w
  match op with
  | .swap => x
  | .cas => if o = x then y else o
  | .add => (o + x) % 2 ^ w
  | .and => o &&& x
  | .or => o ||| x
  | .xor => o ^^^ x
  | .min => if sgn o ≤ sgn x then o else x
  | .max => if sgn x ≤ sgn o then o else x
  | .minn => min o x
  | .maxn => max o x
  | .fadd => (nodeFadd o x).1

end Sys2Proof.Claims

/-- R205, R308, R311, R314: at level U, pcsrr, pcsrw and eret in each of its forms end the graph with the
privileged-instruction cause, whatever N or TACT. -/
def Obligations.PrivilegedFormsTrapAtLevelU : Prop :=
  ∀ (s : State) (t : Thread) (r : Region) (q : Reg) (n : BitVec 11), IssuesIn s t r → t.super = false →
    EndsGraph (.pcsrr q n) s t 0x03 ∧ EndsGraph (.pcsrw q n) s t 0x03 ∧ EndsGraph .eretResume s t 0x03 ∧
    EndsGraph .eretKill s t 0x03 ∧ EndsGraph .eretWake s t 0x03

/-- R5, R311, R313: at level S, pcsrr reads each privileged CSR of its thread's set and of its partition into g[r]; the
write-only SDL_LOAD reads zero; a failed selection reads TSTATE.STATE as ended or unknown, and TPC, TCAUSE and TREC as 0; a
selected thread without an item reads TCAUSE and TREC as 0; a number that names no CSR is an illegal instruction. R351: TREC
of a selected thread with an item completes too, and where the image has its frames, and no translation that the write makes
void is in use (R345), it gives the address of the item's record in the image, at which the record stands. R311, R349: a read of TNEXT selects the oldest listed thread of the
partition that no set has selected: its CTX_ID goes to g[q] and to TSEL, its place to TTHR, and the list marks it; an empty
list reads 0 and selects nothing.
Readings and choices of the model that this rests on: log entry 25. -/
def Obligations.PcsrrReadsPrivilegedCsrs : Prop :=
  (∀ (s : State) (t : Thread) (r : Region) (q : Reg) (n : BitVec 11), IssuesIn s t r → t.super = true →
     (∀ v, privValue s t r n.toNat = some v → ∃ (t1 : Thread), Finishes (.pcsrr q n) s t1 4 ∧ WritesG s t t1 q v 11) ∧
     (s.select r.launch.part t.priv = none →
       (∃ (t1 : Thread), Finishes (.pcsrr q 3) s t1 4 ∧ WritesG s t t1 q (BitVec.ofNat 64 (5 + t.priv.last.toNat * 8)) 11) ∧
       (∃ (t1 : Thread), Finishes (.pcsrr q 4) s t1 4 ∧ WritesG s t t1 q 0 11) ∧
       (∃ (t1 : Thread), Finishes (.pcsrr q 5) s t1 4 ∧ WritesG s t t1 q 0 11) ∧
       (∃ (t1 : Thread), Finishes (.pcsrr q 6) s t1 4 ∧ WritesG s t t1 q 0 11)) ∧
     (∀ x, s.select r.launch.part t.priv = some x →
       (∃ (t1 : Thread), Finishes (.pcsrr q 3) s t1 4 ∧
         WritesG s t t1 q (BitVec.ofNat 64 (x.stateCode + t.priv.last.toNat * 8)) 11) ∧
       (∃ (t1 : Thread), Finishes (.pcsrr q 4) s t1 4 ∧ WritesG s t t1 q (resumePc t.priv x) 11) ∧
       (x.thread.items = [] →
         (∃ (t1 : Thread), Finishes (.pcsrr q 5) s t1 4 ∧ WritesG s t t1 q 0 11) ∧
         ∃ (t1 : Thread), Finishes (.pcsrr q 6) s t1 4 ∧ WritesG s t t1 q 0 11) ∧
       (∀ it rest, x.thread.items = it :: rest →
         (∃ (t1 : Thread), Finishes (.pcsrr q 5) s t1 4 ∧ WritesG s t t1 q (it.tcause.setWidth 64) 11) ∧
         (∃ (u : State) (t1 : Thread) (v : Dword), exec (.pcsrr q 6) s = .next u ∧ u.thread s.cur = some (t1.complete 4) ∧
           WritesG s t t1 q v 11 ∧ (∀ k, k ≠ s.cur → u.thread k = s.thread k) ∧
           (s.region x.rid = some x.region → Framed x.region →
             RecordFree s (x.region.recordAddr x.part x.rx x.ry it.src) →
             let a := x.region.recordAddr x.part x.rx x.ry it.src
             v = BitVec.ofNat 64 a ∧ u.bytes a 64 = it.record.bytes ∧ ∀ b, (b < a ∨ a + 64 ≤ b) → u.byte b = s.byte b)))) ∧
     ((9 ≤ n.toNat ∧ n.toNat ≤ 0x0F) ∨ (0x12 ≤ n.toNat ∧ n.toNat ≤ 0x1F) ∨ 0x23 ≤ n.toNat →
       EndsGraph (.pcsrr q n) s t 0x01)) ∧
  (∀ (s : State) (t : Thread) (r x : Region) (q : Reg) (name : Nat) (before after : List (Nat × Bool)), IssuesIn s t r →
     t.super = true →
     (SMap.get [] s.tnext r.launch.part = before ++ (name, false) :: after → (∀ c ∈ before, c.2 = true) →
       s.region (name / 2 ^ 20) = some x →
       ∀ i, i = .tnextRead q ∨ (i = .pcsrr q 1 ∧ t.loops = []) →
       ∃ (u : State) (t1 : Thread), exec i s = .next u ∧ SameMemory s u ∧ u.thread s.cur = some t1 ∧
         (q ≠ 0 → t1.readG q = x.ctxId) ∧ t1.priv.tsel = x.ctxId ∧
         t1.priv.tthr = x.tthr (name % 2 ^ 20 / 1024) (name % 32) (name % 2 ^ 20 / 32 % 32) ∧
         (name, true) ∈ SMap.get [] u.tnext r.launch.part ∧ (name, false) ∉ SMap.get [] u.tnext r.launch.part) ∧
     ((∀ c ∈ SMap.get [] s.tnext r.launch.part, c.2 = true) →
       exec (.tnextRead q) s = .next (s.setThread s.cur (t.writeG q 0)) ∧
       ∃ (t1 : Thread), Finishes (.pcsrr q 1) s t1 4 ∧ WritesG s t t1 q 0 11))

/-- R311, R313, R335: at level S, pcsrw and the CSR-write events change the set of their thread as the CSR says; TPC takes
a value while a selection stands; TACT ignores a write of 0b11; PT_ROOT and FPOOL take a value that keeps their fields and lies in the partition's HBM, and
PT_ROOT drops the partition's cached translations; any other value is ignored. A number that names no writable CSR is an
illegal instruction. -/
def Obligations.PcsrwWritesPrivilegedCsrs : Prop :=
  ∀ (s : State) (t : Thread) (r : Region) (q : Reg) (n : BitVec 11) (v : Dword), IssuesIn s t r → t.super = true →
    (∀ p, privWritten t.priv n.toNat (t.readG q) = some p →
      Finishes (.pcsrw q n) s ({ t with priv := p }.chargeIssue s.curDevice 11) 4) ∧
    (∀ p, privWritten t.priv n.toNat v = some p →
      exec (.privCsrWrite n v) s = .next (s.setThread s.cur { t with priv := p })) ∧
    (Finishes (.pcsrw q 4) s ({ t with priv := match s.select r.launch.part t.priv with
      | some _ => { t.priv with tpc := t.readG q, tpcDirty := true }
      | none => t.priv }.chargeIssue s.curDevice 11) 4) ∧
    exec (.tselWrite v) s = .next (s.setThread s.cur { t with priv := { t.priv with tsel := v, tpcDirty := false } }) ∧
    (RootOk s r.launch.part v → ∃ (u : State), exec (.ptRootWrite v) s = .next u ∧ SameMemory s u ∧
      (u.partition r.launch.part).ptRoot = v ∧ NoTranslations u r.launch.part ∧ u.thread s.cur = some t) ∧
    (RootOk s r.launch.part (t.readG q) → ∃ (u : State), exec (.pcsrw q 0x10) s = .next u ∧ SameMemory s u ∧
      (u.partition r.launch.part).ptRoot = t.readG q ∧ NoTranslations u r.launch.part) ∧
    (PoolOk s r.launch.part (t.readG q) → ∃ (u : State), exec (.pcsrw q 0x11) s = .next u ∧ SameMemory s u ∧
      (u.partition r.launch.part).fpool = t.readG q) ∧
    (¬ RootOk s r.launch.part v → exec (.ptRootWrite v) s = .next (s.setThread s.cur t)) ∧
    (PoolOk s r.launch.part v → ∃ (u : State), exec (.fpoolWrite v) s = .next u ∧ SameMemory s u ∧
      (u.partition r.launch.part).fpool = v ∧ u.thread s.cur = some t) ∧
    (¬ PoolOk s r.launch.part v → exec (.fpoolWrite v) s = .next (s.setThread s.cur t)) ∧
    (n.toNat = 0 ∨ n.toNat = 1 ∨ n.toNat = 3 ∨ n.toNat = 5 ∨ n.toNat = 6 ∨ (9 ≤ n.toNat ∧ n.toNat ≤ 0x0F) ∨
      (0x12 ≤ n.toNat ∧ n.toNat ≤ 0x1F) ∨ 0x22 ≤ n.toNat →
      EndsGraph (.pcsrw q n) s t 0x01)

/-- R314, R353: ERET by a quiet S thread on its selection, and LAST. Resuming a control-core item lets the thread go
on at TPC with its item gone; waking lets a halted or waiting thread go on at TPC; an item of a stream clears its
context's fault; killing ends the graph with STATUS 1, whatever item is listed. R313, R314: with nothing selected, ERET in each form changes
nothing of the machine but its own thread's PC, energy and LAST, which says refused.
Readings and choices of the model that this rests on: log entries 27, 28 and 94. -/
def Obligations.EretActsOnTheSelection : Prop :=
  (∀ (s : State) (t : Thread) (r : Region) (x : Selected), QuietSupervisor s t r →
     (s.setThread s.cur t).select r.launch.part t.priv = some x → SMap.get none s.images x.rid = none →
     x.region.keyAt x.part x.rx x.ry ≠ s.cur →
     (∀ it rest, x.thread.items = it :: rest → it.src = .core →
       ∃ (u : State) (t1 : Thread), exec .eretResume s = .next u ∧ SameMemory s u ∧ u.thread s.cur = some t1 ∧ t1.priv.last = 1 ∧
         u.thread (x.region.keyAt x.part x.rx x.ry) = some { x.thread with
           status := .running, wait := .none, charged := false, pc := resumePc t.priv x, items := rest }) ∧
     (∀ it rest ag, x.thread.items = it :: rest → it.src = .stream ag →
       ∃ (u : State) (t1 : Thread), exec .eretResume s = .next u ∧ SameMemory s u ∧ u.thread s.cur = some t1 ∧
         t1.priv.last = 1 ∧
         u.thread (x.region.keyAt x.part x.rx x.ry) = some { x.thread with items := rest } ∧
         (SMap.get ({} : AgCtx) (u.slot (x.region.keyAt x.part x.rx x.ry)).ags ag.toNat).fault = false) ∧
     (∀ it rest, x.thread.items = it :: rest → it.src = .scalar → x.thread.held = .reissue →
       ∃ (u : State) (t1 : Thread), exec .eretResume s = .next u ∧ SameMemory s u ∧ u.thread s.cur = some t1 ∧
         t1.priv.last = 1 ∧
         u.thread (x.region.keyAt x.part x.rx x.ry) = some { x.thread with held := .none, items := rest }) ∧
     (x.stateCode = 3 ∨ x.stateCode = 4 →
       ∃ (u : State) (t1 : Thread), exec .eretWake s = .next u ∧ SameMemory s u ∧ u.thread s.cur = some t1 ∧ t1.priv.last = 1 ∧
         u.thread (x.region.keyAt x.part x.rx x.ry) = some { x.thread with
           status := .running, wait := .none, charged := false, pc := resumePc t.priv x }) ∧
     (∀ ended, ended = killed (s.setThread s.cur t) x →
       (∀ t2, ended.thread s.cur = some t2 → ended.cur = s.cur →
         ∃ (t1 : Thread), exec .eretKill s = .next (ended.setThread s.cur (t1.complete 4)) ∧
           t1.priv = { t2.priv with last := 1, tpcDirty := false }) ∧
       (ended.thread ended.cur = none → exec .eretKill s = .next ended))) ∧
  (∀ (s : State) (t : Thread) (r : Region) (i : Instr), QuietSupervisor s t r →
     (i = .eretResume ∨ i = .eretKill ∨ i = .eretWake) → (s.setThread s.cur t).select r.launch.part t.priv = none →
     ∃ (u : State) (t1 : Thread), exec i s = .next u ∧ OnlyIssuer s u ∧
       u.thread s.cur = some (t1.complete 4) ∧ t1.priv = { t.priv with last := 2 } ∧
       { t1 with priv := t.priv, energy := t.energy, charged := t.charged } = t)

/-- R315: a write to SDL_LOAD, as an event of its own or by pcsrw, reads 64 bytes; a well-formed subgraph for memory of the
partition then waits for the entry that SDL_TGT names (SDL_STAT 0b11), anything else is refused (0b10); the oldest waiting
load takes effect as one action, all 16 words, and SDL_STAT reads 0b01 with the last of them.
Readings and choices of the model that this rests on: log entry 26. -/
def Obligations.SaddleLoadsTakeEffect : Prop :=
  (∀ (s s1 : State) (t : Thread) (r : Region) (q : Reg) (v : Dword) (bs : List Byte) (fl : Dword), IssuesIn s t r →
    t.super = true → t.held = .none → t.acquiring = [] → v.toNat % 64 = 0 → readBlock s r t v 8 = .bytes bs fl s1 →
    ∀ i, i = .sdlLoadWrite v ∨ (i = .pcsrw q 0x21 ∧ t.readG q = v) →
    ∃ (u : State) (t1 : Thread), exec i s = .next u ∧ (∀ a, u.byte a = s1.byte a) ∧ u.thread s1.cur = some t1 ∧
      (s1.sdlTargetOk r.launch.part t.priv.sdlTgt = true → (wordsOf bs 16).all saddleWordOk = true →
        t1.priv.sdlStat = 3 ∧ t1.priv.sdlWords = t.priv.sdlWords ++ [(t.priv.sdlTgt, wordsOf bs 16)]) ∧
      (s1.sdlTargetOk r.launch.part t.priv.sdlTgt = false ∨ (wordsOf bs 16).all saddleWordOk = false →
        t1.priv.sdlStat = 2 ∧ t1.priv.sdlWords = t.priv.sdlWords)) ∧
  (∀ (s : State) (key : Nat) (t : Thread) (r : Region) (tgt : Dword) (ws : List Word) (l : List (Dword × List Word)),
    key < 2 ^ 32 → s.thread key = some t → s.region t.rid = some r → (s.device (keyDev key)).module = .up →
    t.priv.sdlWords = (tgt, ws) :: l →
    ∃ (u : State) (t1 : Thread), exec (.sdlLoadApply key) s = .next u ∧ SameMemory s u ∧ u.thread key = some t1 ∧
      t1.priv.sdlWords = l ∧ (l = [] → t.priv.sdlStat = 3 → t1.priv.sdlStat = 1) ∧
      SMap.get [] u.saddles (saddleUnit (tgt.toNat / 64 * 64) r.launch.part * 16 + tgt.toNat % 16) = ws)

/-! Accesses. -/

/-- R104, R209, R212, R214: a load of an address on its own device completes with the addressed bytes, zero-extended, in
g[d]; a poisoned sector raises POISONRD; memory is unchanged. R397: a load, and an atomic, of another device sends one request
with its operands and goes on, its register awaited.
Readings and choices of the model that this rests on: log entries 5, 13 and 18. -/
def Obligations.LoadsReadBytes : Prop :=
  (∀ (i : Instr) (s s1 : State) (t : Thread) (r : Region) (f : Form) (p : Place), IssuesIn s t r → NothingOpen s t →
    formOf t i = some f → (f.kind = .load ∨ f.kind = .lda) → ReachesPlace s s1 t r f p → OnDevice s p →
    s1.deferReplies = false →
    ∃ (u : State) (t1 : Thread), exec i s = .next u ∧ SameMemory s1 u ∧ u.thread s.cur = some (t1.complete 4) ∧
      AccessDone s t t1 (some f.d) (valueAt s1 p.addr f.n) (poisonFlag s1 p.addr) (3 + effective f p)) ∧
  (∀ (i : Instr) (s s1 : State) (t : Thread) (r : Region) (f : Form) (p : Place), IssuesIn s t r → NothingOpen s t →
    formOf t i = some f → ReachesPlace s s1 t r f p → ¬ OnDevice s p →
    (f.kind = .load ∨ f.kind = .lda ∨ ∃ op, f.kind = .amo op) →
    ∃ (u : State) (t1 : Thread), exec i s = .next u ∧ SameMemory s1 u ∧ u.thread s.cur = some (t1.complete 4) ∧
      t1.outstanding = [t.nextId] ∧ (f.d ≠ 0 → (f.d.toNat, t.nextId) ∈ t1.pending) ∧ (∀ q, t1.readG q = t.readG q) ∧
      u.flits = s1.flits ++ [.of (match f.kind with
        | .amo op => .atomicReq ⟨s.cur, t.ctxId, t.nextId⟩ f.d p.addr f.n op (t.readG f.d) (t.readG (f.d + 1))
        | _ => .loadReq ⟨s.cur, t.ctxId, t.nextId⟩ f.d p.addr f.n (List.replicate f.n none)) (s1.partOf s.cur)])

/-- R104, R212, R215: a store whose effective scope is below fabric, and a release store on its own device at any scope,
write the low bytes of g[d] at the address that R150 and R207 give, and no other byte; no register changes. R398: a release
store, and a filling write, to another device sends its bytes in one data flit; the thread of a filling write waits for the
acknowledgement.
Readings and choices of the model that this rests on: log entry 13. -/
def Obligations.StoresWriteBytes : Prop :=
  (∀ (i : Instr) (s s1 : State) (t : Thread) (r : Region) (f : Form) (p : Place), IssuesIn s t r → NothingOpen s t →
    formOf t i = some f → ((f.kind = .store ∧ effective f p < 3) ∨ f.kind = .sts) → ReachesPlace s s1 t r f p →
    OnDevice s p →
    ∃ (u : State) (t1 : Thread), exec i s = .next u ∧ Stores s1 u p.addr f.n (t.readG f.d) ∧ (∀ k, u.sector k = s1.sector k) ∧
      u.thread s.cur = some (t1.complete 4) ∧
      AccessDone s t t1 none 0 (poisonFlag s1 p.addr) (3 + effective f p)) ∧
  (∀ (i : Instr) (s s1 : State) (t : Thread) (r : Region) (f : Form) (p : Place), IssuesIn s t r → NothingOpen s t →
    formOf t i = some f → ReachesPlace s s1 t r f p → ¬ OnDevice s p → (f.kind = .sts ∨ f.kind = .fill) →
    ∃ (u : State) (t1 : Thread) (m : SMap (Option Byte)), exec i s = .next u ∧ SameMemory s1 u ∧ t1.outstanding = [t.nextId] ∧
      (∀ j, j < f.n → SMap.get none m ((p.addr + j) % 64) = some ((t.readG f.d).extractLsb' (8 * j) 8)) ∧
      u.flits = s1.flits ++ [.of (.pooledStore ⟨s.cur, t.ctxId, t.nextId⟩ (p.addr / 64) [m] (decide (f.kind = .fill)) false false)
        (s1.partOf s.cur)] ∧
      (f.kind = .sts → u.thread s.cur = some (t1.complete 4)) ∧
      (f.kind = .fill → u.thread s.cur = some t1 ∧ t1.pc = t.pc ∧ ∃ a, t1.wait = .away a ∧ a.id = t.nextId))

/-- R101, R137: an ordinary store whose effective scope is fabric goes to the combining buffer: no byte of memory changes,
and the thread holds an entry with the sector, the masked bytes and the token, and an outstanding access. -/
def Obligations.FabricStoresEnterTheCombiningBuffer : Prop :=
  ∀ (i : Instr) (s s1 : State) (t : Thread) (r : Region) (f : Form) (p : Place), IssuesIn s t r → NothingOpen s t →
    formOf t i = some f → f.kind = .store → effective f p = 3 → ReachesPlace s s1 t r f p →
    ∃ (u : State) (t1 : Thread) (e : CbEntry), exec i s = .next u ∧ SameMemory s1 u ∧ u.thread s.cur = some (t1.complete 4) ∧ t1.cb = [e] ∧
      e.sector = p.addr / 64 ∧ e.tok = f.k ∧ t1.outstanding = [e.id] ∧ e.id ∈ t1.fstores ∧
      (∀ j, j < f.n → SMap.get none e.bytes ((p.addr + j) % 64) = some ((t.readG f.d).extractLsb' (8 * j) 8)) ∧
      (∀ q, t1.readG q = t.readG q)

/-- R104, R216, R217: the full/empty group acts on its sector as one action: sync and take read a full sector, take
empties it, fill writes and fills a sector that is not full, clear empties, fes reads the state's code. R105, R211: a
sync or take of an empty sector, and a fill of a full one, park at the sector's port while its list has room: the
thread waits at the instruction, its PC, registers and memory unchanged. That sync, take, clear and fes act, and sync and take
park, directly at a sector of another device too, for which no KIND of flit is given, is the model's choice.
Readings and choices of the model that this rests on: log entry 18. -/
def Obligations.FullEmptyAccessesActOrPark : Prop :=
  (∀ (i : Instr) (s s1 : State) (t : Thread) (r : Region) (f : Form) (p : Place), IssuesIn s t r → NothingOpen s t →
     formOf t i = some f → ReachesPlace s s1 t r f p →
     (f.kind = .sync → s1.sector (p.addr / 64) = .full →
       ∃ (u : State) (t1 : Thread), exec i s = .next u ∧ SameMemory s1 u ∧ u.thread s.cur = some (t1.complete 4) ∧
         AccessDone s t t1 (some f.d) (valueAt s1 p.addr f.n) 0 (3 + effective f p)) ∧
     (f.kind = .take → s1.sector (p.addr / 64) = .full →
       ∃ (u : State) (t1 : Thread), exec i s = .next u ∧ (∀ a, u.byte a = s1.byte a) ∧ SetsSector s1 u p.addr .empty ∧
         u.thread s.cur = some (t1.complete 4) ∧
         AccessDone s t t1 (some f.d) (valueAt s1 p.addr f.n) 0 (3 + effective f p)) ∧
     (f.kind = .fill → OnDevice s p → s1.sector (p.addr / 64) ≠ .full →
       ∃ (u : State) (t1 : Thread), exec i s = .next u ∧ Stores s1 u p.addr f.n (t.readG f.d) ∧ SetsSector s1 u p.addr .full ∧
         u.thread s.cur = some (t1.complete 4) ∧ AccessDone s t t1 none 0 0 (3 + effective f p)) ∧
     (f.kind = .clear →
       ∃ (u : State) (t1 : Thread), exec i s = .next u ∧ (∀ a, u.byte a = s1.byte a) ∧ SetsSector s1 u p.addr .empty ∧
         u.thread s.cur = some (t1.complete 4) ∧ AccessDone s t t1 none 0 0 (3 + effective f p)) ∧
     (f.kind = .fes → s1.deferReplies = false →
       ∃ (u : State) (t1 : Thread), exec i s = .next u ∧ SameMemory s1 u ∧ u.thread s.cur = some (t1.complete 4) ∧
         AccessDone s t t1 (some f.d)
           (match s1.sector (p.addr / 64) with | .empty => 0 | .full => 1 | .poisoned => 2) 0 (3 + effective f p))) ∧
  (∀ (i : Instr) (s s1 : State) (t : Thread) (r : Region) (f : Form) (p : Place), IssuesIn s t r → NothingOpen s t →
     formOf t i = some f → ReachesPlace s s1 t r f p →
     (((f.kind = .sync ∨ f.kind = .take) ∧ s1.sector (p.addr / 64) = .empty) ∨
       (f.kind = .fill ∧ OnDevice s p ∧ s1.sector (p.addr / 64) = .full)) →
     (s1.parked.filter fun c => s1.portOf c.1 = s1.portOf (p.addr / 64)).length < 64 →
     ∃ (u : State) (t1 : Thread) (a : Access), exec i s = .next u ∧ SameMemory s1 u ∧ u.parked = s1.parked ++ [(p.addr / 64, s.cur)] ∧
       u.thread s.cur = some t1 ∧ t1.wait = .parked a ∧ t1.pc = t.pc ∧ (∀ q, t1.readG q = t.readG q) ∧
       a.kind = f.kind ∧ a.va = f.va ∧ a.dst = f.d ∧ a.d1 = t.readG f.d)

/-- R110, R218, R219: an atomic on its own device reads the old value into g[d], zero-extended, and writes the new value of
its operation at the same place as one action; no other byte changes. For amo.cas, g[d] is the expected value and g[d+1]
the new one. -/
def Obligations.AtomicsReadModifyWrite : Prop :=
  ∀ (i : Instr) (s s1 : State) (t : Thread) (r : Region) (f : Form) (p : Place) (op : AmoOp), IssuesIn s t r →
    NothingOpen s t → formOf t i = some f → f.kind = .amo op → ReachesPlace s s1 t r f p → OnDevice s p →
    s1.deferReplies = false →
    let w := 8 * f.n
    let new := atomicNew op w (s1.readNat p.addr f.n) ((t.readG f.d).toNat % 2 ^ w) ((t.readG (f.d + 1)).toNat % 2 ^ w)
    ∃ (u : State) (t1 : Thread) (fl : Dword), exec i s = .next u ∧ Stores s1 u p.addr f.n (BitVec.ofNat 64 new) ∧
      (∀ k, u.sector k = s1.sector k) ∧ u.thread s.cur = some (t1.complete 4) ∧
      AccessDone s t t1 (some f.d) (valueAt s1 p.addr f.n) fl 7 ∧
      (op ≠ .fadd → fl = poisonFlag s1 p.addr)

/-- R93, R208, R349, R351: an access to the translated space that is not aligned to its size takes an alignment fault: ag0
holds it, the thread goes on past the instruction with its register awaited, and an item with the cause and the address joins
the thread. Where the graph's image has its frames and no translation that the write makes void is in use (R345), the item's
record stands in the image, and no other byte changes.
Readings and choices of the model that this rests on: log entries 19, 25 and 103. -/
def Obligations.MisalignedAccessesFault : Prop :=
  ∀ (i : Instr) (s : State) (t : Thread) (r : Region) (f : Form), IssuesIn s t r → NothingOpen s t →
    formOf t i = some f → f.va.toNat < 2 ^ 56 → f.va.toNat % f.n ≠ 0 →
    ∃ (u : State) (t1 : Thread) (a : Access) (it : Item), exec i s = .next u ∧ (∀ k, u.sector k = s.sector k) ∧
      u.thread s.cur = some t1 ∧ t1.held = .access a ∧
      a.va = f.va ∧ a.kind = f.kind ∧ t1.items = t.items ++ [it] ∧ it.src = .scalar ∧ it.tcause = 0x11 ∧
      it.record.ea = f.va ∧ (t.loops = [] → t1.pc = t.pc + 4 ∧ ∀ q, t1.readG q = t.readG q) ∧
      (Framed r → RecordFree s (r.recordAddr t.part t.rx t.ry .scalar) →
        let at_ := r.recordAddr t.part t.rx t.ry .scalar
        u.bytes at_ 64 = it.record.bytes ∧ ∀ b, (b < at_ ∨ at_ + 64 ≤ b) → u.byte b = s.byte b)

/-! Tokens, fences, domains, replies, requests on the fabric and saddle units: the words of the statements. -/

namespace Sys2Proof.Claims

open Sys2Proof.Machine

/-- The thread waits at the instruction: it is charged once, keeps its PC and registers, and nothing else changes but
that the agents' turn comes (R41, R365). -/
def WaitsAt (i : Instr) (s : State) (t : Thread) (cls : Nat) : Prop :=
  ∃ u : State, exec i s = .next u ∧ SameMemory s u ∧ (∀ k, k ≠ s.cur → u.thread k = s.thread k) ∧ u.idle = true ∧
    u.thread s.cur = some { t.chargeIssue s.curDevice cls with wait := .issue }

/-- The thread waits at an instruction that has not issued yet: nothing is charged, and nothing else changes but that the
agents' turn comes (R41, R365). -/
def StallsAt (i : Instr) (s : State) (t : Thread) : Prop :=
  ∃ u : State, exec i s = .next u ∧ SameMemory s u ∧ (∀ k, k ≠ s.cur → u.thread k = s.thread k) ∧ u.idle = true ∧
    u.thread s.cur = some { t with wait := .issue }

/-- The bytes that an entry of a combining buffer holds are in memory, and no other byte has changed (R101, R136). -/
def EntryWritten (s u : State) (e : CbEntry) : Prop :=
  ∀ a, u.byte a = if a / 64 = e.sector then (SMap.get none e.bytes (a % 64)).getD (s.byte a) else s.byte a

/-- A combining-buffer entry as the buffer keeps it: a mask over the 64 bytes of a sector. -/
def EntryOk (e : CbEntry) : Prop := SMap.wf none e.bytes = true ∧ ∀ c ∈ e.bytes, c.1 < 64

/-- Access `id` of a thread has performed: register `d` takes `v` if it still waits for that access, the flags rise, and
only this access leaves the outstanding ones (R208, R209, R222). -/
def TakesResult (t t1 : Thread) (id : Nat) (d : Reg) (v fl : Dword) : Prop :=
  (∀ q, t1.readG q = if q = d ∧ q ≠ 0 ∧ (q.toNat, id) ∈ t.pending then v else t.readG q) ∧
  t1.flags = t.flags ||| (fl &&& 0x7F#64) ∧ (∀ j, j ∈ t1.outstanding ↔ j ∈ t.outstanding ∧ j ≠ id) ∧
  t1.pc = t.pc ∧ t1.status = t.status ∧ t1.energy = t.energy

/-- The thread does not wait for access `id` on another device (R209). -/
def NotAway (t : Thread) (id : Nat) : Prop := ∀ a, t.wait = .away a → a.id ≠ id

/-- Flit `f`, at the head of the list, is at its end and may act there now; the memory that it asks for belongs to the
partition that asks (R316, R394 to R397). -/
def Arrives (s : State) (f : Flit) (rest : List Flight) : Prop :=
  ∃ v : Flight, s.flits = v :: rest ∧ v.flit = f ∧ s.canArrive v = true ∧ s.admits v f.reach = true

/-- An entry of a thread's combining buffer may be written where the thread's own device holds its sector (R345). -/
def MayWrite (s : State) (key : Nat) (t : Thread) (e : CbEntry) : Prop :=
  (s.setThread key { t with cb := t.cb.filter fun x => x.id != e.id }).inUse e.sector (fun _ => false) = false

/-- The result token `r` of an invocation is on its way to its thread: in the unit's list on the thread's device, else as a
flit (R222, R397). -/
def ResultLeaves (s u : State) (v : Invocation) (r : InvResult) : Prop :=
  if addrDev v.target = keyDev v.who.key then u.results = s.results ++ [r] ∧ u.flits = s.flits
  else u.results = s.results ∧ u.flits = s.flits ++ [.of (.invResult r) none]

/-- An access waits at a sector's port for thread `key`, and the event `i` is what tries it again (R211). -/
def WaitsForSector (s : State) (i : Instr) (key sec : Nat) (t : Thread) (a : Access) : Prop :=
  (i = .parkedAccessServe sec ∧ t.wait = .parked a ∧ a.kind.grantable (s.sector sec) = true ∧
    s.parked.find? (fun c => c.1 = sec) = some (sec, key)) ∨
  (i = .parkedAccessRetry key ∧ t.wait = .unparked a)

end Sys2Proof.Claims

/-- R121, R223: tjoin makes the sets of kD the unions of those of kA and kB; twait completes when no access on its
token is outstanding, and waits while one is. R226: waitany completes with the masked tag bits when one is set or the
mask is zero, waitall when all of them are set; otherwise they wait. ffr and ffr.clr give the lowest set masked bit,
64 where there is none; ffr.clr clears it. -/
def Obligations.TokensAndTagsAnswer : Prop :=
  (∀ (s : State) (t : Thread) (kd ka kb : BitVec 4) (g : Guard), Issues s t → t.guardOn g = true →
     (∃ t1 : Thread, Finishes (.tjoin kd ka kb g) s t1 4 ∧
       (∀ k, t1.token k = if k = kd ∧ kd ≠ 0 then
           ⟨(t.token ka).lw ++ (t.token kb).lw, (t.token ka).rs ++ (t.token kb).rs⟩ else t.token k) ∧
       t1.energy = charged s t 0 ∧ { t1 with tok := t.tok, energy := t.energy, charged := t.charged } = t) ∧
     ((∀ j ∈ (t.token ka).lw ++ (t.token ka).rs, j ∉ t.outstanding) →
       Finishes (.twait ka g) s (t.chargeIssue s.curDevice 0) 4) ∧
     ((∃ j ∈ (t.token ka).lw ++ (t.token ka).rs, j ∈ t.outstanding) → WaitsAt (.twait ka g) s t 0)) ∧
  (∀ (s : State) (t : Thread) (d a : Reg) (g : Guard), Issues s t → t.guardOn g = true →
     let m := t.tags &&& t.readG a
     let low := (List.range 64).findIdx fun n => m.getLsbD n
     (m ≠ 0 ∨ t.readG a = 0 → ∃ t1 : Thread, Finishes (.waitany d a g) s t1 4 ∧ WritesG s t t1 d m 0) ∧
     (m = 0 → t.readG a ≠ 0 → WaitsAt (.waitany d a g) s t 0) ∧
     (m = t.readG a → ∃ t1 : Thread, Finishes (.waitall d a g) s t1 4 ∧ WritesG s t t1 d m 0) ∧
     (m ≠ t.readG a → WaitsAt (.waitall d a g) s t 0) ∧
     (∃ t1 : Thread, Finishes (.ffr d a g) s t1 4 ∧ WritesG s t t1 d (count low) 0) ∧
     (∃ t1 : Thread, Finishes (.ffrClr d a g) s t1 4 ∧ WritesG s { t with tags := t1.tags } t1 d (count low) 0 ∧
       ∀ n, t1.tags.getLsbD n = (t.tags.getLsbD n && !decide (n = low))))

/-- R128, R137, R224, R225: a fence completes with nothing outstanding; at tile or die scope it leaves fabric-scope stores
alone and waits for the rest; at device or fabric scope it sends the combining buffer, and a store to the thread's own
device performs at once. fence.flag then sets its sector full, without writing a byte, or parks on a full one. -/
def Obligations.FencesOrderAccesses : Prop :=
  (∀ (s : State) (t : Thread) (sc : BitVec 2), Issues s t → t.held = .none →
    (t.outstanding = [] → t.cb = [] →
      Finishes (.fence sc) s ({ t with synced := t.synced || decide (2 ≤ sc.toNat) }.chargeIssue s.curDevice 8) 4) ∧
    (sc.toNat < 2 → (∀ j ∈ t.outstanding, j ∈ t.fstores) → Finishes (.fence sc) s (t.chargeIssue s.curDevice 8) 4) ∧
    (sc.toNat < 2 → (∃ j ∈ t.outstanding, j ∉ t.fstores) → WaitsAt (.fence sc) s t 8) ∧
    (∀ e, 2 ≤ sc.toNat → t.cb = [e] → t.outstanding = [e.id] → EntryOk e → addrDev (e.sector * 64) = keyDev s.cur →
      NotAway t e.id → MayWrite s s.cur t e →
      ∃ (u : State) (t1 : Thread), exec (.fence sc) s = .next u ∧ EntryWritten s u e ∧
        u.thread s.cur = some (t1.complete 4) ∧ t1.cb = [] ∧ t1.outstanding = [] ∧ ∀ q, t1.readG q = t.readG q) ∧
    (∀ e, 2 ≤ sc.toNat → t.cb = [e] → t.outstanding = [e.id] → addrDev (e.sector * 64) ≠ keyDev s.cur →
      ∃ (u : State) (t1 : Thread), exec (.fence sc) s = .next u ∧ SameMemory s u ∧
        u.flits = s.flits ++
          [.of (.pooledStore ⟨s.cur, t.ctxId, e.id⟩ e.sector [e.bytes] false false false) (s.partOf s.cur)] ∧
        u.thread s.cur = some t1 ∧ t1.cb = [] ∧ t1.pc = t.pc ∧ t1.wait = .issue)) ∧
  (∀ (s s1 : State) (t : Thread) (r : Region) (p : Place) (a : Reg) (k : BitVec 4) (sc : BitVec 2) (off : BitVec 8),
    IssuesIn s t r → NothingOpen s t → ReachesPlace s s1 t r ⟨.flag, place t a off 64, 64, sc, k, 0⟩ p → OnDevice s p →
    (s1.sector (p.addr / 64) ≠ .full →
      ∃ (u : State) (t1 : Thread), exec (.fenceFlag a k sc off) s = .next u ∧ (∀ b, u.byte b = s1.byte b) ∧
        SetsSector s1 u p.addr .full ∧ u.thread s.cur = some (t1.complete 4) ∧ AccessDone s t t1 none 0 0 8) ∧
    (s1.sector (p.addr / 64) = .full → (s1.parked.filter fun c => s1.portOf c.1 = s1.portOf (p.addr / 64)).length < 64 →
      ∃ (u : State) (t1 : Thread), exec (.fenceFlag a k sc off) s = .next u ∧ SameMemory s1 u ∧
        u.parked = s1.parked ++ [(p.addr / 64, s.cur)] ∧ u.thread s.cur = some t1 ∧ t1.pc = t.pc))

/-- R48 to R51, R53, R228: DSYNC of a level that the thread has not joined ends the graph with the domain cause. Level 0
completes once the thread is quiet. At a joined level it signals the arrival; with every member arrived it completes and
inverts the level's phase bit, and otherwise it waits; when the members have come it completes. -/
def Obligations.DsyncWaitsForItsDomain : Prop :=
  ∀ (s : State) (t : Thread) (r : Region) (i : Instr) (l : BitVec 3) (len : Nat), IssuesIn s t r → l.toNat ≤ 4 →
    (i = .dsync l ∧ len = 4 ∨ i = .lim 0 (some (.dsync l)) ∧ len = 8 ∧ ∀ e ∈ t.loops, e.stop ≠ t.pc) →
    let joined := l = 0 ∨ t.domMemb.getLsbD (l.toNat - 1) = true
    let n := SMap.get 0 t.arrivals l.toNat + 1
    let t1 := { t with arrivals := SMap.put 0 t.arrivals l.toNat n }
    let done (x : Thread) : Thread := { x with synced := true }
    let flip (x : Thread) : Thread := { x with domMemb := x.domMemb ^^^ (1#64 <<< (56 + l.toNat)) }
    (¬ joined → EndsGraph i s t (6 + l.toNat * 2 ^ 16)) ∧
    (t.held = .none → t.outstanding = [] → t.cb = [] → joined → t.wait ≠ .dsync l →
      (l = 0 → Finishes i s ((done (flip t)).chargeIssue s.curDevice 8) len) ∧
      (l ≠ 0 → (s.setThread s.cur (done t1)).allArrived (done t1) r l.toNat n = true →
        ∃ u : State, exec i s = .next u ∧ SameMemory s u ∧
          u.thread s.cur = some (((done (flip t1)).chargeIssue s.curDevice 8).complete len)) ∧
      (l ≠ 0 → (s.setThread s.cur (done t1)).allArrived (done t1) r l.toNat n = false →
        ∃ u : State, exec i s = .next u ∧ SameMemory s u ∧
          u.thread s.cur = some { (done t1).chargeIssue s.curDevice 8 with wait := .dsync l })) ∧
    (joined → t.wait = .dsync l → s.allArrived t r l.toNat (SMap.get 0 t.arrivals l.toNat) = true →
      Finishes i s ((flip t).chargeIssue s.curDevice 8) len)

/-- R209, R222, R397, R398: a reply gives its register the value, unless a later instruction has written the register, and
its access is performed; a store's acknowledgement performs the store, and its thread goes on past the instruction where it
waits for it; a result token writes the value and the status registers and completes its tag.
Readings and choices of the model that this rests on: log entry 18. -/
def Obligations.RepliesReachTheirThread : Prop :=
  (∀ (s : State) (t : Thread) (r : Reply) (l : List Reply), s.replies = r :: l → s.thread r.who.key = some t →
    t.ctxId = r.who.ctx → NotAway t r.who.id →
    ∃ (u : State) (t1 : Thread), exec (.accessReply r.who.key) s = .next u ∧ SameMemory s u ∧ u.replies = l ∧
      u.thread r.who.key = some t1 ∧ TakesResult t t1 r.who.id r.dst r.value r.flags) ∧
  (∀ (s : State) (t : Thread) (r : Reply) (l : List Flight) (i : Instr), s.thread r.who.key = some t →
    t.ctxId = r.who.ctx → NotAway t r.who.id → r.who.id ≠ blockLoadId →
    (i = .loadReply ∧ Arrives s (.loadReply r) l) ∨ (i = .atomicReply ∧ Arrives s (.atomicReply r) l) →
    ∃ (u : State) (t1 : Thread), exec i s = .next u ∧ SameMemory s u ∧ u.flits = l ∧
      u.thread r.who.key = some t1 ∧
      TakesResult t t1 r.who.id r.dst r.value (if r.poisoned then r.flags ||| 0x40 else r.flags)) ∧
  (∀ (s : State) (t : Thread) (w : AccId) (fl : Dword) (src fa n : Nat) (l : List Flight), s.thread w.key = some t →
    t.ctxId = w.ctx → w.id < 2 ^ 32 → Arrives s (.storeAck w fl src fa n) l →
    (NotAway t w.id → ∃ (u : State) (t1 : Thread), exec .storeAcknowledgement s = .next u ∧ SameMemory s u ∧ u.flits = l ∧
      u.thread w.key = some t1 ∧ TakesResult t t1 w.id 0 0 fl) ∧
    (∀ a, t.wait = .away a → a.id = w.id → a.late = false →
      ∃ (u : State) (t1 : Thread), exec .storeAcknowledgement s = .next u ∧ SameMemory s u ∧ u.flits = l ∧
        u.thread w.key = some (t1.complete 4) ∧ TakesResult t t1 w.id 0 0 fl)) ∧
  (∀ (s : State) (t : Thread) (v : InvResult) (l : List InvResult), s.results = v :: l → s.thread v.who.key = some t →
    t.ctxId = v.who.ctx →
    ∃ (u : State) (t1 : Thread), exec .invocationResult s = .next u ∧ SameMemory s u ∧ u.results = l ∧
      u.thread v.who.key = some t1 ∧
      (v.dst ≠ 0 → (v.dst.toNat, v.who.id) ∈ t.pending → t1.readG v.dst = v.value) ∧
      (v.dst + 1 ≠ 0 → ((v.dst + 1).toNat, v.who.id) ∈ t.pending → t1.readG (v.dst + 1) = BitVec.ofNat 64 v.status) ∧
      (SMap.get 0 t.tagCount v.tag.toNat ≤ 1 → t1.tags.getLsbD v.tag.toNat = true)) ∧
  (∀ (s : State) (t : Thread) (v : InvResult) (l : List Flight), s.results = [] → Arrives s (.invResult v) l →
    s.thread v.who.key = some t → t.ctxId = v.who.ctx →
    ∃ (u : State) (t1 : Thread), exec .invocationResult s = .next u ∧ SameMemory s u ∧ u.flits = l ∧
      u.thread v.who.key = some t1 ∧ (v.dst ≠ 0 → (v.dst.toNat, v.who.id) ∈ t.pending → t1.readG v.dst = v.value))

/-- R397, R398, R220: what a request does where it arrives: a load reads, with the bytes that the thread's own buffer
forwards; an atomic reads and writes as one action; a pooled read reads its bytes; a pooled store writes its masked
bytes and sets the sector as its kind says; each answers with one flit. A launch from a bridge reaches its device's
scheduler with its second flit, and a request to gate a graph is acknowledged (R355). R316: a request for memory that the
partition of its thread does not own performs nothing and is counted as a fence violation.
Readings and choices of the model that this rests on: log entries 3 and 18. -/
def Obligations.RequestsPerformAtTheirTarget : Prop :=
  (∀ (s : State) (w : AccId) (d : Reg) (fa n : Nat) (fwd : List (Option Byte)) (l : List Flight),
    Arrives s (.loadReq w d fa n fwd) l → fwd.length = n → n ≤ 8 →
    ∃ (u : State) (v : Dword), exec .loadRequest s = .next u ∧ SameMemory s u ∧
      u.flits = l ++
        [.of (.loadReply ⟨w, d, v, decide (s.sector (fa / 64) = .poisoned), poisonFlag s fa, addrDev fa, fa⟩) none] ∧
      v.toNat < 2 ^ (8 * n) ∧
      ∀ j, j < n → v.extractLsb' (8 * j) 8 = ((fwd[j]?).getD none).getD (s.byte (fa + j))) ∧
  (∀ (s : State) (w : AccId) (d : Reg) (fa n : Nat) (op : AmoOp) (a b : Dword) (l : List Flight),
    Arrives s (.atomicReq w d fa n op a b) l → (n = 4 ∨ (n = 8 ∧ op ≠ .fadd)) →
    let new := atomicNew op (8 * n) (s.readNat fa n) (a.toNat % 2 ^ (8 * n)) (b.toNat % 2 ^ (8 * n))
    ∃ (u : State) (fl : Dword), exec .atomicRequest s = .next u ∧ Stores s u fa n (BitVec.ofNat 64 new) ∧
      (∀ k, u.sector k = s.sector k) ∧
      u.flits = l ++
        [.of (.atomicReply ⟨w, d, valueAt s fa n, decide (s.sector (fa / 64) = .poisoned), fl, addrDev fa, fa⟩) none]) ∧
  (∀ (s : State) (k : Nat) (c : Dword) (ag : BitVec 3) (v fa n xf : Nat) (l : List Flight),
    Arrives s (.pooledReadReq k c ag v fa n xf) l →
    ∃ (u : State) (g : Dword), exec .pooledReadRequest s = .next u ∧ SameMemory s u ∧
      u.flits = l ++ [.of (.pooledReply k c ag v (s.bytes fa n) (decide (s.sector (fa / 64) = .poisoned)) (addrDev fa) fa g
        xf) none] ∧ (s.sector (fa / 64) ≠ .poisoned → g = 0)) ∧
  (∀ (s : State) (w : AccId) (e : CbEntry) (fill poison : Bool) (l : List Flight),
    Arrives s (.pooledStore w e.sector [e.bytes] fill poison false) l → s.dropDeadFills = s → EntryOk e →
    ∃ (u : State) (fl : Dword), exec .pooledDataFlit s = .next u ∧ EntryWritten s u e ∧
      u.flits = l ++ [.of (.storeAck w fl (addrDev (e.sector * 64)) (e.sector * 64) 1) none] ∧
      (∀ k, u.sector k = if k = e.sector ∧ poison then .poisoned else if k = e.sector ∧ fill then .full
        else s.sector k)) ∧
  (∀ (s : State) (v : Invocation) (l : List Flight), Arrives s (.invocation v) l →
    ∃ u : State, exec .invocation s = .next u ∧ SameMemory s u ∧ u.flits = l ∧ u.invocations = s.invocations ++ [v]) ∧
  (∀ (s : State) (r : LaunchRec) (src : Nat) (l : List Flight), Arrives s (.launch true r src) l →
    ∃ u : State, exec .schedulerMessage s = .next u ∧ SameMemory s u ∧ u.flits = l ∧
      u.arrivals = s.arrivals ++ [{ r with arrival := s.now }]) ∧
  (∀ (s : State) (rid tick src dst : Nat) (l : List Flight), Arrives s (.sched (.gate rid tick) src dst) l →
    ∃ u : State, exec .schedulerMessage s = .next u ∧ SameMemory s u ∧
      u.flits = l ++ [.of (.sched (.gateAck rid tick) dst src) none]) ∧
  (∀ (s : State) (v : Flight) (l : List Flight) (i : Instr), s.flits = v :: l → s.canArrive v = true →
    s.admits v v.flit.reach = false → (i = .loadRequest ∧ isLoadReq v.flit = true) ∨
      (i = .atomicRequest ∧ isAtomicReq v.flit = true) ∨ (i = .pooledReadRequest ∧ isPooledReadReq v.flit = true) ∨
      (i = .invocation ∧ isInvocation v.flit = true) →
    exec i s = .next (({ s with flits := l } : State).fenceViolation v.dev))

/-- R105, R136, R211: a waiting access that its sector's state lets act performs as its first issue would have, and its
thread goes on past the instruction; an entry of a combining buffer for the thread's own device writes its bytes, and its
store is performed. Neither happens in a region that does not act (R356).
Readings and choices of the model that this rests on: log entry 13. -/
def Obligations.WaitingAccessesPerform : Prop :=
  (∀ (s s1 : State) (i : Instr) (key sec : Nat) (t : Thread) (r : Region) (a : Access) (p : Place),
    s.thread key = some t → s.region t.rid = some r → WaitsForSector s i key sec t a → a.late = false → a.size ≤ 8 →
    (a.kind = .sync ∨ a.kind = .take ∨ a.kind = .fill) → t.cb = [] → t.outstanding = [] → s.goesOn key t = true →
    reach { s with parked := s.parked.filter fun c => c.2 != key } r t.super t.part t.rx t.ry a.va a.size a.size
      a.kind.walk = .at p s1 → p.addr / 64 = sec → addrDev p.addr = keyDev key → s1.unchecked sec = false →
    s1.inUse sec (fun _ => false) = false →
    (a.kind ≠ .fill → s1.sector sec = .full →
      ∃ (u : State) (t1 : Thread), exec i s = .next u ∧ (∀ b, u.byte b = s1.byte b) ∧
        u.sector sec = (if a.kind = .take then .empty else .full) ∧ u.thread key = some (t1.complete 4) ∧
        (∀ c ∈ u.parked, c.2 ≠ key) ∧ t1.pc = t.pc ∧
        ∀ q, t1.readG q = if q = a.dst ∧ q ≠ 0 then valueAt s1 p.addr a.size else t.readG q) ∧
    (a.kind = .fill → s1.sector sec ≠ .full →
      ∃ (u : State) (t1 : Thread), exec i s = .next u ∧ Stores s1 u p.addr a.size a.d1 ∧
        u.sector sec = .full ∧ u.thread key = some (t1.complete 4) ∧ (∀ c ∈ u.parked, c.2 ≠ key) ∧
        ∀ q, t1.readG q = t.readG q)) ∧
  (∀ (s : State) (key n : Nat) (t : Thread) (e : CbEntry), s.thread key = some t → t.cb[n]? = some e → EntryOk e →
    (t.cb.filter fun x => decide (x.id = e.id)) = [e] → s.goesOn key t = true → NotAway t e.id →
    (addrDev (e.sector * 64) = keyDev key → MayWrite s key t e →
      ∃ (u : State) (t1 : Thread), exec (.combiningBufferSend key n) s = .next u ∧ EntryWritten s u e ∧
        u.thread key = some t1 ∧ t1.cb = t.cb.filter (fun x => x.id != e.id) ∧
        TakesResult t t1 e.id 0 0 (poisonFlag s (e.sector * 64))) ∧
    (addrDev (e.sector * 64) ≠ keyDev key →
      ∃ (u : State) (t1 : Thread), exec (.combiningBufferSend key n) s = .next u ∧ SameMemory s u ∧
        u.flits = s.flits ++ [.of (.pooledStore ⟨key, t.ctxId, e.id⟩ e.sector [e.bytes] false false false) (s.partOf key)] ∧
        u.thread key = some t1 ∧ t1.cb = t.cb.filter (fun x => x.id != e.id) ∧ t1.outstanding = t.outstanding)) ∧
  (∀ (s : State) (key n : Nat) (t : Thread), s.thread key = some t → s.goesOn key t = false →
    exec (.combiningBufferSend key n) s = .next s ∧ exec (.parkedAccessRetry key) s = .next s)

/-- R112 to R114, R221, R222, R268: invoke sends its token, the value of g[d] and g[d+1] as arguments, counts its tag and
goes on with both result registers awaited. An entry that is not loaded or not the issuer's answers status 1; a subgraph
that fires more than 16 times answers status 2 and writes nothing; any other writes its words to the sector as one action
and answers with l0 and l1, and the access of its thread has then performed (R228).
Readings and choices of the model that this rests on: log entries 4 and 92. -/
def Obligations.InvocationsRun : Prop :=
  (∀ (s s1 : State) (t : Thread) (r : Region) (p : Place) (d a : Reg) (k e : BitVec 4) (sc : BitVec 2) (tag : BitVec 6),
    IssuesIn s t r → NothingOpen s t → t.tagFull tag = false →
    ReachesPlace s s1 t r ⟨.invoke e tag, t.readG a, 64, sc, k, d⟩ p → OnDevice s p →
    ∃ (u : State) (t1 : Thread), exec (.invoke d a k sc e tag) s = .next u ∧ SameMemory s1 u ∧
      u.invocations = s1.invocations ++ [⟨p.addr, saddleUnit p.addr r.launch.part, e.toNat, ⟨s.cur, t.ctxId, t.nextId⟩, d, tag,
        t.readG d, t.readG (d + 1)⟩] ∧
      u.thread s.cur = some (t1.complete 4) ∧ t1.outstanding = [t.nextId] ∧
      (d ≠ 0 → (d.toNat, t.nextId) ∈ t1.pending) ∧ (d + 1 ≠ 0 → d.toNat ≠ 31 → (d.toNat + 1, t.nextId) ∈ t1.pending) ∧
      SMap.get 0 t1.tagCount tag.toNat = SMap.get 0 t.tagCount tag.toNat + 1 ∧
      t1.tags.getLsbD tag.toNat = false ∧ (∀ q, t1.readG q = t.readG q) ∧ t1.energy = charged s t 7) ∧
  (∀ (s : State) (v : Invocation) (l : List Invocation), s.invocations = v :: l → s.canRun v = true →
    let ws := SMap.get [] s.saddles (v.unitKey * 16 + v.entry)
    let free : Word := (Config.freeValue s.freeDraws).setWidth 32
    (ws = [] ∨ v.owned = false →
      ∃ u : State, exec .saddleRun s = .next u ∧ SameMemory s u ∧ u.invocations = l ∧
        ResultLeaves s u v ⟨v.who, v.dst, v.tag, 0, 1, 0, v.target⟩) ∧
    (ws ≠ [] → v.owned = true → Machine.saddleRun ws (s.sectorWords v.target) free v.arg0 v.arg1 = none →
      ∃ u : State, exec .saddleRun s = .next u ∧ SameMemory s u ∧ u.invocations = l ∧
        ResultLeaves s u v ⟨v.who, v.dst, v.tag, 0, 2, 0, v.target⟩) ∧
    (∀ x, ws ≠ [] → v.owned = true → Machine.saddleRun ws (s.sectorWords v.target) free v.arg0 v.arg1 = some x →
      v.target % 64 = 0 → s.sector (v.target / 64) ≠ .poisoned →
      ∃ u : State, exec .saddleRun s = .next u ∧ (∀ k, u.sector k = s.sector k) ∧ u.invocations = l ∧
        ResultLeaves s u v ⟨v.who, v.dst, v.tag, x.regs.getD 1 0 ++ x.regs.getD 0 0, 0, x.flags, v.target⟩ ∧
        (∀ t, s.thread v.who.key = some t → t.ctxId = v.who.ctx → NotAway t v.who.id →
          ∃ t1, u.thread v.who.key = some t1 ∧ v.who.id ∉ t1.outstanding) ∧
        (SMap.wf none x.writes = true → (∀ c ∈ x.writes, c.1 < 16) →
          (∀ a, a / 64 ≠ v.target / 64 → u.byte a = s.byte a) ∧
          ∀ j, j < 16 → (u.sectorWords v.target)[j]? = match SMap.get none x.writes j with
            | some w => some w
            | none => (s.sectorWords v.target)[j]?)))

/-! Streams, configuration, launches and the array as a thread commands them: the words of the statements. -/

namespace Sys2Proof.Claims

open Sys2Proof.Machine

/-- The instruction completes: its slot is left as `y`, its thread as `t1` past the word, and nothing else of the slots,
the threads or memory changes. -/
def SlotDone (i : Instr) (s : State) (t1 : Thread) (cls : Nat) (y : Slot) : Prop :=
  ∃ u : State, exec i s = .next u ∧ SameMemory s u ∧ u.slot s.cur = y ∧
    (∀ k, k ≠ s.cur → u.slot k = s.slot k ∧ u.thread k = s.thread k) ∧
    u.thread s.cur = some ((t1.chargeIssue s.curDevice cls).complete 4)

/-- TCAUSE of a trap with ARG (R350). -/
def causeArg (c arg : Nat) : Nat := c + arg % 2 ^ 16 * 2 ^ 16

/-- No access of the thread is outstanding, its combining buffer is empty, and ag0 holds nothing. -/
def Settled (t : Thread) : Prop := t.held = .none ∧ t.outstanding = [] ∧ t.cb = []

/-- A count of a stream command (R243): 0, or 2^32 and more, asks for the rest of the nest. -/
def streamCount (v : Nat) : Nat := if v = 0 ∨ 2 ^ 32 ≤ v then 2 ^ 128 else v

/-- The status word of a link-queue endpoint (R253). -/
def queueStatus (e : Queue) : Nat :=
  if e.bound then
    (if e.ingress then (e.slots.filter Option.isSome).length else e.awaiting.length) % 32 +
      (if e.eos then 2 ^ 5 else 0) + (if e.replay then 2 ^ 6 else 0) + (if e.ingress then 2 ^ 7 else 0) +
      e.dm1.toNat * 2 ^ 8 + 2 ^ 12 + e.lastBytes * 2 ^ 16 + e.groups % 2 ^ 32 * 2 ^ 32
  else 0

/-- A configuration block at `va` has been read: the state after the loads, its words and records, and their flags (R248). -/
def BlockIs (s s2 : State) (t : Thread) (r : Region) (va : Dword) (ws : List Word) (rs : List CfgRecord) (fl : Dword) :
    Prop :=
  va.toNat % 64 = 0 ∧ ∃ (h bs : List Byte) (f0 f1 : Dword) (s1 : State), readWords s r t va 1 = .bytes h f0 s1 ∧
    field h 2 2 = 0 ∧ field h 0 2 ≤ 4096 ∧ readRecords s1 r t (va + 4) (field h 0 2) = .bytes bs f1 s2 ∧
    ws = wordsOf bs (bs.length / 4) ∧ cfgRecords (field h 0 2) ws = some rs ∧ fl = f0 ||| f1

/-- The staging buffer of the current thread's tile is free for its slot, or holds that slot's set, not yet switching. -/
def StagingFree (s : State) : Prop :=
  ∀ st, SMap.get none s.staging (keyTile s.cur) = some st → st.slot = keySlot s.cur ∧ st.switching = false

end Sys2Proof.Claims

/-- R232, R240: bind of an idle context binds a program of the right shape to its port, stopped at its start, and
counts its tag; a program of another shape or direction ends the graph with the binding cause; unbind of an idle
context unbinds it; both wait while it is not idle. R235, R241, R242, R265: tctl.start sets a bound context back to
its first visit, or starts another engine at an index with the thread's SR_SEED as its key (a KONST word there is
malformed); stop and resume change only whether the engine runs; base sets a context's base for later commands; stat
reads the status word. A context that is not bound is a binding trap, but reads as 0.
Readings and choices of the model that this rests on: log entries 22 and 33. -/
def Obligations.ContextsAndEnginesObeyControl : Prop :=
  (∀ (s : State) (t : Thread) (ag : BitVec 3) (port prog : BitVec 5) (tv : BitVec 1) (g : BitVec 6), Issues s t →
     let x := s.slot s.cur
     (x.agIdle ag = true → nestFits (nestAt x.words ag.toNat prog.toNat) port.toNat = true → (tv = 1 → t.tagFull g = false) →
       SlotDone (.bind ag port prog tv g) s (if tv = 1 then t.countTag g else t) 9
         (x.setAg ag.toNat { bound := true, port := port, prog := prog, tag := if tv = 1 then some g else none })) ∧
     (x.agIdle ag = true → nestFits (nestAt x.words ag.toNat prog.toNat) port.toNat = false →
       EndsGraph (.bind ag port prog tv g) s t (causeArg 5 ag.toNat)) ∧
     (x.agIdle ag = true → SlotDone (.unbind ag) s t 9 (x.setAg ag.toNat {})) ∧
     (x.agIdle ag = false → StallsAt (.bind ag port prog tv g) s t ∧ WaitsAt (.unbind ag) s t 9)) ∧
  (∀ (s : State) (t : Thread) (e : BitVec 4) (ag : BitVec 3) (i : BitVec 3) (q : Reg), Issues s t →
     let x := s.slot s.cur
     let c := x.ag e.toNat
     (e.toNat < 8 → c.bound = true →
       (c.combSector = none → SlotDone (.tctlStart e i) s t 9 (x.setAg e.toNat
         { c with n := 0, done := 0, chunk := 0, partialBytes := [], partialPoison := false, taken := [], waiting := false,
                  skip := 0, sent := 0, stopped := false })) ∧
       SlotDone (.tctlStop e) s t 9 (x.setAg e.toNat { c with stopped := true }) ∧
       SlotDone (.tctlResume e) s t 9 (x.setAg e.toNat { c with stopped := false })) ∧
     (e.toNat < 8 → c.bound = false → EndsGraph (.tctlStart e i) s t (causeArg 5 e.toNat) ∧
       EndsGraph (.tctlStop e) s t (causeArg 5 e.toNat) ∧ EndsGraph (.tctlResume e) s t (causeArg 5 e.toNat)) ∧
     (8 ≤ e.toNat →
       (∀ l, e.toNat < 12 → x.konstLane (e.toNat - 8) i.toNat = some l →
         EndsGraph (.tctlStart e i) s t (causeArg 4 (malformedArg (1, l, i.toNat)))) ∧
       (12 ≤ e.toNat ∨ x.konstLane (e.toNat - 8) i.toNat = none →
         ∃ y, SlotDone (.tctlStart e i) s t 9 y ∧ y.engine e.toNat = { running := true, idx := i, key := t.srSeed } ∧
           (e.toNat < 12 → ∀ l, l < 64 → (y.lane (64 * (e.toNat - 8) + l)).ptr = decide (i = 1) ∧
             (y.lane (64 * (e.toNat - 8) + l)).fresh = true)) ∧
       SlotDone (.tctlStop e) s t 9 { x with engines := SMap.put {} x.engines e.toNat { x.engine e.toNat with running := false } } ∧
       SlotDone (.tctlResume e) s t 9
         { x with engines := SMap.put {} x.engines e.toNat { x.engine e.toNat with running := true } }) ∧
     ((x.ag ag.toNat).bound = true →
       SlotDone (.tctlBase ag q) s t 9 (x.setAg ag.toNat { x.ag ag.toNat with base := t.readG q })) ∧
     ((x.ag ag.toNat).bound = false → EndsGraph (.tctlBase ag q) s t (causeArg 5 ag.toNat)) ∧
     (e.toNat < 8 → c.bound = false → ∃ t1 : Thread, Finishes (.tctlStat e q) s t1 4 ∧ WritesG s t t1 q 0 9) ∧
     (e.toNat < 8 → c.bound = true → ∃ (t1 : Thread) (v : Dword), Finishes (.tctlStat e q) s t1 4 ∧ WritesG s t t1 q v 9 ∧
       (v.toNat % 4 = if c.fault then 3 else if x.named c.port.toNat (e.setWidth 3) then 2 else 1) ∧
       v.getLsbD 2 = c.stopped ∧ v.toNat / 2 ^ 8 % 2 ^ 5 = c.port.toNat) ∧
     (8 ≤ e.toNat → ∃ (t1 : Thread) (v : Dword), Finishes (.tctlStat e q) s t1 4 ∧ WritesG s t t1 q v 9 ∧
       v.getLsbD 0 = (x.engine e.toNat).running ∧ v.getLsbD 1 = x.engineEmpty e.toNat))

/-- R129, R239, R243, R244, R246: a stream command joins the end of its port's scoreboard with its count, the base of its
context and the accesses that go before it, all that have not performed but the stores that the combining buffer still
holds; a drain appends its marker to the port, drain.slot to every source port, and
counts its tag. A full scoreboard makes them wait; and once an event of R136 has occurred in the thread, a stream command waits
until each entry that it sent has been performed, which is the model's reading of R136 (log entry 95).
Readings and choices of the model that this rests on: log entry 95. -/
def Obligations.StreamCommandsQueue : Prop :=
  ∀ (s : State) (t : Thread) (ag : BitVec 3) (q : Reg) (n : BitVec 16) (port g : BitVec 6), Issues s t →
    let x := s.slot s.cur
    let c := x.ag ag.toNat
    let p := c.port.toNat
    let cmd (k : Nat) : SbEntry := .cmd ag k c.base (t.outstanding.filter fun j => t.cb.all fun e => e.id != j)
    let queued (k : Nat) : Slot := x.setEntries p (x.entries p ++ [cmd k])
    (c.bound = false → EndsGraph (.strm ag q) s t (causeArg 5 ag.toNat) ∧ EndsGraph (.strmI ag n) s t (causeArg 5 ag.toNat)) ∧
    (c.bound = true → 16 ≤ (x.entries p).length → WaitsAt (.strm ag q) s t 9 ∧ WaitsAt (.strmI ag n) s t 9) ∧
    (c.bound = true → (x.entries p).length < 16 → t.synced = true → t.cb = [] →
      (∃ j ∈ t.fstores, j ∈ t.outstanding ∧ ∀ a ∈ t.pool, a.id ≠ j) → WaitsAt (.strm ag q) s t 9 ∧ WaitsAt (.strmI ag n) s t 9) ∧
    (c.bound = true → (x.entries p).length < 16 →
      (t.synced = false ∨ (t.cb = [] ∧ ∀ j ∈ t.fstores, j ∈ t.outstanding → ∃ a ∈ t.pool, a.id = j)) →
      ((∀ e, (x.entries p ++ [cmd (streamCount (t.readG q).toNat)]).head? = some e → x.ended p e = false) →
        SlotDone (.strm ag q) s t 9 (queued (streamCount (t.readG q).toNat))) ∧
      ((∀ e, (x.entries p ++ [cmd (streamCount n.toNat)]).head? = some e → x.ended p e = false) →
        SlotDone (.strmI ag n) s t 9 (queued (streamCount n.toNat)))) ∧
    (t.tagFull g = false → (x.entries port.toNat).length < 16 →
      SlotDone (.drain port g) s (t.countTag g) 9
        { x.setEntries port.toNat (x.entries port.toNat ++ [.drain x.nextDrain]) with
          nextDrain := x.nextDrain + 1, drains := x.drains ++ [⟨x.nextDrain, g, 1, false⟩] }) ∧
    (t.tagFull g = false → 16 ≤ (x.entries port.toNat).length → WaitsAt (.drain port g) s t 9) ∧
    (t.tagFull g = false → (∀ k ∈ sourcePorts, (x.entries k).length < 16) →
      ∃ y, SlotDone (.drainSlot g) s (t.countTag g) 9 y ∧ y.drains = x.drains ++ [⟨x.nextDrain, g, 12, true⟩] ∧
        ∀ k, y.entries k = if k ∈ sourcePorts then x.entries k ++ [.drain x.nextDrain] else x.entries k)

/-- R247 to R249: a block that passes its checks is written to the tables as one action once its instances are quiescent; a
staged block goes to the tile's staging buffer; cfg.sw makes the nodes that a marker must reach wait for it and counts its
tag, and without a staged set it is malformed.
Readings and choices of the model that this rests on: log entries 18, 97, 98, 108 and 109. -/
def Obligations.ConfigurationInstructionsAct : Prop :=
  (∀ (s s2 : State) (t : Thread) (r : Region) (q : Reg) (ws : List Word) (rs : List CfgRecord) (fl : Dword) (m : SMap Word),
    IssuesIn s t r → BlockIs s s2 t r (t.readG q) ws rs fl →
    (Settled t → cfgCheck s2.curSlot.words s2.curSlot.queues [0, 1, 2, 3, 4, 5] rs = .inl m →
      (∀ c ∈ rs, ∀ n ∈ c.units, s2.curSlot.quiescent c.kind n = true) →
      ∃ (u : State) (t1 : Thread), exec (.cfgLd q) s = .next u ∧ SameMemory s2 u ∧ (u.slot s2.cur).words = m ∧
        (u.slot s2.cur).ags = s2.curSlot.ags ∧ (u.slot s2.cur).edges = s2.curSlot.edges ∧
        u.thread s2.cur = some (t1.complete 4) ∧ ∀ k, t1.readG k = t.readG k) ∧
    (t.held = .none → t.acquiring = [] →
      cfgCheck s2.curSlot.words s2.curSlot.queues [1, 2, 3, 4, 5] rs = .inl m → StagingFree s2 →
      ∃ (u : State) (t1 : Thread), exec (.cfgStage q) s = .next u ∧ SameMemory s2 u ∧
        (∀ k, u.slot k = s2.slot k) ∧
        SMap.get none u.staging (keyTile s2.cur) =
          some ⟨keySlot s2.cur, BitVec.ofNat 32 rs.length :: ws, false⟩ ∧
        u.thread s2.cur = some (t1.complete 4) ∧ ∀ k, t1.readG k = t.readG k)) ∧
  (∀ (s : State) (t : Thread) (g : BitVec 6) (st : Staging), Issues s t →
    SMap.get none s.staging (keyTile s.cur) = some st → st.slot = keySlot s.cur → st.switching = false →
    t.tagFull g = false → (∀ k ∈ sourcePorts, ((s.slot s.cur).entries k).length < 16) →
    (s.slot s.cur).drains = [] → (s.slot s.cur).arms = [] → (∃ n, n < 521 ∧ (s.slot s.cur).hasInput n = true) →
    ∃ (u : State) (t1 : Thread), exec (.cfgSw g) s = .next u ∧ SameMemory s u ∧ (u.slot s.cur).eocTag = some g ∧
      (∀ n, n ∈ (u.slot s.cur).eocLeft ↔ n < 521 ∧ (s.slot s.cur).hasInput n = true) ∧
      SMap.get none u.staging (keyTile s.cur) = some { st with switching := true } ∧
      u.thread s.cur = some (t1.complete 4) ∧
      t1.tagCount = SMap.put 0 t.tagCount g.toNat (SMap.get 0 t.tagCount g.toNat + 1)) ∧
  (∀ (s : State) (t : Thread) (g : BitVec 6), Issues s t → SMap.get none s.staging (keyTile s.cur) = none →
    EndsGraph (.cfgSw g) s t (causeArg 4 (malformedArg (0, 0, 0))))

/-- R52, R138, R253 to R255: launch passes the record that its 64 bytes hold to the scheduler, for a graph of level U (R308), and counts the record's
tag; exit ends its thread once its accesses have performed; yield sets YIELDED; lq.stat reads an endpoint's status word. -/
def Obligations.ThreadsLaunchYieldAndExit : Prop :=
  (∀ (s s1 : State) (t : Thread) (r : Region) (q : Reg) (bs : List Byte) (fl : Dword), IssuesIn s t r → Settled t →
    (t.readG q).toNat % 64 = 0 → readBlock s r t (t.readG q) 8 = .bytes bs fl s1 →
    let l := launchOf bs (keyDev s1.cur) r.launch.part false t.super none (some (s1.cur, t.ctxId)) s1.now s1.nextLaunch
    let tag : BitVec 6 := BitVec.ofNat 6 l.tagByte
    (bitOf l.tagByte 7 = true → t.tagFull tag = false) → s1.queueFull l.dev l.part l.prio = false →
    ∃ (u : State) (t1 : Thread), exec (.launch q) s = .next u ∧ SameMemory s1 u ∧ u.arrivals = s1.arrivals ++ [l] ∧
      u.nextLaunch = s1.nextLaunch + 1 ∧ u.thread s1.cur = some (t1.complete 4) ∧
      t1.tagCount = (if bitOf l.tagByte 7 then SMap.put 0 t.tagCount tag.toNat (SMap.get 0 t.tagCount tag.toNat + 1)
        else t.tagCount)) ∧
  (∀ (s : State) (t : Thread), Issues s t →
    (Settled t → ∃ u : State, exec .exit s = .next u ∧ OnlyIssuer s u ∧
      u.thread s.cur = some { (t.chargeIssue s.curDevice 9).complete 4 with status := .exited, resident := false }) ∧
    Finishes .yield s ({ t with yielded := true }.chargeIssue s.curDevice 9) 4) ∧
  (∀ (s : State) (t : Thread) (q : Reg) (n : BitVec 3), Issues s t →
    ∃ t1 : Thread, Finishes (.lqStat q n) s t1 4 ∧
      WritesG s t t1 q (BitVec.ofNat 64 (queueStatus ((s.slot s.cur).queue n.toNat))) 9)

/-- R273, R284 to R286: marm arms an order that is in the table for a count of firings; mfence, acc.clr and acc.hold wait for
the orders that name an accumulator of their mask, and clr leaves each of them zero, open and not poisoned, hold makes
them held; acc.stat reads their bits, acc.rd one element. -/
def Obligations.ArrayInstructionsAct : Prop :=
  (∀ (s : State) (t : Thread) (v : BitVec 1) (i : BitVec 3) (g : BitVec 6) (n : BitVec 10), Issues s t →
    let x := s.slot s.cur
    (arrayOrder (x.word 5 0 i.toNat) = none → EndsGraph (.marm v i g n) s t (causeArg 4 (malformedArg (5, 0, i.toNat)))) ∧
    ((arrayOrder (x.word 5 0 i.toNat)).isSome = true → (x.armed i).isSome = true → StallsAt (.marm v i g n) s t) ∧
    ((arrayOrder (x.word 5 0 i.toNat)).isSome = true → x.armed i = none → (v = 1 → t.tagFull g = false) →
      SlotDone (.marm v i g n) s (if v = 1 then t.countTag g else t) 10
        { x with arms := x.arms ++ [⟨i, if n = 0 then none else some n.toNat, 0, if v = 1 then some g else none, 0, false⟩] })) ∧
  (∀ (s : State) (t : Thread) (m : BitVec 4), Issues s t →
    let x := s.slot s.cur
    ((∃ n, n < 4 ∧ m.getLsbD n = true ∧ x.accArmed n = true) →
      WaitsAt (.mfence m) s t 10 ∧ WaitsAt (.accClr m) s t 10 ∧ WaitsAt (.accHold m) s t 10) ∧
    ((∀ n, n < 4 → m.getLsbD n = true → x.accArmed n = false) →
      SlotDone (.mfence m) s t 10 x ∧
      (∃ y, SlotDone (.accClr m) s t 10 y ∧
        (∀ n j, n < 4 → j < 4096 → SMap.get 0 y.acc (n * 4096 + j) =
          if m.getLsbD n then 0 else SMap.get 0 x.acc (n * 4096 + j)) ∧
        ∀ n, n < 4 → y.accSt n = if m.getLsbD n then {} else x.accSt n) ∧
      ∃ y, SlotDone (.accHold m) s t 10 y ∧ y.acc = x.acc ∧
        ∀ n, n < 4 → y.accSt n = if m.getLsbD n then { x.accSt n with held := true } else x.accSt n)) ∧
  (∀ (s : State) (t : Thread) (q : Reg) (n : BitVec 2), Issues s t →
    let x := s.slot s.cur
    (∃ (t1 : Thread) (v : Dword), Finishes (.accStat q) s t1 4 ∧ WritesG s t t1 q v 10 ∧ v.toNat < 2 ^ 12 ∧
      ∀ k, k < 4 → v.getLsbD k = (x.accSt k).held ∧ v.getLsbD (4 + k) = (x.accSt k).p ∧ v.getLsbD (8 + k) = x.accArmed k) ∧
    (x.accArmed n.toNat = true → WaitsAt (.accRd q n) s t 10) ∧
    (x.accArmed n.toNat = false → ∃ t1 : Thread, Finishes (.accRd q n) s t1 4 ∧
      WritesGFlags s t t1 q ((SMap.get 0 x.acc (n.toNat * 4096 + (t.readG q).toNat / 256 % 64 * 64 +
        (t.readG q).toNat % 64)).setWidth 64) (if (x.accSt n.toNat).p then 0x40 else 0) 10))

/-! The datapath of a slot, its streams, its array and its queues: the words of the statements. -/

namespace Sys2Proof.Claims

open Sys2Proof.Machine

/-- Slot `x` of thread key `key` may act: its thread `t` and region `r` are there, the region is resident and not past its
gate tick (R368), and the module is up. -/
def Acts (s : State) (key : Nat) (t : Thread) (r : Region) (x : Slot) : Prop :=
  s.thread key = some t ∧ s.region t.rid = some r ∧ r.acts s.now = true ∧ (s.device (keyDev key)).module = .up ∧
    s.slot key = x

/-- The slot has been left as `y`, but for what ends with the event: drains, orders and a switch (R246, R249, R284). -/
def SlotLeft (u : State) (key : Nat) (y : Slot) : Prop :=
  { u.slot key with drains := y.drains, arms := y.arms, eocTag := y.eocTag } = y

/-- The event leaves slot `key` as `y`, and memory and every other slot as they were. -/
def Leaves (i : Instr) (s : State) (key : Nat) (y : Slot) : Prop :=
  ∃ u : State, exec i s = .next u ∧ SameMemory s u ∧ SlotLeft u key y ∧ ∀ k, k ≠ key → u.slot k = s.slot k

/-- A data token with V = 1. -/
def validData (k : Token) : Prop := k.kind = .data ∧ k.v = true

/-- The bytes [a, a + bs.length) of `u` are `bs`, and every other byte is as in `s`. -/
def BytesWritten (s u : State) (a : Nat) (bs : List Byte) : Prop :=
  ∀ b, u.byte b = if a ≤ b ∧ b < a + bs.length then bs.getD (b - a) 0 else s.byte b

/-- The outputs of mask `m` of node `n` are empty, and none of them is one of the inputs `ins`. -/
def OutputsFree (x : Slot) (n m : Nat) (ins : List Nat) : Prop :=
  (∀ e ∈ boxEdges n m, x.used e = 0) ∧ ∀ i ∈ ins, boxInput n i ∉ boxEdges n m

/-- The heads of inputs `ins` of node `n` have been taken, and token `k` stands on each output of mask `m`. -/
def Moves (x y : Slot) (n : Nat) (ins : List Nat) (m : Nat) (k : Token) : Prop :=
  (∀ i ∈ ins, y.edge (boxInput n i) = (x.edge (boxInput n i)).drop 1) ∧ ∀ e ∈ boxEdges n m, y.edge e = [k]

/-- The head of one input has been taken, and no other buffer has changed. -/
def Takes (x y : Slot) (n i : Nat) : Prop :=
  y.edge (boxInput n i) = (x.edge (boxInput n i)).drop 1 ∧ ∀ e, e ≠ boxInput n i → y.edge e = x.edge e

/-- The input whose token box `n` takes next: the control token of a block, or what it governs (R271). -/
def nextInput (f : BoxWord) (b : Box) : Nat :=
  match f.op with
  | .steer | .filter => if b.left = 0 then f.ib else f.ia
  | .omerge => if b.left = 0 then f.ctl else if b.sel then f.ia else f.ib
  | .carry => if b.looping then f.ctl else f.ia
  | .inv => if b.hold.isSome then f.ib else f.ia
  | _ => f.ia

/-- The outputs that a governed token goes to (R271). -/
def governedOut (f : BoxWord) (b : Box) : Nat :=
  match f.op with
  | .steer => if b.sel then f.out0 else f.out1
  | .filter => if b.sel then f.out0 else 0
  | _ => f.out0

/-- Lane `l` is the one of which the consumer of outside `c` takes next, data token `k`: the first in cyclic order, from the
lane whose turn it is, that does not hold a marker (R258). -/
def TakesNext (x : Slot) (c l : Nat) (k : Token) : Prop :=
  l ∈ x.writers c ∧ x.headEdge (edgeEout l) = some k ∧ k.kind = .data ∧
  ∀ j ∈ x.writers c, (let turn := SMap.get 0 x.takeNext c
      (turn ≤ l ∧ turn ≤ j ∧ j < l) ∨ (l < turn ∧ (turn ≤ j ∨ j < l))) →
    ∃ m, x.headEdge (edgeEout j) = some m ∧ m.kind ≠ .data

/-- Every lane that writes outside `c` has marker `m` at its head, or one of the same kind (R258). -/
def AllHold (x : Slot) (c : Nat) (m : Token) : Prop :=
  m.kind ≠ .data ∧ (x.writers c).head?.bind (fun l => x.headEdge (edgeEout l)) = some m ∧
  ∀ l ∈ x.writers c, ∃ k, x.headEdge (edgeEout l) = some k ∧ k.kind = m.kind

/-- One token has left the E-out edge of each lane of a list. -/
def LeavesEdges (x y : Slot) (ls : List Nat) : Prop :=
  ∀ l ∈ ls, y.edge (edgeEout l) = (x.edge (edgeEout l)).drop 1

/-- The head command of a bound, running source or sink context that may act on its own, with its program. -/
def HeadCommand (s : State) (key : Nat) (ag : BitVec 3) (n : Nest) (left : Nat) (base : Dword) (rest : List SbEntry) : Prop :=
  let x := s.slot key
  let c := x.ag ag.toNat
  c.bound = true ∧ c.stopped = false ∧ c.fault = false ∧ c.waiting = false ∧ c.idle = false ∧ x.nest ag.toNat = some n ∧
    x.entries c.port.toNat = .cmd ag left base [] :: rest

end Sys2Proof.Claims

/-- R259 to R261, R264, R267: a lane whose named edges all hold valid data tokens takes them and puts the result of its
operation on Z, writes its register if it names one, and moves its pointer; a token with V = 0 among them makes the
result V = 0 and nothing else. That NXT 1 or 2 moves the pointer of a lane that an earlier word has moved by `once` too, where
R259 says that the pointer stays, is the model's choice (log entry 96): the other word's own NXT acts again. R261 to R263:
integer operations wrap and raise nothing, relu passes a value above zero, fmin and fmax give one of two numbers, and i2f, f2i
and dcv are exact where the value fits.
Readings and choices of the model that this rests on: log entries 96 and 112. -/
def Obligations.LanesFire : Prop :=
  (∀ (s : State) (key : Nat) (t : Thread) (r : Region) (x : Slot) (lane : BitVec 8) (f : LaneWord), Acts s key t r x →
    let l := lane.toNat
    let ln := x.lane l
    (x.engine (8 + l / 64)).running = true → x.laneAt l = some f → f.fires = true → f.wz = true → f.op.isRegister = false →
    x.edge (edgeZ l) = [] → (∀ e ∈ f.edges, ∃ k, x.headEdge (laneEdge l e) = some k ∧ k.kind = .data) →
    let res := laneAlu f.op (x.laneOperand l f f.sa).1 (x.laneOperand l f f.sb).1 (ln.reg f.ld) f.fmt
      (ln.mode f.rnd (x.engine (8 + l / 64)).key) f.sat
    ∃ (y : Slot) (k : Token), Leaves (.laneFire key lane) s key y ∧ y.edge (edgeZ l) = [k] ∧ k.kind = .data ∧
      (∀ e ∈ f.edges, y.edge (laneEdge l e) = (x.edge (laneEdge l e)).drop 1) ∧
      (y.lane l).ptr = (if f.nxt = 1 ∨ f.nxt = 2 then !ln.ptr else ln.ptr) ∧
      ((∀ e ∈ f.edges, ∃ k, x.headEdge (laneEdge l e) = some k ∧ k.v = true) →
        k.v = true ∧ k.data = res.1 ∧ (f.wl = true → f.ld < 4 → (y.lane l).reg f.ld = res.1)) ∧
      ((∃ e ∈ f.edges, ∃ k, x.headEdge (laneEdge l e) = some k ∧ k.v = false) →
        k.v = false ∧ k.data = 0 ∧ { y.lane l with ptr := ln.ptr } = ln)) ∧
  (∀ (a b acc : Word) (fmt : Nat) (m : Rmode) (sat : Bool),
    let z (op : LaneOp) : Word × Dword := laneAlu op a b acc fmt m sat
    let n := b.toNat % 32
    z .iadd = (BitVec.ofInt 32 (a.toInt + b.toInt), 0) ∧ z .isub = (BitVec.ofInt 32 (a.toInt - b.toInt), 0) ∧
    z .imul = (BitVec.ofInt 32 (a.toInt * b.toInt), 0) ∧ z .riadd = (BitVec.ofInt 32 (acc.toInt + a.toInt), 0) ∧
    z .imin = (BitVec.ofInt 32 (min a.toInt b.toInt), 0) ∧ z .imax = (BitVec.ofInt 32 (max a.toInt b.toInt), 0) ∧
    z .ieq = (if a.toInt = b.toInt then 1 else 0, 0) ∧ z .ilt = (if a.toInt < b.toInt then 1 else 0, 0) ∧
    z .shl = (BitVec.ofNat 32 (a.toNat * 2 ^ n), 0) ∧ z .shr = (BitVec.ofNat 32 (a.toNat / 2 ^ n), 0) ∧
    z .sra = (BitVec.ofInt 32 (a.toInt / 2 ^ n), 0) ∧ z .mov = (a, 0) ∧
    (z .relu).2 = 0 ∧ ((fp32.value a.toNat).isNan = true → (z .relu).1 = 0x7FC00000#32) ∧
    (XR.lt .zero (fp32.value a.toNat) = true → (z .relu).1 = a) ∧
    ((fp32.value a.toNat).isNan = false → XR.lt .zero (fp32.value a.toNat) = false → (z .relu).1 = 0) ∧
    ((fp32.value a.toNat).isNan = false → (fp32.value b.toNat).isNan = false →
      ((z .fmin).1 = a ∨ (z .fmin).1 = b) ∧ ((z .fmax).1 = a ∨ (z .fmax).1 = b) ∧
      XR.lt (fp32.value a.toNat) (fp32.value (z .fmin).1.toNat) = false ∧
      XR.lt (fp32.value b.toNat) (fp32.value (z .fmin).1.toNat) = false ∧
      XR.lt (fp32.value (z .fmax).1.toNat) (fp32.value a.toNat) = false ∧
      XR.lt (fp32.value (z .fmax).1.toNat) (fp32.value b.toNat) = false) ∧
    (a.toInt.natAbs ≤ 2 ^ 24 → (z .i2f).2 = 0 ∧
      XR.eqv (fp32.value (z .i2f).1.toNat) (.ofInt a.toInt) = true ∧ laneAlu .f2i (z .i2f).1 b acc fmt m sat = (a, 0)) ∧
    (1 ≤ fmt → fmt ≤ 7 → (z .dcv).2 = 0 ∧ ((elementValue fmt a.toNat).isNan = false →
      fp32.value (z .dcv).1.toNat = elementValue fmt a.toNat)))

/-- R258, R260, R265, R266, R269 to R272, R294, R298: where its tokens and the room behind it let a lane at EOS, a block
group, a box or a distributor act, the event is exactly that action; a group sum or maximum puts the same word on all 32
lanes; a route box passes the head of its input to every output of its mask. R271: which token leaves which input of a pair,
steer, omerge, filter, carry, inv or seq box, on which outputs it stands then, and what the box keeps. The count token of seq
is valid whatever the block's first token is, by the model's choice (log entry 115).
Readings and choices of the model that this rests on: log entries 36 and 115. -/
def Obligations.CollarActs : Prop :=
  (∀ (s : State) (key : Nat) (t : Thread) (r : Region) (x : Slot), Acts s key t r x →
    (∀ (lane : BitVec 8) (f : LaneWord) (k : Token), (x.engine (8 + lane.toNat / 64)).running = true →
      x.laneAt lane.toNat = some f → f.fires = true → f.wz = true → f.op.isRegister = false → f.op.isGroup = false →
      x.edge (edgeZ lane.toNat) = [] → k.kind = .eos → (∀ e ∈ f.edges, x.headEdge (laneEdge lane.toNat e) = some k) →
      ∃ y, Leaves (.laneEos key lane) s key y ∧ y.edge (edgeZ lane.toNat) = [k] ∧
        (∀ e ∈ f.edges, y.edge (laneEdge lane.toNat e) = (x.edge (laneEdge lane.toNat e)).drop 1) ∧
        (y.lane lane.toNat).ptr = decide ((x.engine (8 + lane.toNat / 64)).idx = 1)) ∧
    (∀ (g : BitVec 3) (f : LaneWord) (ks : List Token), (x.engine (8 + g.toNat / 2)).running = true →
      x.groupAt g.toNat = some f → (f.op = .gsum ∨ f.op = .gmax) → ks.length = 32 →
      (∀ j, j < 32 → x.headEdge (edgeX (32 * g.toNat + j)) = ks[j]? ∧ x.edge (edgeZ (32 * g.toNat + j)) = []) →
      (∀ k ∈ ks, validData k) →
      ∃ y w, Leaves (.groupFire key g) s key y ∧
        (f.op = .gmax → w = BitVec.ofNat 32 (groupMax (ks.map Token.data))) ∧
        ∀ j, j < 32 → y.edge (edgeX (32 * g.toNat + j)) = (x.edge (edgeX (32 * g.toNat + j))).drop 1 ∧
          ∃ k, y.edge (edgeZ (32 * g.toNat + j)) = [k] ∧ k.data = w ∧ validData k) ∧
    (∀ (n : Nat) (f : BoxWord) (k : Token), n < 256 → (x.engine (8 + n / 64)).running = true → x.boxOf n = some f →
      f.op = .route → x.headInput n f.ia = some k → k.kind ≠ .eoc → x.eocTag = none →
      boxInput n f.ia ∉ boxEdges n f.out0 → (∀ e ∈ boxEdges n f.out0, x.edge e = []) →
      ∃ y, Leaves (.switchBoxFire key n) s key y ∧ (∀ e ∈ boxEdges n f.out0, y.edge e = [k]) ∧
        y.edge (boxInput n f.ia) = (x.edge (boxInput n f.ia)).drop 1) ∧
    (∀ (n : Nat) (f : BoxWord) (k : Token), n < 260 → (x.engine (nodeEngine n)).running = true → x.boxOf n = some f →
      x.eocTag = none →
      let b := x.box n
      let fires (y : Slot) : Prop := Leaves (.switchBoxFire key n) s key y
      let governs := f.op = .steer ∨ f.op = .omerge ∨ f.op = .filter
      let c := nextInput f b
      -- pair: a token of each path
      (f.op = .pair → b.eocPath = 0 → k.kind ≠ .eoc →
        (x.headInput n f.ia = some k → OutputsFree x n f.out0 [f.ia] → ∃ y, fires y ∧ Moves x y n [f.ia] f.out0 k) ∧
        (x.headInput n f.ia = none → x.headInput n f.ib = some k → OutputsFree x n f.out1 [f.ib] →
          ∃ y, fires y ∧ Moves x y n [f.ib] f.out1 k)) ∧
      -- steer, omerge, filter: the control token of a block, and then each token of it
      (governs → b.left = 0 → x.headInput n c = some k → k.kind = .data →
        ∃ y, fires y ∧ Takes x y n c ∧ (y.box n).left = 2 ^ f.blk ∧ (y.box n).sel = (k.v && k.data.getLsbD f.bit) ∧
          (y.box n).selV = k.v) ∧
      (governs → b.left ≠ 0 → x.headInput n c = some k → k.kind = .data → OutputsFree x n (governedOut f b) [c] →
        ∃ y, fires y ∧ Moves x y n [c] (governedOut f b) { k with v := k.v && b.selV } ∧ (y.box n).left = b.left - 1) ∧
      -- carry: the first token, then a token of IB for each control token that passes its test
      (f.op = .carry → b.looping = false → x.headInput n f.ia = some k → k.kind = .data → OutputsFree x n f.out0 [f.ia] →
        ∃ y, fires y ∧ Moves x y n [f.ia] f.out0 k ∧ (y.box n).looping = true) ∧
      (f.op = .carry → b.looping = true → x.headInput n f.ctl = some k → k.kind = .data →
        (k.v && k.data.getLsbD f.bit) = false → ∃ y, fires y ∧ Takes x y n f.ctl ∧ (y.box n).looping = false) ∧
      (∀ u, f.op = .carry → b.looping = true → x.headInput n f.ctl = some k → k.kind = .data → k.v = true →
        k.data.getLsbD f.bit = true → x.headInput n f.ib = some u → u.kind = .data →
        boxInput n f.ctl ≠ boxInput n f.ib → OutputsFree x n f.out0 [f.ctl, f.ib] →
        ∃ y, fires y ∧ Moves x y n [f.ctl, f.ib] f.out0 u ∧ y.box n = b) ∧
      -- inv: the held token, repeated for each control token that passes its test
      (f.op = .inv → b.hold = none → x.headInput n f.ia = some k → k.kind = .data →
        ∃ y, fires y ∧ Takes x y n f.ia ∧ (y.box n).hold = some k) ∧
      (∀ h, f.op = .inv → b.hold = some h → x.headInput n f.ib = some k → k.kind = .data →
        (k.v = true → k.data.getLsbD f.bit = true → OutputsFree x n f.out0 [f.ib] →
          ∃ y, fires y ∧ Moves x y n [f.ib] f.out0 h ∧ y.box n = b) ∧
        ((k.v && k.data.getLsbD f.bit) = false → ∃ y, fires y ∧ Takes x y n f.ib ∧ (y.box n).hold = none)) ∧
      -- seq: every token passes, and the first of a block has the count with it on OUT1
      (f.op = .seq → b.left ≠ 0 → x.headInput n f.ia = some k → k.kind = .data → OutputsFree x n f.out0 [f.ia] →
        ∃ y, fires y ∧ Moves x y n [f.ia] f.out0 k ∧ (y.box n).left = (b.left + 1) % 2 ^ f.blk ∧
          (y.box n).count = b.count) ∧
      (let p := (x.port (0x100 + n)).start (r.oiOf t.part)
       f.op = .seq → b.left = 0 → x.headInput n f.ia = some k → k.kind = .data → p.inWindow (r.oiOf t.part) = true →
        OutputsFree x n f.out0 [f.ia] → OutputsFree x n f.out1 [f.ia] → (∀ e ∈ boxEdges n f.out0, e ∉ boxEdges n f.out1) →
        ∃ y, fires y ∧ Moves x y n [f.ia] f.out0 k ∧
          (∀ e ∈ boxEdges n f.out1, y.edge e = [⟨BitVec.ofNat 32 b.count, .data, true, false, p.iter⟩]) ∧
          (y.box n).left = 1 % 2 ^ f.blk ∧ (y.box n).count = (b.count + 1) % 2 ^ f.m) ∧
      -- behind a marker: what the other inputs hold is discarded, and EOS goes on once every input has it
      (governs ∨ f.op = .carry ∨ f.op = .inv → x.headInput n c = some k → k.kind ≠ .data →
        f.inputs.Pairwise (fun i j => boxInput n i ≠ boxInput n j) →
        ((∃ i ∈ f.inputs, ∃ u, x.headInput n i = some u ∧ u.kind = .data) →
          ∃ y, fires y ∧ (∀ i ∈ f.inputs, y.edge (boxInput n i) =
            if (x.headInput n i).any Token.isData then (x.edge (boxInput n i)).drop 1 else x.edge (boxInput n i)) ∧
            ∀ e ∈ boxEdges n f.outputs, (∀ i ∈ f.inputs, boxInput n i ≠ e) → y.edge e = x.edge e) ∧
        (∀ m, x.headInput n f.ia = some m → (∀ i ∈ f.inputs, ∃ u, x.headInput n i = some u ∧ u.kind = .eos) →
          OutputsFree x n f.outputs f.inputs →
          ∃ y, fires y ∧ Moves x y n f.inputs f.outputs m ∧ (y.box n).left = 0 ∧ (y.box n).looping = false ∧
            (y.box n).hold = none))) ∧
    (∀ (n : Nat) (y : Slot), n < 260 → (x.engine (nodeEngine n)).running = true →
      x.fireBox (r.oiOf t.part) (fun _ => false) n = some (y, none) → Leaves (.switchBoxFire key n) s key y) ∧
    (∀ y, x.distributeMarker (r.oiOf t.part) 0 = some y → Leaves (.arcEosPadding key .west) s key y) ∧
    (∀ (m : Token) (p : Port) (l : Nat), (x.port 0).buf.head? = some m → m.kind = .eos →
      x.sourcePort (r.oiOf t.part) 0 = some p → p.sent ≠ 0 → (x.readers 0)[p.sent]? = some l → x.edge (edgeEin l) = [] →
      p.inWindow (r.oiOf t.part) = true →
      ∃ y, Leaves (.arcEosPadding key .west) s key y ∧ y.edge (edgeEin l) = [⟨0, .data, false, false, p.iter⟩] ∧
        (y.port 0).buf = (x.port 0).buf))

/-- R258, R277, R296: a distributor hands the token at its source to the lane whose turn it is, with the source's
iteration. A latch and the ports s and eo take the token of the lane whose turn it is in cyclic order, a marker once every
writing lane holds it: a latch's bytes fill its panel, and a complete one is assembled; a token with V = 0 is dropped. A port qi
takes the next four bytes of the slot at its ingress's head. The other points take what is offered to them as their rules
say. Behind a marker the cyclic order begins with the first lane again, by the model's choice (log entry 111).
Readings and choices of the model that this rests on: log entry 111. -/
def Obligations.BuffersAcceptTokens : Prop :=
  ∀ (s : State) (key : Nat) (t : Thread) (r : Region) (x : Slot), Acts s key t r x →
    (∀ (k : Token) (l : List Token) (p : Port) (n : Nat), (x.port 0).buf = k :: l → k.kind = .data →
      x.sourcePort (r.oiOf t.part) 0 = some p → p.inWindow (r.oiOf t.part) = true → x.readers 0 ≠ [] →
      (x.readers 0)[p.sent % (x.readers 0).length]? = some n → x.edge (edgeEin n) = [] →
      ∃ y, Leaves (.tokenAccept key (.ein .west)) s key y ∧ y.edge (edgeEin n) = [{ k with iter := p.iter }] ∧
        (y.port 0).buf = l) ∧
    (∀ (north : Bool) (l fmt : Nat) (k : Token), TakesNext x (if north then 1 else 0) l k →
      (k.v = false → ∃ y, Leaves (.tokenAccept key (.latch north)) s key y ∧ LeavesEdges x y [l] ∧
        y.latch north = x.latch north) ∧
      (k.v = true → x.latchFmt north = some fmt → (x.latch north).panels.length < 2 →
        let bs := (x.latch north).fill ++ leBytes k.data.toNat 4
        ∃ y, Leaves (.tokenAccept key (.latch north)) s key y ∧ LeavesEdges x y [l] ∧
          ((∀ n, panelSize fmt bs = some n → bs.length < n) → (y.latch north).fill = bs ∧
            (y.latch north).full = (x.latch north).full) ∧
          ∀ n, panelSize fmt bs = some n → n ≤ bs.length → (y.latch north).fill = bs.drop n ∧
            (y.latch north).full = (x.latch north).full ++
              [some ⟨(assemblePanel fmt (bs.take n)).1, (x.latch north).fillP || k.p, none⟩])) ∧
    (∀ (north : Bool) (m : Token), AllHold x (if north then 1 else 0) m →
      let c := if north then 1 else 0
      let named := x.orderNames c = true ∨ (north = false ∧ x.orderNames 2 = true)
      (m.kind = .eos → (x.latch north).fill = [] → ∃ y, Leaves (.tokenAccept key (.latch north)) s key y ∧
        LeavesEdges x y (x.writers c) ∧
        (named → (y.latch north).full = (x.latch north).full ++ [none]) ∧ (¬ named → y.latch north = x.latch north)) ∧
      (m.kind = .eoc → ¬ named → ∃ y, Leaves (.tokenAccept key (.latch north)) s key y ∧ LeavesEdges x y (x.writers c) ∧
        y.latch north = x.latch north)) ∧
    (∀ (east : Bool),
      let i := Instr.tokenAccept key (.sinkArc (if east then .east else .south))
      let c := if east then 3 else 2
      let p := if east then 4 else 2
      (∀ (l : Nat) (k : Token), TakesNext x c l k →
        (k.v = true → (x.port p).buf.length < Config.portRoom → ∃ y, Leaves i s key y ∧ LeavesEdges x y [l] ∧
          (y.port p).buf = (x.port p).buf ++ [k]) ∧
        (k.v = false → ∃ y, Leaves i s key y ∧ LeavesEdges x y [l] ∧ (y.port p).buf = (x.port p).buf)) ∧
      (∀ m, AllHold x c m →
        (m.kind = .eos → (x.port p).buf.length < Config.portRoom → ∃ y, Leaves i s key y ∧
          LeavesEdges x y (x.writers c) ∧ (y.port p).buf = (x.port p).buf ++ [m]) ∧
        (m.kind = .eoc → ∃ y, Leaves i s key y ∧ LeavesEdges x y (x.writers c) ∧ (y.port p).buf = (x.port p).buf))) ∧
    (∀ (q : BitVec 3) (g : Group) (l : List (Option Group)),
      let e := x.queue q.toNat
      let p := 0x10 + q.toNat
      x.openSinks p ≠ [] → e.slots = some g :: l → (e.taker = .none ∨ e.taker = .port) →
      (x.port p).buf.length < Config.portRoom →
      ∃ y, Leaves (.tokenAccept key (.ingressSink q)) s key y ∧
        (y.port p).buf = (x.port p).buf ++ [⟨BitVec.ofNat 32 (field g.bytes e.taken 4), .data, true, g.poison, 0⟩] ∧
        (4096 ≤ e.taken + 4 → (y.queue q.toNat).slots = l ∧ (y.queue q.toNat).taken = 0 ∧
          (y.queue q.toNat).taker = .none) ∧
        (e.taken + 4 < 4096 → (y.queue q.toNat).slots = e.slots ∧ (y.queue q.toNat).taken = e.taken + 4 ∧
          (y.queue q.toNat).taker = .port)) ∧
    (∀ (north : Bool) (y : Slot) (fl : Dword) (bad : Nat), x.acceptLatch north = some (y, fl, bad) →
      Leaves (.tokenAccept key (.latch north)) s key y) ∧
    (∀ y, x.acceptSinkArc 2 = some y → Leaves (.tokenAccept key (.sinkArc .south)) s key y) ∧
    (∀ y, x.acceptSinkArc 3 = some y → Leaves (.tokenAccept key (.sinkArc .east)) s key y) ∧
    (∀ (q : BitVec 3) (y : Slot), x.acceptEgress q.toNat = some y → Leaves (.tokenAccept key (.egress q)) s key y) ∧
    (∀ (q : BitVec 3) (k : Token) (l : List Token) (e : Queue), (x.port (8 + q.toNat)).buf = k :: l → validData k →
      x.queue q.toNat = e → e.bound = true → e.ingress = false → e.egressRoom = true → e.fill.length + 4 < 4096 →
      ∃ y, Leaves (.tokenAccept key (.egress q)) s key y ∧ (y.port (8 + q.toNat)).buf = l ∧
        (y.queue q.toNat).fill = e.fill ++ leBytes k.data.toNat 4) ∧
    (∀ (q : BitVec 3) (y : Slot), x.acceptIngress q.toNat = some y →
      Leaves (.tokenAccept key (.ingressSink q)) s key y) ∧
    (∀ (k : Token) (l : List Token), (x.port 0x18).buf = k :: l → k.kind = .data → x.gather.length < 64 →
      ∃ y, Leaves (.tokenAccept key .gather) s key y ∧ y.gather = x.gather ++ [k.data] ∧ (y.port 0x18).buf = l)

/-- R104, R230, R233, R239, R244: the last visit of a plain source command on its own device reads its element as tokens at
the port, and the command ends; the last visit of a plain sink command writes the bytes of its tokens and no other byte.
No sector is meant that a pooled group still in progress has filled (R134), or whose write has to wait for accesses already
translated (R345).
Readings and choices of the model that this rests on: log entries 30 and 31. -/
def Obligations.StreamsMoveElements : Prop :=
  ∀ (s s1 : State) (key : Nat) (t : Thread) (r : Region) (x : Slot) (ag : BitVec 3) (n : Nest) (base : Dword) (p : Place),
    Acts s key t r x → HeadCommand s key ag n 1 base [] → (x.ag ag.toNat).n < n.total → n.xf = 0 → s.flits = [] →
    0 < n.width → 64 % n.width = 0 →
    let c := x.ag ag.toNat
    let port := c.port.toNat
    let ea := n.ea base c.n
    addrDev p.addr = keyDev key → p.addr % 64 = ea.toNat % 64 → s1.sector (p.addr / 64) ≠ .poisoned →
    (isSink port = false → port ≠ 0x18 → n.mode = 0 → (x.port port).buf = [] → c.skip = 0 →
      c.combSector = none → s1.unchecked (p.addr / 64) = false → reach s r t.super t.part t.rx t.ry ea n.width n.width .read = .at p s1 →
      ∃ (u : State) (y : Slot), exec (.streamAccess key ag) s = .next u ∧ SameMemory s1 u ∧ SlotLeft u key y ∧
        (y.port port).buf = dataTokens (tokensPer n.width) (s1.bytes p.addr n.width) false ∧
        y.entries port = [] ∧ (y.ag ag.toNat).n = c.n + 1) ∧
    (isSink port = true → n.mode = 3 → c.combSector = none → c.combBytes = [] → c.combPoison = false →
      s1.inUse (p.addr / 64) (fun _ => false) = false → (x.port port).buf.length = tokensPer n.width → (∀ k ∈ (x.port port).buf, k.kind = .data ∧ k.p = false) →
      reach s r t.super t.part t.rx t.ry ea n.width n.width .write = .at p s1 →
      ∃ (u : State) (y : Slot), exec (.streamAccess key ag) s = .next u ∧
        BytesWritten s1 u p.addr (tokenBytes n.width (x.port port).buf) ∧ (∀ k, u.sector k = s1.sector k) ∧
        SlotLeft u key y ∧ (y.port port).buf = [] ∧ y.entries port = [] ∧ (y.ag ag.toNat).n = c.n + 1)

/-- R245, R246, R249: behind the commands that have ended, the marker at the head of a source port's scoreboard leaves as
EOS with its drain, or as EOC; EOS at a sink port whose combiners are written ends its commands, makes its bindings idle
and completes their tags. -/
def Obligations.StreamEndsPropagate : Prop :=
  ∀ (s : State) (key : Nat) (t : Thread) (r : Region) (x : Slot) (port : BitVec 5), Acts s key t r x →
    let p := port.toNat
    let waiting := (x.entries p).dropWhile fun e => x.ended p e
    (∀ id l, waiting = .drain id :: l →
      ∃ (u : State) (y : Slot), exec (.drainMarker key port) s = .next u ∧ SameMemory s u ∧ SlotLeft u key y ∧
        y.entries p = l ∧
        (y.port p).buf = (x.port p).buf ++ [⟨BitVec.ofNat 32 (id + 1), .eos, true, false, 0⟩]) ∧
    (∀ l, waiting = .eoc :: l →
      ∃ (u : State) (y : Slot), exec (.drainMarker key port) s = .next u ∧ SameMemory s u ∧ SlotLeft u key y ∧
        y.entries p = l ∧ (y.port p).buf = (x.port p).buf ++ [⟨0, .eoc, true, false, 0⟩]) ∧
    (∀ k l, isSink p = true → (x.port p).buf = k :: l → k.kind = .eos → x.openSinks p ≠ [] →
      (∀ a ∈ x.openSinks p, (x.ag a).combSector = none) → s.flits = [] →
      ∃ (u : State) (y : Slot), exec (.sinkEos key port) s = .next u ∧ SameMemory s u ∧ SlotLeft u key y ∧
        y.entries p = [] ∧ (y.port p).buf = l ∧ (∀ a ∈ x.openSinks p, (y.ag a).idle = true) ∧
        (∀ a g, x.openSinks p = [a] → (x.ag a).tag = some g → x.drains = [] → x.arms = [] → x.eocTag = none →
          ∃ t1, u.thread key = some t1 ∧ SMap.get 0 t1.tagCount g.toNat = SMap.get 0 t.tagCount g.toNat - 1 ∧
            (SMap.get 0 t.tagCount g.toNat ≤ 1 → t1.tags.getLsbD g.toNat = true)))

/-- R273, R276 to R280, R284: the array fires the order whose turn it is. An MMA that does not emit leaves its accumulator
with one accumulate call for every element, from zero where it clears; an MLT leaves the codes of its panel in the columns
or rows that KOFF names; an MST emits its accumulator and leaves it open and zero.
Readings and choices of the model that this rests on: log entries 83 and 84. -/
def Obligations.ArrayOrdersFire : Prop :=
  ∀ (s : State) (key : Nat) (t : Thread) (r : Region) (x : Slot) (i : BitVec 3) (a : Arming) (o : Order)
    (pa pb : List Panel), Acts s key t r x → (x.engine 12).running = true → x.nextOrder = some (a, o, pa, pb) → a.idx = i →
    let c := x.arrayCfg
    (o.op = .mma → firingEmits a o = false → (panelsRows c.afmt pa).length = 64 → (panelsRows c.bfmt pb).length = 64 →
      ∃ y, Leaves (.mmaFire key i) s key y ∧
        y.accList o.acc = (mmaElements c (if (a.fired = 0 ∧ o.clr = true) ∨ o.each = true then List.replicate 4096 0
          else x.accList o.acc) (panelsRows c.afmt pa) (panelsRows c.bfmt pb)).1) ∧
    (o.op = .mma → firingEmits a o = true → ∃ y, Leaves (.mmaFire key i) s key y ∧
      SMap.get [] y.outs o.out ≠ [] ∧ y.accList o.acc = List.replicate 4096 0 ∧ (y.accSt o.acc).held = false) ∧
    (o.op = .mlt → ∃ y, Leaves (.mltFire key i) s key y ∧ (y.accSt o.acc).held = o.fin ∧
      ∀ e, e < 4096 →
        let q := if o.clr then e / 64 else e % 64
        let m := if o.clr then e % 64 else e / 64
        (y.accList o.acc)[e]? =
          if o.koff ≤ q ∧ q < o.koff + kPanel c.afmt then
            some (BitVec.ofNat 32 ((unpackBytes (fmtBits c.afmt) ((pa.headD { bytes := [], p := false }).bytes)).getD
              (m * kPanel c.afmt + (q - o.koff)) 0))
          else (x.accList o.acc)[e]?) ∧
    (o.op = .mst → ∃ y, Leaves (.mstFire key i) s key y ∧ y.accList o.acc = List.replicate 4096 0 ∧
      (y.accSt o.acc).held = false ∧ (o.wid = 3 → o.out ≠ 0 →
        SMap.get [] y.outs o.out = (x.accList o.acc).map fun w => ⟨w, .data, true, (x.accSt o.acc).p, 0⟩))

/-- R277, R278, R282: a count-0 arming ends at EOS, completing an MMA that has fired; the array sends EOS once to each output
of its table that no armed order names, when EOS is at every source; a latch at EOS completes a part of a panel with
neutral padding; the gather unit reads one row into its latch.
Readings and choices of the model that this rests on: log entries 34 and 83. -/
def Obligations.ArrayEndsAndGathers : Prop :=
  ∀ (s : State) (key : Nat) (t : Thread) (r : Region) (x : Slot), Acts s key t r x →
    (∀ (i : BitVec 3) (a : Arming) (o : Order), (x.engine 12).running = true → x.armed i = some a → x.armOrder a = some o →
      x.endsNow a o = true → (o.op ≠ .mma ∨ o.fin = false ∨ o.each = true ∨ a.fired = 0) →
      ∃ y, Leaves (.armingEnd key i) s key y ∧ y.acc = x.acc ∧ y.accState = x.accState ∧
        (∀ b ∈ y.arms, b.ended = false → b ∈ x.arms ∧ b ≠ a)) ∧
    (∀ (i : BitVec 3) (a : Arming) (o : Order), (x.engine 12).running = true → x.armed i = some a → x.armOrder a = some o →
      x.endsNow a o = true → o.op = .mma → o.fin = true → o.each = false → 0 < a.fired → o.out = 0 →
      ∃ y, Leaves (.armingEnd key i) s key y ∧ y.acc = x.acc ∧ (y.accSt o.acc).held = true) ∧
    (∀ out : BitVec 4, (x.engine 12).running = true → (∀ c ∈ x.tableSources, x.sourceEos c = true) →
      out.toNat ∈ x.tableOutputs → x.arrayEosSent.getLsbD out.toNat = false →
      (∀ a ∈ x.arms, a.ended = false → ∀ o, x.armOrder a = some o → o.out ≠ out.toNat) →
      ∃ y, Leaves (.arrayEos key out) s key y ∧
        SMap.get [] y.outs out.toNat = SMap.get [] x.outs out.toNat ++ [⟨0, .eos, true, false, 0⟩]) ∧
    (∀ (north : Bool) (fmt : Nat), x.latchFmt north = some fmt → (x.latch north).fill ≠ [] →
      (x.latch north).panels.length < 2 → x.eosAtLatch north = true →
      ∃ y, Leaves (.latchEosPadding key north) s key y ∧ (y.latch north).fill = [] ∧
        (y.latch north).full = (x.latch north).full ++
          [some ⟨(padPanel fmt (x.latch north).fill).1, (x.latch north).fillP,
            some (padPanel fmt (x.latch north).fill).2.2⟩]) ∧
    (∀ (s1 : State) (p : Place) (off : Word) (l : List Word) (ag : BitVec 3) (left : Nat) (base : Dword) (af : List Nat)
        (es : List SbEntry) (n : Nest) (fmt : Nat), x.gather = off :: l → x.entries 0x18 = .cmd ag left base af :: es →
      x.latchFmt false = some fmt → x.nest ag.toNat = some n → (x.ag ag.toNat).fault = false →
      x.latchA.panels.length < 2 → s1.sector (p.addr / 64) ≠ .poisoned →
      reach s r t.super t.part t.rx t.ry (0xF000000000000000#64 + off.setWidth 64) 64 64 .read = .at p s1 →
      ∃ (u : State) (y : Slot), exec (.gatherRead key) s = .next u ∧ SameMemory s1 u ∧ SlotLeft u key y ∧ y.gather = l ∧
        y.latchA = ({ x.latchA with fill := x.latchA.fill ++ s1.bytes p.addr 64 }.assemble fmt false).1)

/-- R107, R133, R134, R250 to R252, R352: an egress sends its next group when the ingress has a free slot, and EOS behind its
groups; EOS packs what stands for a last group. A good tag makes the slot full and lets the producer's replay slot go; a
bad one, where the ports have room in their replay tables, poisons the slot's sectors and asks for a replay; a replay
delivers the group again and gives a sector its state back; an ingress passes EOS on to each of its consumers, a binding of
its port, the lanes joined to it and an order that names it, and keeps it while it has none.
Readings and choices of the model that this rests on: log entries 40, 41, 84 and 85. -/
def Obligations.LinkQueuesCarryGroups : Prop :=
  ∀ (s : State) (key : Nat) (t : Thread) (r : Region) (x : Slot) (q : BitVec 3) (e : Queue), Acts s key t r x →
    x.queue q.toNat = e → e.bound = true → e.peerKey ≠ key → keyDev key = keyDev e.peerKey →
    let far := (s.slot e.peerKey).queue e.peerQ.toNat
    (∀ g l, e.ingress = false → e.packed = some g :: l →
      e.awaiting.length + (far.slots.filter Option.isSome).length ≤ far.dm1.toNat → far.replay = false →
      ∃ u : State, exec (.egressGroupSend key q) s = .next u ∧ SameMemory s u ∧
        ((u.slot key).queue q.toNat).packed = l ∧ ((u.slot key).queue q.toNat).awaiting = e.awaiting ++ [g] ∧
        ((u.slot e.peerKey).queue e.peerQ.toNat).arriving = far.arriving ++ [some { g with first := g.seq }]) ∧
    (∀ l, e.ingress = false → e.packed = none :: l → far.arriving = [] →
      ∃ u : State, exec (.egressGroupSend key q) s = .next u ∧ SameMemory s u ∧
        ((u.slot key).queue q.toNat).packed = l ∧ ((u.slot key).queue q.toNat).eos = true ∧
        ((u.slot e.peerKey).queue e.peerQ.toNat).slots = far.slots ++ [none] ∧
        ((u.slot e.peerKey).queue e.peerQ.toNat).eos = true ∧
        ((u.slot e.peerKey).queue e.peerQ.toNat).lastBytes = far.lastLen) ∧
    (∀ k l, e.ingress = false → (x.port (8 + q.toNat)).buf = k :: l → k.kind = .eos → e.fill = [] →
      ∃ y : Slot, Leaves (.egressEos key q) s key y ∧ (y.queue q.toNat).packed = e.packed ++ [none] ∧
        (y.port (8 + q.toNat)).buf = l) ∧
    (∀ k l, e.ingress = false → (x.port (8 + q.toNat)).buf = k :: l → k.kind = .eos → e.fill ≠ [] → e.fill.length ≤ 4096 →
      ∃ (y : Slot) (g : Group), Leaves (.egressEos key q) s key y ∧ (y.queue q.toNat).packed = e.packed ++ [some g, none] ∧
        g.bytes = e.fill ++ List.replicate (4096 - e.fill.length) 0 ∧ g.len = e.fill.length ∧ g.seq = e.seq) ∧
    (∀ g, e.ingress = true → e.arriving = [some g] → g.seq = e.groups → g.taken = false → key < 2 ^ 32 →
      (tagGood far.xf.toNat g.bytes g.first g.damage = true → e.held = false → ∃ u : State, exec (.integrityCheck key q true) s = .next u ∧ SameMemory s u ∧
        ((u.slot key).queue q.toNat).arriving = [] ∧ ((u.slot key).queue q.toNat).slots = e.slots ++ [some g] ∧
        ((u.slot key).queue q.toNat).groups = e.groups + 1 ∧
        ((u.slot e.peerKey).queue e.peerQ.toNat).awaiting = far.awaiting.drop 1) ∧
      (s.replayRoom (slotSectors key r e g.seq) = true → e.fails < 3 →
        ∃ u : State, exec (.integrityCheck key q false) s = .next u ∧ (∀ a, u.byte a = s.byte a) ∧
          ((u.slot key).queue q.toNat).arriving = [] ∧ ((u.slot key).queue q.toNat).slots = e.slots ∧
          ((u.slot key).queue q.toNat).replay = true ∧
          ∀ k ∈ slotSectors key r e g.seq, u.sector k = .poisoned)) ∧
    (∀ g l, e.ingress = true → e.replay = true → far.awaiting = g :: l → g.seq = e.groups → e.arriving = [] →
      e.discard = false → g.taken = false → s.flits = [] → far.peerKey = key → far.peerQ.toNat = q.toNat →
      (s.replays = [] → ∃ u : State, exec (.groupReplay key q) s = .next u ∧ SameMemory s u ∧
        ((u.slot key).queue q.toNat).arriving = [some { g with first := g.seq }]) ∧
      (∀ c, s.replays = [c] → c.key = key → c.q = q → c.seq = g.seq → s.sector c.sector = .poisoned →
        ∃ u : State, exec (.groupReplay key q) s = .next u ∧ (∀ a, u.byte a = s.byte a) ∧
          (∀ k, u.sector k = if k = c.sector then c.before else s.sector k) ∧ u.replays = [] ∧
          ((u.slot key).queue q.toNat).arriving = [some { g with first := g.seq }])) ∧
    (∀ l, e.slots = none :: l →
      let bound := ∃ ag, ag < 8 ∧ (x.ag ag).bound = true ∧ (x.ag ag).port.toNat = 0x10 + q.toNat
      let lanes := x.readers (8 + q.toNat) ≠ []
      let order := x.orderNames (8 + q.toNat) = true
      let eos : Token := ⟨0, .eos, true, false, 0⟩
      (¬ bound → ¬ lanes → ¬ order → exec (.ingressEos key q) s = .next s) ∧
      (bound ∨ lanes ∨ order → ∃ y, Leaves (.ingressEos key q) s key y ∧ (y.queue q.toNat).slots = l ∧
        (bound → (y.port (0x10 + q.toNat)).buf = (x.port (0x10 + q.toNat)).buf ++ [eos]) ∧
        (lanes → (y.port (sourceKey (8 + q.toNat))).buf = (x.port (sourceKey (8 + q.toNat))).buf ++ [eos]) ∧
        (order → (y.queue q.toNat).arrayEos = e.arrayEos + 1)))

/-- R249, R300: an instance that the switch still waits for, at the marker on every input that it uses, takes its
staged words, forwards the marker and is no longer waited for: a box, each path of a pair on its own, a lane, and the 32 lanes
of a block group at once. R295: the oldest-iteration counter of a part goes on by
one when no token and no source under way is left in the oldest iteration; while one is left it stands.
Readings and choices of the model that this rests on: log entries 37 and 38. -/
def Obligations.SwitchesAndIterationsAdvance : Prop :=
  (∀ (s : State) (key : Nat) (t : Thread) (r : Region) (x y : Slot) (n : Nat), Acts s key t r x → n ∈ x.eocLeft →
     x.eocTag.isSome = true →
     (∀ (f : BoxWord) (m : Token), n < 260 → (x.engine (nodeEngine n)).running = true → x.boxOf n = some f →
       let taken (z : Slot) : Prop := n ∉ z.eocLeft ∧ z.words = takeStaged x.words (s.staged key) (nodeKind n) (nodeUnit n)
       let open_ := x.eocInputs n
       -- one path
       (f.op ≠ .pair → f.op ≠ .seq → open_.head?.bind (x.headInput n) = some m →
         (∀ i ∈ open_, ∃ k, x.headInput n i = some k ∧ k.kind = .eoc) →
         open_.Pairwise (fun i j => boxInput n i ≠ boxInput n j) → OutputsFree x n f.outputs open_ →
         ∃ z, Leaves (.eocSwitch key n) s key z ∧ Moves x z n open_ f.outputs m ∧ taken z) ∧
       -- a pair's two paths, each on its own
       (f.op = .pair → (x.box n).eocPath = 0 → f.ia ∈ open_ → x.headInput n f.ia = some m → m.kind = .eoc →
         OutputsFree x n f.out0 [f.ia] → ∃ z, Leaves (.eocSwitch key n) s key z ∧ Moves x z n [f.ia] f.out0 m ∧
           (z.box n).eocPath = 1 ∧ z.words = x.words ∧ z.eocLeft = x.eocLeft) ∧
       (f.op = .pair → (x.box n).eocPath = 1 → f.ib ∈ open_ → x.headInput n f.ib = some m → m.kind = .eoc →
         OutputsFree x n f.out1 [f.ib] → ∃ z, Leaves (.eocSwitch key n) s key z ∧ Moves x z n [f.ib] f.out1 m ∧ taken z)) ∧
     (264 ≤ n → n < 520 → (x.engine (8 + (n - 264) / 64)).running = true → x.inGroup (n - 264) = true →
       let ls := groupLanes ((n - 264) / 32)
       (∀ l ∈ ls, x.laneInputs l ≠ [] ∧ x.edge (edgeZ l) = [] ∧
         ∀ i ∈ x.laneInputs l, ∃ k, x.headEdge (laneEdge l i) = some k ∧ k.kind = .eoc) →
       ∃ z, Leaves (.eocSwitch key n) s key z ∧ ∀ l ∈ ls, 264 + l ∉ z.eocLeft ∧
         (∀ i ∈ x.laneInputs l, z.edge (laneEdge l i) = (x.edge (laneEdge l i)).drop 1) ∧
         (x.laneOutputs l = true → (z.edge (edgeZ l)).map Token.kind = [.eoc]) ∧
         ∀ j, j < 2 → z.word 1 l j = tableWord (takeStaged x.words (s.staged key) 1 l) 1 l j) ∧
     (n < 260 → (x.engine (nodeEngine n)).running = true →
       x.switchBox (r.oiOf t.part) (fun _ => false) (s.staged key) n = some (y, none) →
       Leaves (.eocSwitch key n) s key y) ∧
     (264 ≤ n → n < 520 → (x.engine (8 + (n - 264) / 64)).running = true → x.inGroup (n - 264) = true →
       ∀ z, x.switchGroup (r.oiOf t.part) (s.staged key) ((n - 264) / 32) = some z → Leaves (.eocSwitch key n) s key z) ∧
     (264 ≤ n → n < 520 → (x.engine (8 + (n - 264) / 64)).running = true → x.inGroup (n - 264) = false →
       (∀ k ∈ x.laneInputs (n - 264), (x.headEdge (laneEdge (n - 264) k)).any (fun m => m.kind = .eoc) = true) →
       x.laneInputs (n - 264) ≠ [] → x.edge (edgeZ (n - 264)) = [] →
       ∃ z, Leaves (.eocSwitch key n) s key z ∧ n ∉ z.eocLeft ∧
         z.words = takeStaged x.words (s.staged key) 1 (n - 264) ∧
         (x.laneOutputs (n - 264) = true → (z.edge (edgeZ (n - 264))).map Token.kind = [.eoc]))) ∧
  (∀ (s : State) (rid part : Nat) (r : Region), s.region rid = some r → r.acts s.now = true →
     let oi := r.oiOf part
     let slots := (r.positions.filter fun c => c.1 = part).map fun c => s.slot (r.keyAt c.1 c.2.1 c.2.2)
     let live := slots.flatMap fun x => x.liveIters
     let srcs := slots.flatMap fun x => x.sources oi
     (live ≠ [] ∨ srcs ≠ [] → oi ∉ live →
       (∀ c ∈ srcs, c.iter = oi → c.rests = true ∧ ∃ d ∈ srcs, d.busy = true ∧ d.iter = oi + 64) →
       ∃ (u : State) (r1 : Region), exec (.oiAdvance rid part) s = .next u ∧ SameMemory s u ∧ u.region rid = some r1 ∧
         r1.oiOf part = oi + 1 ∧ (∀ p, p ≠ part → r1.oiOf p = r.oiOf p) ∧ ∀ k, u.slot k = s.slot k) ∧
     (oi ∈ live → exec (.oiAdvance rid part) s = .next s) ∧
     (∀ c ∈ srcs, c.iter = oi → c.rests = false → exec (.oiAdvance rid part) s = .next s))

/-! Translation, the fabric's ports, bridges, schedulers, pre-emption, power, supply and resets: the words of the
statements. -/

namespace Sys2Proof.Claims

open Sys2Proof.Machine

/-- Nothing but device `dev` differs, and it is left as `d`. -/
def OnlyDevice (s u : State) (dev : Nat) (d : Device) : Prop :=
  u.device dev = d ∧ (∀ k, k ≠ dev → u.device k = s.device k) ∧ { u with devices := s.devices } = s

/-- Nothing but region `rid` differs, and it is left as `r`. -/
def OnlyRegion (s u : State) (rid : Nat) (r : Region) : Prop :=
  u.region rid = some r ∧ (∀ k, k ≠ rid → u.region k = s.region k) ∧ { u with regions := s.regions } = s

/-- No thread, no byte and no sector state differs. -/
def SameThreads (s u : State) : Prop := SameMemory s u ∧ u.threads = s.threads ∧ u.regions = s.regions

/-- Lane group `g` of a port. -/
def lanesOf (s : State) (dev port g : Nat) : LaneGroup := (s.device dev).lanes port g

/-- A lane group of a port that a binding may take (R399). -/
def LaneGroupFree (s : State) (dev port g : Nat) : Prop :=
  (lanesOf s dev port g).binding = none ∧ (lanesOf s dev port g).state = .up ∧ (s.device dev).isDown port = false

/-- Graph `rid` acts no more: its region is gone, or it has ended and keeps its tiles until its record is written (R43). -/
def HasEnded (u : State) (rid : Nat) : Prop := u.region rid = none ∨ ∃ r, u.region rid = some r ∧ r.state = .ending

/-- The state in which the completion record of graph `rid` is written: nothing of the graph acts any more; one that is
switched out holds nothing (R43). -/
def Stopped (s : State) (rid : Nat) (r : Region) : State :=
  let s1 := (s.finishLoads rid r).stopRegion rid r
  if r.state = .saved then s1.freeRegion rid r
  else s1.setRegion rid { r with state := .ending, gateTick := none, acks := [], leaving := false, lease := {} }

/-- The event ends graph `rid`, whose region is `r`, with a status: the graph acts no more and no thread is left on its tiles.
Where DONE is a writable, aligned sector of memory that is up and not in use by a walk, and no write of the graph still
travels (R139), its completion record stands there, the sector full, and the region is free (R43, R44). -/
def GraphEnds (i : Instr) (s : State) (rid : Nat) (r : Region) (status : Nat) : Prop :=
  ∃ u : State, exec i s = .next u ∧ HasEnded u rid ∧ (r.state ≠ .saved → ∀ k ∈ r.keys, u.thread k = none) ∧
    (s.writesTravel r.ctxId = false → rid ≠ 0 → ∀ fa s1, r.launch.done.toNat < 2 ^ 56 → r.launch.done.toNat % 64 = 0 →
      fa % 64 = 0 → fa < 2 ^ 60 →
      translate (Stopped s rid r) r.launch.part (r.launch.dev * 896) r.launch.super r.launch.done.toNat .write = .ok fa s1 →
      s1.memOff r.launch.dev fa = false → s1.inUse (fa / 64) (fun _ => false) = false →
      u.region rid = none ∧
      u.bytes fa 64 = completionRecord status 0 r.ctxId r.tStart s.now (s.threadsOf rid r) ∧ u.sector (fa / 64) = .full)

/-- The launch `l` is all that device `dev` has to place of partition `part`: it heads its queue alone, no restore is due,
and no completion record and no reservation waits. -/
def OnlyBid (s : State) (dev part : Nat) (l : LaunchRec) : Prop :=
  (s.device dev).module = .up ∧ l.dev = dev ∧ l.part = part ∧ l.prio < 8 ∧ l.group = 0 ∧
  (∀ p, p < 8 → (s.device dev).queue part p = if p = l.prio then [l] else []) ∧
  (∀ c ∈ s.regions, ∀ r, c.2 = some r → r.due = false) ∧ s.reservations = [] ∧ s.doneRetry = []

/-- The bid of a launch that waits in a queue (R322). -/
def bidOf (l : LaunchRec) : Bid := ⟨l, none, l.arrival, l.bypass, l.blocking⟩

/-- Whether a core of device `dev` acts: Tack (`tack`) from boot step 6 on while there is no hold-up, Tree while there is power
(R372, R373, R407). -/
def CoreActs (s : State) (dev : Nat) (tack : Bool) : Prop :=
  match (s.device dev).module with
  | .up => True
  | .booting n => tack = true → 6 ≤ n
  | .holdUp _ | .recovery => tack = false
  | .dead => False

/-- No region of the list has a tile on the device. -/
def NoGraphOn (s : State) (dev : Nat) : Prop := ∀ c ∈ s.regions, ∀ r, c.2 = some r → ∀ o ∈ r.origins, o.dev ≠ dev

/-- The module of device `dev` is cleared and at a boot step: every byte of its HBM, vaults and scratchpads reads 0, no
graph has a part on it, no partition is admitted there, and its queues and ports hold nothing (R406). -/
def Cleared (s u : State) (dev step : Nat) : Prop :=
  (u.device dev).module = .booting step ∧
  (∀ a, a < 2 ^ 62 → addrDev a = dev → u.byte a = 0 ∧ u.sector (a / 64) = .empty) ∧
  (∀ rid r, s.region rid = some r → (∃ o ∈ r.origins, o.dev = dev) → u.region rid = none) ∧
  (∀ n, n < 16 → dev ∈ (s.partition n).devices → dev ∉ (u.partition n).admitted) ∧
  (u.device dev).queues = [] ∧ (u.device dev).groups = []

end Sys2Proof.Claims

/-- R1, R145: the word fetched at a PC holds the four bytes at stream address + PC, lowest address first, as translation
gives the address. R335: no root, no translation. R334, R336, R337: at each level of a walk a page descriptor gives its
frame and the address within the page, where its permissions allow the access; a table descriptor leads to the next
level; an invalid one and a malformed one fault with kinds 1 and 3 and the level; a refused one with kind 2. A walk of
valid descriptors changes no byte. R339: what a walk has resolved stays cached. R344: an invalidation drops the
translations of its sector, or those of the partition that owns the sector where it held a table, and clears the mark. R345:
it waits while accesses that use them are on their way.
Readings and choices of the model that this rests on: log entries 76, 78 and 103. -/
def Obligations.TranslationWalksAndInvalidates : Prop :=
  (∀ (s s1 : State) (r : Region) (t : Thread) (pc : Dword) (fa : Nat),
    translate s r.launch.part (r.tileAt t.part t.rx t.ry) t.super ((t.stream + pc).toNat % 2 ^ 56) .fetch = .ok fa s1 →
    s1.memOff (keyDev s.cur) fa = false →
    fetchWord s r t pc = .words [s1.byte (fa + 3) ++ s1.byte (fa + 2) ++ s1.byte (fa + 1) ++ s1.byte fa] s1) ∧
  (∀ (s : State) (part tile va : Nat) (super : Bool) (kind : WalkKind), s.tlbFind part tile va = none →
    (s.partition part).ptRoot.toNat / 2 ^ 14 % 2 ^ 42 = 0 → translate s part tile super va kind = .fault 6 0 s) ∧
  (∀ (s : State) (part tile va l lo hi t : Nat) (kind : WalkKind) (super : Bool) (rest : List (Nat × Nat × Nat)),
    (l, lo, hi) ∈ walkLevels →
    let da := t + 8 * (va / 2 ^ lo % 2 ^ (hi + 1 - lo))
    let d := s.readDesc part (quadKey tile) da
    let frame := d / 2 ^ 16 % 2 ^ 40 * 2 ^ 16
    let walk := walkFrom part tile va kind super false ((l, lo, hi) :: rest) t s
    isHbm da = true → (s.partition part).ownsHbm da 8 = true → s.memOff (tileDev tile) da = false →
    s.sector (da / 64) ≠ .poisoned →
    (d % 4 = 0 → walk = .fault 1 l s) ∧
    (descMalformed d l = true → walk = .fault 3 l s) ∧
    (d % 4 = 1 → descMalformed d l = false →
      ∃ s1, (∀ a, s1.byte a = s.byte a) ∧ walk = walkFrom part tile va kind super false rest (d / 2 ^ 8 % 2 ^ 48 * 2 ^ 8) s1) ∧
    (d % 4 = 2 → descMalformed d l = false → (s.partition part).ownsHbm frame (2 ^ pageBits l) = true →
      ∃ s1, (∀ a, s1.byte a = s.byte a) ∧
        walk = if allowed d kind super then .ok (frame + va % 2 ^ pageBits l) s1 else .fault 2 l s1)) ∧
  (∀ (s s1 : State) (part tile va fa : Nat) (super : Bool) (kind : WalkKind),
    translate s part tile super va kind = .ok fa s1 → translate s1 part tile super va kind = .ok fa s1) ∧
  (∀ (s : State) (key : Nat) (t : Thread) (r : Region) (va : Dword) (kind : WalkKind), s.thread key = some t →
    s.region t.rid = some r → va.toNat < 2 ^ 56 →
    ∃ u : State, exec (.tableWalk key va kind) s = .next u ∧ u.threads = s.threads ∧ u.regions = s.regions ∧
      ∀ fa s1, translate s r.launch.part (key / 4) t.super va.toNat kind = .ok fa s1 →
        translate u r.launch.part (key / 4) t.super va.toNat kind = .ok fa u) ∧
  (∀ (s : State) (sec : Nat), s.inUse sec (fun _ => false) = true → exec (.invalidation sec) s = .next s) ∧
  (∀ (s : State) (sec : Nat), s.inUse sec (fun _ => false) = false →
    ∃ u : State, exec (.invalidation sec) s = .next u ∧ SameMemory s u ∧ u.mark sec = .clear ∧
    (s.mark sec = .clear → u = s) ∧ (s.mark sec = .leaf → ∀ e ∈ u.tlb, e.sector ≠ sec) ∧
    (s.mark sec = .table →
      (∀ e, e ∈ u.tlb ↔ e ∈ s.tlb ∧ ∃ p, s.ownerOf sec = some p ∧ e.part ≠ p) ∧
      ∀ e, e ∈ u.walkCache ↔ e ∈ s.walkCache ∧ ∃ p, s.ownerOf sec = some p ∧ e.part ≠ p))

/-- R410: a lane group trains through EQUALISE and IDENT and comes up only where the far end names the partner that R393
gives. R402: the flit whose turn it is goes on where its frame is good, and leaves its sender's replay buffer; a bad frame
is counted as one more replay and the flit stays with its sender; the last flit of a binding hands its group to the ingress;
16 of one flit send the group back to EQUALISE at both
ends; a port without a group that is up for 10 ms goes down. R399: the binding of a group that has failed moves to the
first free group of its port, else of the other port of its direction. R372: a port that has lost its partner has every group down. R397: a control flit of an
unknown kind is counted.
Readings and choices of the model that this rests on: log entries 66 and 90. -/
def Obligations.LaneGroupsTrainAndFail : Prop :=
  (∀ (s : State) (dev port g partner : Nat), port < 12 → g < 8 → (s.device dev).module.trains = true →
    (s.device (portPartner dev port).1).module.trains = true →
    ∃ u : State, exec (.linkTraining dev port g partner) s = .next u ∧ SameThreads s u ∧
      (∀ e q h, h < 8 → (e, q, h) ≠ (dev, port, g) → lanesOf u e q h = lanesOf s e q h) ∧
      (lanesOf u dev port g).binding = (lanesOf s dev port g).binding ∧
      (lanesOf u dev port g).state =
        (match (lanesOf s dev port g).state with
        | .down => .equalise
        | .equalise => .ident
        | .ident => if partner = 12 * (portPartner dev port).1 + (portPartner dev port).2 then .up else .down
        | .up => .up)) ∧
  (∀ (s : State) (dev port g : Nat) (good : Bool) (v : Flight), port < 12 → g < 8 →
    (s.device dev).module.trains = true → (s.device (portPartner dev port).1).module.trains = true →
    let p := portPartner dev port
    let l := lanesOf s p.1 p.2 g
    let sent := s.fillBuffer p.1 p.2 g 32
    l.state = .up → s.buffered p.1 (8 * p.2 + g) = [v] → v.sent = some (8 * p.2 + g, l.seq) →
    let frame := if v.flit.data.isSome then sent.frameOf v l.seq else v.flit.frame l.seq 0 false 0 0
    let fine := good && frameGood (damaged frame (lanesOf s dev port g).damage)
    ((∀ b, v.flit = .bound b → dev ≠ v.flit.dst) → fine = true →
      ∃ u : State, exec (.flitReceive dev port g good) s = .next u ∧ SameThreads s u ∧
        v.enter dev port ∈ u.flits ∧ (lanesOf u p.1 p.2 g).seq = l.seq + 1 ∧ (lanesOf u p.1 p.2 g).replays = 0) ∧
    (∀ b, v.flit = .bound b → dev = v.flit.dst → b.index + 1 = b.count → sent.boundHeld v.flit = false → fine = true →
      ∃ u : State, exec (.flitReceive dev port g good) s = .next u ∧ SameThreads s u ∧
        u.flits.length + 1 = s.flits.length ∧ (lanesOf u p.1 p.2 g).seq = l.seq + 1 ∧
        (u.slot b.peer).queue b.peerQ =
          ((s.slot b.peer).queue b.peerQ).receive (b.item.map fun x => { x with first := l.seq - b.index })) ∧
    (sent.boundHeld v.flit = false → fine = false → l.replays < 16 → ∃ u : State, exec (.flitReceive dev port g good) s = .next u ∧ SameMemory s u ∧
      v ∈ u.flits ∧ (lanesOf u p.1 p.2 g).seq = l.seq ∧ (lanesOf u p.1 p.2 g).replays = l.replays + 1 ∧
      (lanesOf u p.1 p.2 g).state = .up)) ∧
  (∀ (s : State) (dev port : Nat) (good : Bool), ∃ u : State, exec (.flitReceive dev port 8 good) s = .next u ∧
    SameThreads s u ∧ SMap.get 0 (u.device dev).portErrors port = SMap.get 0 (s.device dev).portErrors port + 1) ∧
  (∀ (s : State) (dev port g : Nat), 16 ≤ (lanesOf s dev port g).replays →
    ∃ u : State, exec (.laneGroupRetrain dev port g) s = .next u ∧ SameThreads s u ∧
      (lanesOf u dev port g).state = .equalise ∧ (lanesOf u dev port g).replays = 0 ∧
      (lanesOf u (portPartner dev port).1 (portPartner dev port).2 g).state = .equalise ∧
      (lanesOf u (portPartner dev port).1 (portPartner dev port).2 g).replays = 0) ∧
  (∀ (s : State) (dev port : Nat),
    let since := SMap.get 0 (s.device dev).portSince port
    (since ≠ 0 → since + 10000000 ≤ s.now + 1 → (∀ g, g < 8 → (lanesOf s dev port g).state ≠ .up) →
      ∃ u : State, exec (.portDown dev port) s = .next u ∧ SameThreads s u ∧ (u.device dev).isDown port = true) ∧
    (s.now + 1 < since + 10000000 ∨ (∃ g, g < 8 ∧ (lanesOf s dev port g).state = .up) →
      exec (.portDown dev port) s = .next s)) ∧
  (∀ (s : State) (dev port : Nat), ∃ u : State, exec (.linkFailure dev port) s = .next u ∧ SameThreads s u ∧
    ∀ g, g < 8 → lanesOf u dev port g = { lanesOf s dev port g with state := .down, replays := 0 }) ∧
  (∀ (s : State) (dev port g b : Nat), g < 8 → (lanesOf s dev port g).binding = some b →
    (lanesOf s dev port g).state ≠ .up →
    (∀ q h, 1 ≤ h → h ≤ 6 → LaneGroupFree s dev q h → (∀ k, 1 ≤ k → k < h → ¬ LaneGroupFree s dev q k) →
      (q = port ∨ q ≠ port ∧ q / 2 = port / 2 ∧ ∀ k, 1 ≤ k → k ≤ 6 → ¬ LaneGroupFree s dev port k) →
      ∃ u : State, exec (.bindingRelocate dev port g) s = .next u ∧ SameThreads s u ∧
        (lanesOf u dev port g).binding = none ∧ (lanesOf u dev q h).binding = some b ∧
        (lanesOf u dev q h).state = .up) ∧
    ((∀ p h, p / 2 = port / 2 → 1 ≤ h → h ≤ 6 → ¬ LaneGroupFree s dev p h) →
      exec (.bindingRelocate dev port g) s = .next s))

/-- R404: a host store inside the set of its bridge function writes its bytes and no other, a host read answers with the
bytes (up to 4 KiB), and a synchronising read answers with a full sector's 64 bytes and with all ones otherwise; outside
the set a store is discarded and a read answers Unsupported Request; an endpoint that is off answers nothing. Where an
access is allowed, its device is cabled as a bridge and a partition of the bridge's set owns the bytes. R403: an offset
names a stack of a device of the X-ring. R405: a 64-byte write to a launch window sends its record to the device that the
offset names; a write of another size is discarded and counted.
Readings and choices of the model that this rests on: log entry 67. -/
def Obligations.HostBridgeActs : Prop :=
  (∀ (s : State) (bridge a n : Nat), s.hostAccess bridge a n = .allowed → (s.device bridge).bridge = true ∧
    ∃ p, p < 16 ∧ bridge ∈ (s.partition p).bridges ∧ bridge ∈ (s.partition p).admitted ∧ (s.partition p).ownsHbm a n = true) ∧
  (∀ bridge r stack off, r < 8 → stack < 8 → off < 2 ^ 36 →
    barAddr bridge (r * 2 ^ 39 + stack * 2 ^ 36 + off) = some ((bridge / 8 * 8 + r) * 2 ^ 48 + stack * 2 ^ 36 + off)) ∧
  (∀ (s : State) (bridge fa : Nat) (off : Dword) (data : List Byte), barAddr bridge off.toNat = some fa →
    data.length ≤ 512 → s.spanInUse fa data.length = false →
    (s.hostAccess bridge fa data.length = .allowed →
      ∃ u : State, exec (.hostStore bridge off data) s = .next u ∧ u.threads = s.threads ∧ (∀ k, u.sector k = s.sector k) ∧
        ∀ a, u.byte a = if fa ≤ a ∧ a < fa + data.length then (data[a - fa]?).getD 0 else s.byte a) ∧
    (s.hostAccess bridge fa data.length = .outside →
      ∃ u : State, exec (.hostStore bridge off data) s = .next u ∧ SameThreads s u ∧
        (u.device bridge).fenceV = min ((s.device bridge).fenceV + 1) 0xFFFFFFFF) ∧
    (s.hostAccess bridge fa data.length = .off → exec (.hostStore bridge off data) s = .next s)) ∧
  (∀ (s : State) (bridge n fa : Nat) (off : Dword), barAddr bridge off.toNat = some fa →
    ∃ u : State, exec (.hostRead bridge off n) s = .next u ∧ SameThreads s u ∧
      u.hostReads = s.hostReads ++ [match s.hostAccess bridge fa n with
        | .allowed => if n ≤ 4096 then .data (s.bytes fa n) else .unsupported
        | .outside => .unsupported
        | .off => .none]) ∧
  (∀ (s : State) (bridge n fa : Nat) (off : Dword), barAddr bridge off.toNat = some fa →
    ∃ u : State, exec (.hostSyncRead bridge off n) s = .next u ∧ SameThreads s u ∧
      u.hostReads = s.hostReads ++ [
        if s.hostAccess bridge fa n = .off then .none
        else if n ≠ 64 ∨ fa % 64 ≠ 0 ∨ s.hostAccess bridge fa n = .outside then .unsupported
        else .data (if s.sector (fa / 64) = .full then s.bytes fa 64 else List.replicate 64 0xFF)]) ∧
  (∀ (s : State) (bridge page off : Nat) (data : List Byte), s.hostAccess bridge (bridge * 2 ^ 48) 0 ≠ .off →
    let part := page / 2
    let dev := bridge / 8 * 8 + off / 64
    let super := decide (page % 2 = 1)
    let l := launchOf data dev part super super (some bridge) none s.now s.nextLaunch
    (data.length = 64 → off % 64 = 0 → off < 512 → page < 32 → bridge ∈ (s.partition part).bridges →
      bridge ∈ (s.partition part).admitted → (dev ∈ (s.partition part).devices → dev ∈ (s.partition part).admitted) →
      s.queueLoad dev part l.prio < 64 →
      ∃ u : State, exec (.launchInvocation bridge page off data) s = .next u ∧ SameThreads s u ∧
        u.flits = s.flits ++ [.of (.launch false l bridge) none, .of (.launch true l bridge) none] ∧
        u.nextLaunch = s.nextLaunch + 1) ∧
    (data.length ≠ 64 → ∃ u : State, exec (.launchInvocation bridge page off data) s = .next u ∧
      OnlyDevice s u bridge { s.device bridge with launchDiscards := (s.device bridge).launchDiscards + 1 }))

/-- R320: a record reaches its queue's end once its image has been checked, waits while the queue is full, and asks for an
attestation where it names no image. R322, R325, R326, R36: a round admits the bid that has a place: its region takes the
places found, with the next identifiers, and leaves the queue; where it has none, no graph is admitted. R323: a bid at the
limit becomes blocking where none is; below the limit it does not. R327: a scheduler that holds no bid of its own answers a
reservation that has reached it with its best place, or refuses it, in a control flit.
Readings and choices of the model that this rests on: log entries 11, 45 and 47. -/
def Obligations.SchedulerAdmitsAndAnswers : Prop :=
  (∀ (s : State) (dev : Nat) (l : LaunchRec), (s.arrivals.find? fun r => r.dev = dev) = some l →
    (s.device dev).module = .up →
    (64 ≤ ((s.device dev).queue l.part l.prio).length → exec (.launchEnqueue dev) s = .next s) ∧
    (((s.device dev).queue l.part l.prio).length < 64 →
      (∀ r s1, ({ s with arrivals := s.arrivals.erase l } : State).checkLaunch l = .accept r s1 →
        ∃ u : State, exec (.launchEnqueue dev) s = .next u ∧
          OnlyDevice s1 u dev ((s1.device dev).setQueue l.part l.prio
            ((s1.device dev).queue l.part l.prio ++ [{ r with arrival := s1.now }]))) ∧
      (∀ s1, ({ s with arrivals := s.arrivals.erase l } : State).checkLaunch l = .attest s1 →
        ∃ u : State, exec (.launchEnqueue dev) s = .next u ∧ u.attestations = s1.attestations ++ [l] ∧ SameThreads s1 u))) ∧
  (∀ (s : State) (dev part : Nat) (l : LaunchRec), OnlyBid s dev part l →
    (∀ hs, s.bidCandidate (bidOf l) = some hs → (∀ h ∈ hs, h.dev = dev) →
      ∃ (u : State) (r : Region), exec (.schedulerRound dev part) s = .next u ∧ SameMemory s u ∧
        u.region s.nextRid = some r ∧ r.launch = l ∧ r.state = .starting ∧
        r.ctxId = BitVec.ofNat 64 s.nextCtx ∧ r.admission = s.nextAdmission ∧
        r.origins = hs.map (fun h => ⟨h.dev, h.ox, h.oy⟩) ∧ (∀ k, k ≠ s.nextRid → u.region k = s.region k) ∧
        u.nextRid = s.nextRid + 1 ∧ u.nextCtx = s.nextCtx + 1 ∧ u.nextAdmission = s.nextAdmission + 1 ∧
        (u.device dev).queue part l.prio = []) ∧
    (s.bidCandidate (bidOf l) = none →
      ∃ u : State, exec (.schedulerRound dev part) s = .next u ∧ SameMemory s u ∧ u.nextRid = s.nextRid ∧
        ((u.device dev).queue part l.prio).map (fun x => { x with blocking := l.blocking }) = [l])) ∧
  (∀ (s : State) (dev part : Nat) (l : LaunchRec), OnlyBid s dev part l →
    (l.blocking = true → exec (.bidBlocking dev part) s = .next s) ∧
    (l.bypass < ((s.device dev).pol part).bypassMax → exec (.bidBlocking dev part) s = .next s) ∧
    (((s.device dev).pol part).bypassMax ≤ l.bypass →
      ∃ u : State, exec (.bidBlocking dev part) s = .next u ∧ SameThreads s u ∧
        (u.device dev).queue part l.prio = [{ l with blocking := true }])) ∧
  (∀ (s : State) (dev part : Nat) (v : Reservation), s.reservations = [v] → v.dev = dev → v.bid.launch.dev ≠ dev →
    v.bid.launch.part = part → v.answer = .waiting → v.asked = true → (s.device dev).module = .up → (∀ p, p < 8 → (s.device dev).queue part p = []) →
    (∀ c ∈ s.regions, ∀ r, c.2 = some r → r.due = false) → s.doneRetry = [] →
    ∃ u : State, exec (.reservation dev part) s = .next u ∧ SameMemory s u ∧ u.regions = s.regions ∧
      let a : Answer := match s.bestIn s.holdings (s.needOf v.bid v.part) v.part dev v.slot v.bid.launch.dev with
        | some h => .placed h
        | none => .refused
      u.reservations = [{ v with answer := a }] ∧
        u.flits = s.flits ++ [.of (.sched (.reserved ⟨{ v.bid with blocking := false }, dev, v.part, v.slot, a, true, true⟩) dev
          v.bid.launch.dev) none])

/-- R36: the words and threads of a graph are laid down first; once every device has acknowledged, the graph is released
and is resident from then on. R37, R39: a thread begins at the first word of its stream with the argument, its position,
the shape and the image in g1 to g4 and zero in every other register, flag and tag. R329: an acknowledgement of the
scheduler's own device counts at once, another travels as a flit, and a report of a malformed word ends the graph before it
starts; nothing is acknowledged before the links of the graph are switched. R43, R44: a graph that meets the completion conditions ends with STATUS 0, one that is killed with STATUS 1; a
launch that is killed in its queue leaves it. That an ended graph keeps its tiles while its record waits is the model's reading.
Readings and choices of the model that this rests on: log entries 50, 53, 81 and 104. -/
def Obligations.GraphsStartAndEnd : Prop :=
  (∀ (s : State) (rid : Nat) (r : Region), s.region rid = some r → r.state = .starting → r.restoring = false →
    (∀ o ∈ r.origins, (s.device o.dev).module = .up) →
    (r.loaded = true → r.acks = [] → ∃ u : State, exec (.graphStart rid) s = .next u ∧
      OnlyRegion s u rid { r with state := .resident, tStart := s.now }) ∧
    (r.loaded = true → r.acks ≠ [] → exec (.graphStart rid) s = .next s) ∧
    (r.loaded = false → ∃ u : State, exec (.graphStart rid) s = .next u ∧
      ∀ r1, u.region rid = some r1 → r1.loaded = true → r1.badWord = 0 → ∀ k ∈ r.keys,
        ∃ t : Thread, u.thread k = some t ∧ t.rid = rid ∧ t.pc = 0 ∧ t.ctxId = r.ctxId ∧ t.readG 1 = r.launch.arg)) ∧
  (∀ (rid : Nat) (r : Region) (x : ImageInfo) (free part rx ry : Nat),
    let t := newThread rid r x free part rx ry
    t.pc = 0 ∧ t.readG 1 = r.launch.arg ∧ t.readG 2 = r.positionWord part rx ry ∧ t.readG 3 = r.shapeWord part ∧
    t.readG 4 = r.launch.image ∧ (∀ q, q ≠ 1 → q ≠ 2 → q ≠ 3 → q ≠ 4 → t.readG q = 0) ∧
    (∀ p, p ≠ 0 → t.readP p = false) ∧ t.flags = 0 ∧ t.tags = 0 ∧ t.energy = 0 ∧ t.loops = [] ∧
    t.srSeed = r.launch.seed ∧ t.super = r.launch.super) ∧
  (∀ (s : State) (rid dev : Nat) (r : Region), s.region rid = some r → r.state = .starting → r.loaded = true →
    dev ∈ r.acks → r.gateTick = none → (r.badWord = 0 → s.linksHeld r = true) →
    (dev = r.launch.dev → r.badWord = 0 → ∃ u : State, exec (.configAck rid dev) s = .next u ∧
      OnlyRegion s u rid { r with acks := r.acks.filter fun d => d != dev }) ∧
    (dev = r.launch.dev → r.badWord ≠ 0 → ∃ u : State, exec (.configAck rid dev) s = .next u ∧ HasEnded u rid) ∧
    (dev ≠ r.launch.dev → (∀ v ∈ s.flits, v.flit ≠ .sched (.configured rid) dev r.launch.dev) →
      ∃ u : State, exec (.configAck rid dev) s = .next u ∧ SameThreads s u ∧
        u.flits = s.flits ++ [.of (.sched (.configured rid) dev r.launch.dev) none])) ∧
  (∀ (s : State) (rid : Nat) (r : Region), s.region rid = some r → r.state = .resident → s.graphDone rid r = true →
    GraphEnds (.graphCompletion rid) s rid r 0) ∧
  (∀ (s : State) (rid : Nat) (r : Region), s.region rid = some r → rid < 2 ^ 32 →
    (r.state ≠ .ending → GraphEnds (.kill rid) s rid r 1) ∧ (r.state = .ending → exec (.kill rid) s = .next s)) ∧
  (∀ (s : State) (n : Nat) (l : LaunchRec), s.queuedLaunch n = some l →
    ∃ u : State, exec (.kill (2 ^ 32 + n)) s = .next u ∧ ∀ x ∈ (u.device l.dev).queue l.part l.prio, x.n ≠ l.n)

/-- R355: a graph on several dies is gated at a tick at least 2 µs ahead that its scheduler asks the other devices for;
where an acknowledgement is missing 200 ns before the tick, the request gives way to one for a new tick, and at the tick
every tile gates. R354,
R318: a pre-empted graph whose accesses have returned leaves its tiles for an image that holds its threads as they were,
and is due for restore; until they have returned it stays gated. R359: a restore puts each thread back with its PC,
registers and tags, and releases it once every die has acknowledged; R387: a lease is forfeited where the graph has moved.
R360: an update of a context reaches its thread, live or in its image; one for a context that has ended is dropped.
That a pre-empted graph is due for restore at once, and what a forfeited lease's fields hold, are the model's choices.
Readings and choices of the model that this rests on: log entries 29, 51, 54 and 106. -/
def Obligations.ContextsLeaveAndReturn : Prop :=
  (∀ (s : State) (rid tick : Nat) (r : Region), s.region rid = some r → r.state = .resident → r.gateTick = none →
    s.now + 2000 ≤ tick →
    let far := ((r.origins.map Origin.dev).dedup).filter fun d => d != r.launch.dev
    ∃ u : State, exec (.gateRequest rid tick) s = .next u ∧ SameMemory s u ∧ u.threads = s.threads ∧
      u.region rid = some { r with gateTick := some tick, acks := far } ∧
      u.flits = s.flits ++ far.map fun d => .of (.sched (.gate rid tick) r.launch.dev d) none) ∧
  (∀ (s : State) (rid g : Nat) (r : Region), s.region rid = some r → r.gateTick = some g →
    (r.acks ≠ [] → g ≤ s.now + 200 →
      let far := ((r.origins.map Origin.dev).dedup).filter fun d => d != r.launch.dev
      ∃ u : State, exec (.gateRequestWithdrawal rid) s = .next u ∧ SameMemory s u ∧ u.threads = s.threads ∧
        u.region rid = some { r with gateTick := some (s.now + 2000), acks := far } ∧
        u.flits = s.flits ++ far.map fun d => .of (.sched (.gate rid (s.now + 2000)) r.launch.dev d) none) ∧
    (r.acks = [] → r.state = .resident → g ≤ s.now →
      ∃ u : State, exec (.gate rid) s = .next u ∧ (∀ a, u.byte a = s.byte a) ∧
        u.region rid = some { r with state := .gated, gateTick := none, acks := [] } ∧
        ∀ c ∈ u.parked, c.2 ∉ r.keys)) ∧
  (∀ (s : State) (rid : Nat) (r : Region), s.region rid = some r →
    (r.state = .resident → r.oneDie = true →
      (∃ v ∈ s.flits, v.flit.of r.ctxId = true ∧ (v.dev ≠ v.flit.dst ∨ v.flit.sectors = [])) →
      ∃ u : State, exec (.preemption rid) s = .next u ∧ (∀ a, u.byte a = s.byte a) ∧
        u.region rid = some { r with state := .gated, gateTick := none, acks := [] }) ∧
    (∀ s1, r.state = .gated → (∀ q, s1.region rid = some q → s1.imageWaits q = false) → (∀ v ∈ s.flits, v.flit.of r.ctxId = false) →
      (∀ v ∈ s.invocations, v.who.ctx ≠ r.ctxId) → (∀ c ∈ s.pooled, ∀ f ∈ c.2.flits, f.1.of r.ctxId = false) →
      s.takeImageFrames rid r.imageSize (r.imageSize + 1) = (s1, true) → r.w ≤ 32 → r.h ≤ 32 →
      ∃ (u : State) (r1 : Region) (im : Image), exec (.preemption rid) s = .next u ∧ u.region rid = some r1 ∧
        r1.state = .saved ∧ r1.due = true ∧ r1.ctxId = r.ctxId ∧ r1.preempted = s.now ∧
        (∀ k ∈ r.keys, u.thread k = none) ∧ SMap.get none u.images rid = some im ∧
        ∀ c ∈ r.positions, SMap.get none im.threads (posKey c.1 c.2.1 c.2.2) = s.thread (r.keyAt c.1 c.2.1 c.2.2))) ∧
  (∀ (s : State) (rid : Nat) (r : Region) (im : Image), s.region rid = some r → SMap.get none s.images rid = some im →
    r.state = .starting → r.restoring = true → (∀ o ∈ r.origins, (s.device o.dev).module = .up) →
    (∀ c ∈ r.positions, SMap.get none im.staged (posKey c.1 c.2.1 c.2.2) = none ∨
      SMap.get none s.staging (r.tileAt c.1 c.2.1 c.2.2) = none) →
    ∃ u : State, exec (.restore rid) s = .next u ∧ SMap.get none u.images rid = none ∧
      u.region rid = some { r with loaded := true } ∧
      (r.keys.Nodup → ∀ c ∈ r.positions, ∀ t, SMap.get none im.threads (posKey c.1 c.2.1 c.2.2) = some t →
        ∃ t1 : Thread, u.thread (r.keyAt c.1 c.2.1 c.2.2) = some t1 ∧ t1.pc = t.pc ∧ (∀ q, t1.readG q = t.readG q) ∧
          (∀ p, t1.readP p = t.readP p) ∧ t1.tags = t.tags ∧ t1.flags = t.flags ∧ t1.items = t.items ∧
          t1.energy = t.energy)) ∧
  (∀ (s : State) (rid : Nat) (r : Region), s.region rid = some r → SMap.get none s.images rid = none →
    r.state = .starting → r.restoring = true → r.loaded = true → (∀ o ∈ r.origins, (s.device o.dev).module = .up) →
    (r.acks ≠ [] → exec (.restore rid) s = .next s) ∧
    (r.acks = [] → ∃ u : State, exec (.restore rid) s = .next u ∧ SameMemory s u ∧
      u.region rid = some { r with
        state := .resident, restoring := false, moved := false
        lease := if r.moved then { askers := r.lease.askers, asked := r.lease.asked } else r.lease } ∧
      (r.keys.Nodup → ∀ k ∈ r.keys, ∀ t, s.thread k = some t → u.thread k = some { t with
        cb := t.cb.map fun e => { e with opened := e.opened + (s.now - r.preempted) } }))) ∧
  (∀ (s : State) (w : Update) (l : List Update), s.updates = w :: l →
    (∀ t, s.thread w.key = some t → t.ctxId = w.ctx →
      ∃ u : State, exec .imageUpdate s = .next u ∧ SameMemory s u ∧ u.updates = l ∧ u.thread w.key = some (t.apply w)) ∧
    (∀ (rid : Nat) (r : Region) (im : Image) (c : Nat × Nat × Nat) (t : Thread), s.thread w.key = none →
      s.regions = [(rid, some r)] → r.ctxId = w.ctx →
      (r.positions.find? fun c => r.keyAt c.1 c.2.1 c.2.2 = w.key) = some c →
      SMap.get none s.images rid = some im → SMap.get none im.threads (posKey c.1 c.2.1 c.2.2) = some t →
      let h := r.imageAddr (((c.1 * r.h + c.2.2) * r.w + c.2.1) * r.tileImage)
      ∃ (u : State) (im1 : Image), exec .imageUpdate s = .next u ∧ u.updates = l ∧
        (∀ a, a < h ∨ h + 0x1000 ≤ a → u.byte a = s.byte a) ∧ (∀ k, u.sector k = s.sector k) ∧
        SMap.get none u.images rid = some im1 ∧
        SMap.get none im1.threads (posKey c.1 c.2.1 c.2.2) = some (t.apply w)) ∧
    (s.thread w.key = none → (∀ c ∈ s.regions, ∀ r, c.2 = some r → r.ctxId ≠ w.ctx) →
      exec .imageUpdate s = .next { s with updates := l })) ∧
  (∀ (t : Thread) (w : Update), w.regs = [] → w.badSparse = 0 → w.tag = none →
    (t.apply w).flags = t.flags ||| (w.flags &&& 0x7F#64) ∧
    (w.performed = true → ∀ j, j ∈ (t.apply w).outstanding ↔ j ∈ t.outstanding ∧ j ≠ w.id))

/-- R328: word 0 of a policy record takes BYPASS_MAX (but not 0), XPEN, WEAR_W, PREEMPT_MIN and PREEMPT_EN and reads back;
MSQ is Tree's alone, within the device's 65,536 blocks and not below what is charged. R385, R364: power records and energy
weights take what is written but act from the next interval on. R312: a store to device control space is the write of the
record at its offset while there is power; a location that is not listed ignores it; a load answers with the record's word.
R317: a write by Tack to memory of a partition is a fence violation, and performs nothing. R316: a unit of a
resource moves to its new owner alone, scrubbed, and not while the old owner uses it.
Readings and choices of the model that this rests on: log entries 62 and 63. -/
def Obligations.ManagementWritesTakeEffect : Prop :=
  (∀ (s : State) (dev part word : Nat) (v : Dword),
    (¬ CoreActs s dev true → exec (.policyRecordWrite dev part word v false) s = .next s ∧
      exec (.powerRecordWrite dev part v) s = .next s) ∧
    (¬ CoreActs s dev false → exec (.policyRecordWrite dev part word v true) s = .next s ∧
      exec (.energyWeightWrite dev word v) s = .next s)) ∧
  (∀ (s : State) (dev part : Nat) (v : Dword) (tree : Bool) (i : Instr), part < 16 →
    (i = .policyRecordWrite dev part 0 v tree ∧ CoreActs s dev (!tree) ∨
      i = .controlSpaceWrite dev (0x10000 + 64 * part) v ∧ (s.device dev).module ≠ .dead) →
    let p := (s.device dev).pol part
    let q : Policy := { p with
      bypassMax := if v.toNat % 2 ^ 8 = 0 then p.bypassMax else v.toNat % 2 ^ 8
      xpen := v.toNat / 2 ^ 8 % 2 ^ 8, wearW := v.toNat / 2 ^ 16 % 2 ^ 8, preemptMin := v.toNat / 2 ^ 24 % 2 ^ 3
      preemptEn := v.getLsbD 27 }
    ∃ u : State, exec i s = .next u ∧ OnlyDevice s u dev ((s.device dev).setPol part q) ∧
      (v.toNat % 2 ^ 8 ≠ 0 → (u.device dev).policyWord part 0 = v.toNat % 2 ^ 28)) ∧
  (∀ (s : State) (dev part : Nat) (v : Dword), part < 16 →
    let others := (((List.range 16).filter fun q => q != part).map fun q => ((s.device dev).pol q).msq).sum
    (exec (.policyRecordWrite dev part 1 v false) s = .next s) ∧
    (CoreActs s dev false → others + v.toNat % 2 ^ 17 ≤ 65536 → s.msCharge part dev none s.nextLaunch ≤ v.toNat % 2 ^ 17 * 4096 →
      ∃ u : State, exec (.policyRecordWrite dev part 1 v true) s = .next u ∧
        OnlyDevice s u dev ((s.device dev).setPol part { (s.device dev).pol part with msq := v.toNat % 2 ^ 17 })) ∧
    (65536 < others + v.toNat % 2 ^ 17 → exec (.policyRecordWrite dev part 1 v true) s = .next s)) ∧
  (∀ (s : State) (dev part : Nat) (v : Dword) (i : Instr), part < 16 →
    (i = .powerRecordWrite dev part v ∧ CoreActs s dev true ∨
      i = .controlSpaceWrite dev (0x40000 + 64 * part) v ∧ (s.device dev).module ≠ .dead) →
    ∃ (u : State) (d : Device) (q : Power), exec i s = .next u ∧ OnlyDevice s u dev d ∧
      { d with powerWritten := (s.device dev).powerWritten } = s.device dev ∧ SMap.get {} d.powerWritten part = q ∧
      q.base = (if v.toNat % 2 ^ 6 ≤ 56 then v.toNat % 2 ^ 6 else (SMap.get {} (s.device dev).powerWritten part).base) ∧
      q.boostEn = v.getLsbD 8 ∧ q.thot = v.toNat / 2 ^ 16 % 2 ^ 8 ∧ q.pace = v.toNat / 2 ^ 24 % 2 ^ 8) ∧
  (∀ (s : State) (dev word : Nat) (v : Dword) (i : Instr), word ≤ 16 →
    (i = .energyWeightWrite dev word v ∧ CoreActs s dev false ∨
      i = .controlSpaceWrite dev (0x30000 + 8 * word) v ∧ (s.device dev).module ≠ .dead) →
    ∃ u : State, exec i s = .next u ∧ (u.device dev).weightWord word = v.toNat % 2 ^ 32 ∧
      (∀ k, (u.device dev).weight k = (s.device dev).weight k) ∧
      (∀ k, k ≠ word → (u.device dev).weightWord k = (s.device dev).weightWord k) ∧
      { u with devices := s.devices } = s) ∧
  (∀ (s : State) (dev off : Nat) (v : Dword), off % 2 ^ 39 < 0x10000 ∨ 0x240000 ≤ off % 2 ^ 39 →
    exec (.controlSpaceWrite dev off v) s = .next s) ∧
  (∀ (s : State) (dev part : Nat) (l : List Turn), part < 16 → s.agenda = .controlRead dev (0x10000 + 64 * part) :: l →
    (s.device dev).module ≠ .dead →
    ∃ u : State, step s = .next u ∧
      u.coreReads = s.coreReads ++ [BitVec.ofNat 64 ((s.device dev).policyWord part 0)] ∧
      { u with coreReads := s.coreReads, agenda := s.agenda } = s) ∧
  (∀ (s : State) (dev die q owner : Nat),
    let k := dev * 224 + die * 56 + q
    let used (p : Nat) : Bool := s.partitionBusy p fun r =>
      r.state != .saved && r.keys.any fun y => quadKey (keyTile y) = k
    ((∀ p, p < 16 → k ∈ (s.partition p).quads → used p = false) →
      (owner < 16 → ∃ j ∈ (s.partition owner).quads, j / 224 = dev) →
      ∃ u : State, exec (.partitionChange (.quad dev die q) owner) s = .next u ∧ u.threads = s.threads ∧
        (∀ p, p < 16 → (k ∈ (u.partition p).quads ↔ p = owner)) ∧
        (∀ a, vaultAddr k 0 ≤ a → a < vaultAddr k 0 + 2 ^ 21 → u.byte a = 0 ∧ u.sector (a / 64) = .empty)) ∧
    (∀ p, p < 16 → k ∈ (s.partition p).quads → used p = true →
      exec (.partitionChange (.quad dev die q) owner) s = .next s)) ∧
  (∀ (s : State) (lo n owner : Nat), 0 < n → owner < 16 → isHbm (lo * 2 ^ 21) = true →
    isHbm ((lo + n) * 2 ^ 21 - 1) = true → ((lo + n) * 2 ^ 21 - 1) / 2 ^ 48 = lo * 2 ^ 21 / 2 ^ 48 →
    (∀ p, p < 16 → ∀ c ∈ (s.partition p).hbm, meets c.1 c.2 lo n = false) → (s.partition owner).hbm.length < 16 →
    ∃ u : State, exec (.partitionChange (.hbm lo n) owner) s = .next u ∧ u.threads = s.threads ∧
      (u.partition owner).hbm = (s.partition owner).hbm ++ [(lo, n)] ∧
      (∀ a, lo * 2 ^ 21 ≤ a → a < (lo + n) * 2 ^ 21 → u.byte a = 0 ∧ u.sector (a / 64) = .empty)) ∧
  (∀ (s : State) (dev owner : Nat), owner < 16 →
    ∃ u : State, exec (.partitionChange (.device dev) owner) s = .next u ∧ SameThreads s u ∧
      dev ∈ (u.partition owner).devices) ∧
  (∀ (s : State) (dev fa p : Nat) (v : Dword) (l : List Turn), s.agenda = .coreWrite dev true fa v :: l →
    (s.device dev).module = .up → isHbm fa = true → addrDev fa = dev → p < 16 →
    (s.partition p).ownsHbm (fa / 8 * 8) 8 = true →
    ∃ u : State, step s = .next u ∧ SameThreads s u ∧ (u.device dev).fenceV = min ((s.device dev).fenceV + 1) 0xFFFFFFFF) ∧
  (∀ (s : State) (dev fa : Nat) (tack : Bool) (v : Dword) (x : Turn) (l : List Turn), s.agenda = x :: l →
    x = .coreWrite dev tack fa v ∨ x = .coreRead dev tack fa → CoreActs s dev tack → fa < 2 ^ 56 → addrDev fa = dev →
    3 ≤ fa / 2 ^ 39 % 2 ^ 9 →
    ∃ u : State, step s = .next u ∧ SameThreads s u ∧ u.coreFaults = s.coreFaults ++ [(dev, tack, fa)]) ∧
  (∀ (s : State) (bridge part : Nat), part < 16 → (s.device bridge).bridge = true →
    ∃ u : State, exec (.partitionChange (.window bridge part) part) s = .next u ∧ SameThreads s u ∧
      bridge ∈ (u.partition part).bridges)

/-- R386: at an interval boundary the records and weights that were written come into force, with the settings of the HBM
stacks (R390), and each die's caps are those of its sensors; once every device that is up has come to the boundary, the code
of every graph is at most the cap of each of its dies; between boundaries nothing happens. A lease whose time is used up ends. R390: a stack's temperature code is stored, a read that fails counts as 7.
R391: each quad's record takes the life that its sensor predicts and its wear index. R366: a clock's static share is
charged to each resident thread of the tile, floor(S / n).
Readings and choices of the model that this rests on: log entries 57 and 60. -/
def Obligations.PowerControlTakesEffect : Prop :=
  (∀ (s : State) (dev : Nat) (rs : List SensorReading),
    (s.now % 50000 ≠ 0 ∨ s.now < (s.device dev).interval ∨ (s.device dev).module ≠ .up →
      exec (.powerInterval dev rs) s = .next s) ∧
    (s.now % 50000 = 0 → (s.device dev).interval ≤ s.now → (s.device dev).module = .up →
      ∃ u : State, exec (.powerInterval dev rs) s = .next u ∧ SameMemory s u ∧ u.threads = s.threads ∧
        (u.device dev).power = (s.device dev).powerWritten ∧ (u.device dev).interval = s.now + 1 ∧
        (u.device dev).hbmSet = (s.device dev).hbmTemp ∧
        (∀ k, SMap.wf none (s.device dev).weightsNext = true →
          (u.device dev).weight k = (SMap.get none (s.device dev).weightsNext k).getD ((s.device dev).weight k)) ∧
        (∀ x, rs = [x] → u.thermalCap (dev, x.die) = min x.tc 56 ∧ u.currentCap (dev, x.die) = min x.cc 56) ∧
        (SMap.wf none s.regions = true → (∀ k ∈ s.upDevices, k ≠ dev → s.now < (s.device k).interval) →
          ∀ rid r, u.region rid = some r → r.state ≠ .saved → ∀ d ∈ r.dies, r.curCode ≤ u.capOf d))) ∧
  (∀ (s : State) (rid : Nat) (r : Region), s.region rid = some r →
    ∃ (u : State) (l : Lease), exec (.leaseEnd rid) s = .next u ∧ OnlyRegion s u rid { r with lease := l } ∧
      (r.lease.state = 2 → r.lease.remain = 0 → l = { r.lease with state := 0 }) ∧
      (r.lease.state ≠ 2 ∨ r.lease.remain ≠ 0 → l = r.lease)) ∧
  (∀ (s : State) (dev stack : Nat) (code : Option (BitVec 3)), stack < 8 →
    ∃ (u : State) (d : Device), exec (.hbmTempRead dev stack code) s = .next u ∧ OnlyDevice s u dev d ∧
      (∀ k, SMap.get 0 d.hbmTemp k = if k = stack then code.getD 7 else SMap.get 0 (s.device dev).hbmTemp k)) ∧
  (∀ (s : State) (dev : Nat) (eolh : List (BitVec 32)), eolh.length = 224 →
    let most := (eolh.map BitVec.toNat).foldl max 0
    ∃ (u : State) (d : Device), exec (.wearUpdate dev eolh) s = .next u ∧ OnlyDevice s u dev d ∧
      ∀ (i : Nat) (e : BitVec 32), eolh[i]? = some e →
        let k := i / 56 * 64 + i % 56
        (SMap.get {} d.wear k).eolh = e ∧ (SMap.get {} d.wear k).temp = (SMap.get {} (s.device dev).wear k).temp ∧
        (most ≠ 0 → (SMap.get {} d.wear k).wear = BitVec.ofNat 8 (255 * (most - e.toNat) / most))) ∧
  (∀ (s : State) (tile : Nat),
    let counts (k : Nat) : Bool := match s.thread k with
      | some t => t.resident && (match s.region t.rid with | some r => r.acts s.now | none => false)
      | none => false
    let n := (((List.range 4).map fun i => tile * 4 + i).filter counts).length
    let code := ((s.device (tileDev tile)).tileCode (tileIndex tile)).1
    let share := (s.device (tileDev tile)).weight 16 * 60 / (24 + code) / n
    ∃ u : State, exec (.staticShare tile) s = .next u ∧ SameMemory s u ∧ { u with threads := s.threads } = s ∧
      (∀ k, k / 4 ≠ tile ∨ counts k = false → u.thread k = s.thread k) ∧
      (∀ k t, k / 4 = tile → counts k = true → s.thread k = some t →
        u.thread k = some { t with energy := BitVec.ofNat 64 (min (t.energy.toNat + share) (2 ^ 64 - 1)) }))

/-- R371, R372, R378: a power-fail trap ends every graph of the module without a record, opens a cinch and enters hold-up
mode; launch records stay queued (R332); no byte of HBM changes where no walker resolves a lazy page and
no store has been issued that has not performed; a module that is still booting saves nothing. R373: when the reserve is used up the module is
dead; when supply returns to a module whose cinch is closed it starts cold. R406: a power-on or cold reset clears the module
but its store and boots it from step 1, a warm reset, and Tack's watchdog, from step 5; a reset of a module in hold-up mode does nothing.
R407: the last step of the boot brings the module up and admits its partitions there. R411: Tree takes the oldest
attestation request of its device, which waits while its buffer's pages are not ready; a report's signed part is 256 bytes.
Readings and choices of the model that this rests on: log entries 68 and 71. -/
def Obligations.SupplyAndResetsAct : Prop :=
  (∀ (s : State) (dev : Nat),
    ((s.device dev).module = .up → ∃ (u : State) (c : Cinch), exec (.powerFail dev) s = .next u ∧
      (u.device dev).module = .holdUp false ∧ (u.device dev).cinch = some c ∧ c.tPf = s.now ∧ c.entries = [] ∧
      (u.device dev).queues = (s.device dev).queues ∧
      ((∀ w ∈ s.walks, w.quad / 224 ≠ dev) → (∀ v ∈ s.flits, v.dev = dev → v.flit.written = []) →
        (∀ c ∈ s.threads, ∀ t, c.2 = some t → keyDev c.1 = dev → t.pool = []) →
        ∀ a, a < 2 ^ 60 → u.byte a = s.byte a) ∧
      (∀ rid r, s.region rid = some r → (∃ o ∈ r.origins, o.dev = dev) → u.region rid = none) ∧
      (∀ f ∈ u.flits, f.meets dev = false)) ∧
    (∀ n, (s.device dev).module = .booting n → ∃ u : State, exec (.powerFail dev) s = .next u ∧ SameThreads s u ∧
      (u.device dev).module = .holdUp true) ∧
    (∀ b, (s.device dev).module = .holdUp b → exec (.powerFail dev) s = .next s)) ∧
  (∀ (s : State) (dev : Nat) (b : Bool), (s.device dev).module = .holdUp b →
    (∃ u : State, exec (.reserveExhausted dev) s = .next u ∧
      OnlyDevice s u dev { s.device dev with module := .dead, cinch := none }) ∧
    exec (.coldReset dev) s = .next s ∧ exec (.warmReset dev) s = .next s) ∧
  (∀ (s : State) (dev : Nat) (i : Instr),
    ((i = .supplyReturn dev ∨ i = .powerOnReset dev) ∧ (s.device dev).module = .holdUp true ∨
      i = .powerOnReset dev ∧ (s.device dev).module = .dead ∨
      i = .coldReset dev ∧ ((s.device dev).module = .up ∨ (s.device dev).module = .recovery ∨
        ∃ n, (s.device dev).module = .booting n)) →
    ∃ u : State, exec i s = .next u ∧ Cleared s u dev 1 ∧
      (NoGraphOn s dev → (∀ w ∈ s.walks, w.quad / 224 ≠ dev) → ∀ a, 2 ^ 62 ≤ a → u.byte a = s.byte a)) ∧
  (∀ (s : State) (dev : Nat) (i : Instr), i = .warmReset dev ∨ i = .tackWatchdog dev →
    ((s.device dev).module = .up ∨ ∃ n, 6 ≤ n ∧ (s.device dev).module = .booting n) →
    ∃ u : State, exec i s = .next u ∧ (u.device dev).warm = true ∧ (u.device dev).storeSeq = (s.device dev).storeSeq ∧
      Cleared s u dev 5) ∧
  (∀ (s : State) (dev : Nat), (s.device dev).module = .booting 7 →
    ((s.bootStep dev).device dev).module = .up ∧
    ∀ n, n < 16 → dev ∈ (s.partition n).devices → dev ∈ ((s.bootStep dev).partition n).admitted) ∧
  (∀ (s : State) (dev : Nat) (l : LaunchRec), (s.device dev).module = .up →
    (s.attestations.find? fun l => l.dev = dev) = some l →
    let asked : State := { s with attestations := s.attestations.erase l }
    ((∀ x, asked.attestTo l ≠ .busy x) →
      ∃ u : State, exec (.attestationRequest dev) s = .next u ∧ u.attestations = s.attestations.erase l) ∧
    (∀ x, asked.attestTo l = .busy x →
      ∃ u : State, exec (.attestationRequest dev) s = .next u ∧ u.attestations = s.attestations)) ∧
  (∀ (s : State) (dev part : Nat) (nonce : List Byte), nonce.length = 32 →
    (s.attestationBody dev part nonce).length = 256 ∧ field (s.attestationBody dev part nonce) 0 4 = 0x47415431 ∧
    field (s.attestationBody dev part nonce) 0x18 8 = s.now % 2 ^ 64)

/-! Invariants, reset, and reading back. -/

/-- The model's own invariant, over the bytes of R1 and R102: every step that answers a next state, whatever instruction or
event it is, keeps memory in its canonical form: addresses strictly rising, and no byte listed that reads as an unlisted
one does. -/
def Obligations.StepKeepsMemoryForm : Prop :=
  ∀ s u : State, Memory.wf s → step s = .next u → Memory.wf u

/-- R406, R407, R328, R385, R363, R364, R335: right after power-on every byte of memory reads 0, every sector is empty,
every module is at step 1 of its boot, no thread and no graph exists, no partition is admitted or has a translation root,
and the policy, power and weight records hold their reset values. Memory has its canonical form.
Readings and choices of the model that this rests on: log entries 8 and 10. -/
def Obligations.ResetState : Prop :=
  Memory.wf State.reset ∧ (∀ a, State.reset.byte a = 0) ∧ (∀ k, State.reset.sector k = .empty) ∧
  (∀ k, State.reset.thread k = none) ∧ (∀ k, State.reset.region k = none) ∧ State.reset.flits = [] ∧
  (∀ n, (State.reset.partition n).ptRoot = 0 ∧ (State.reset.partition n).fpool = 0 ∧
    (State.reset.partition n).admitted = []) ∧
  (∀ dev, (State.reset.device dev).module = .booting 1 ∧
    (∀ p, let x := (State.reset.device dev).pol p
      x.bypassMax = 16 ∧ x.xpen = 32 ∧ x.wearW = 1 ∧ x.preemptMin = 7 ∧ x.preemptEn = false ∧ x.msq = 0) ∧
    (∀ p, let x := (State.reset.device dev).pow p
      x.base = 36 ∧ x.boostEn = false ∧ x.thot = 95 ∧ x.pace = 8) ∧
    (State.reset.device dev).weight 0 = 1024 ∧ (State.reset.device dev).weight 12 = 63488 ∧
    (State.reset.device dev).weight 16 = 29184 ∧ (State.reset.device dev).fenceV = 0)

/-- R1, R147, R121: bytes written are read back and every other byte reads as before; g0, p0 and k0 read 0, true and the
empty sets whatever is written, every other register, predicate and token reads what was written, and no write changes
another. Each memory operation keeps the canonical form. -/
def Obligations.WritesReadBack : Prop :=
  (∀ (s : State) (a : Nat) (bs : List Byte), (s.writeBytes a bs).bytes a bs.length = bs ∧
    (∀ b, b < a ∨ a + bs.length ≤ b → (s.writeBytes a bs).byte b = s.byte b) ∧
    (Memory.wf s → Memory.wf (s.writeBytes a bs) ∧ Memory.wf (s.storeBytes a bs) ∧ ∀ n, Memory.wf (s.scrub a n))) ∧
  (∀ (s : State) (a v n : Nat), (s.writeBytes a (leBytes v n)).readNat a n = v % 2 ^ (8 * n)) ∧
  (∀ (t : Thread) (d q : Reg) (v : Dword), (t.writeG d v).readG q = if q = 0 then 0 else if q = d then v else t.readG q) ∧
  (∀ (t : Thread) (d q : BitVec 3) (v : Bool),
    (t.writeP d v).readP q = if q = 0 then true else if q = d then v else t.readP q) ∧
  (∀ (t : Thread) (d q : BitVec 4) (x : TokSet),
    (t.setToken d x).token q = if q = 0 then {} else if q = d then x else t.token q)
end

