-- ==== Sys2Proof/Tests/Slice0.lean ====
section
/-!
SUPPORT. Tests of single steps, with results worked out by hand from the manual; the refusal of ill-formed
instructions; and, for each statement, a named witness of its hypotheses.
-/

set_option Elab.async false

namespace Sys2Proof.Tests

open Sys2Proof Sys2Proof.Machine Sys2Proof.Claims

/-! Ill-formed terms that WellFormed refuses, one for each check. -/

theorem test_wf_guard : (Instr.add 1 2 3 ⟨0, 1⟩).wf = false := by decide
theorem test_wf_rounding : (Instr.fadd 1 2 3 ⟨0, 0⟩ 5).wf = false := by decide
theorem test_wf_compare : (Instr.fcmp 1 2 3 ⟨0, 0⟩ 5).wf = false := by decide
theorem test_wf_select : (Instr.sel 1 2 3 ⟨0, 0⟩ 1 0).wf = false := by decide
theorem test_wf_branch : (Instr.br 0 1 4).wf = false ∧ (Instr.call 0 1 4).wf = false := by decide
theorem test_wf_loop_length : (Instr.loop 1 2 0).wf = false := by decide
theorem test_wf_saveset : (Instr.saveset 1 65).wf = false ∧ (Instr.saveset 1 64).wf = true := by decide
theorem test_wf_cas_pair : (Instr.amoCas 3 2 0 0 0 0).wf = false ∧ (Instr.amoCas 0 2 0 0 0 0).wf = false := by decide
theorem test_wf_invoke_pair : (Instr.invoke 5 2 0 1 0 0).wf = false := by decide
theorem test_wf_dsync : (Instr.dsync 5).wf = false ∧ (Instr.dsync 4).wf = true := by decide
theorem test_wf_bind_port : (Instr.bind 1 5 0 0 0).wf = false ∧ (Instr.bind 1 25 0 0 0).wf = false := by decide
theorem test_wf_bind_source_tag : (Instr.bind 1 0 0 1 0).wf = false ∧ (Instr.bind 1 0 0 0 3).wf = false := by decide
theorem test_wf_bind_sink_tag : (Instr.bind 1 2 0 0 3).wf = false ∧ (Instr.bind 1 2 0 1 3).wf = true := by decide
theorem test_wf_table_engine : (Instr.tctlStop 13).wf = false ∧ (Instr.tctlResume 15).wf = false ∧
    (Instr.tctlStat 13 1).wf = false := by decide
theorem test_wf_table_index : (Instr.tctlStart 12 7).wf = true ∧ (Instr.tctlStart 8 2).wf = false ∧
    (Instr.tctlStart 14 1).wf = false := by decide
theorem test_wf_lim_shift : (Instr.lim 1 (some (.shift 1 2 0 5))).wf = false := by decide
theorem test_wf_lim_lui : (Instr.lim 0x8000 (some (.lui 1 2 0))).wf = false ∧
    (Instr.lim 0x3FF8000 (some (.lui 1 2 0))).wf = true := by decide
theorem test_wf_lim_csr : (Instr.lim 1 (some (.csrw 1 0))).wf = false := by decide
theorem test_wf_lim_loop : (Instr.lim 0 (some (.loop 1 2 0))).wf = false ∧ (Instr.lim 1 (some (.loop 1 2 4))).wf = false := by
  decide
theorem test_wf_lim_dsync : (Instr.lim 0 (some (.dsync 5))).wf = false := by decide

/-! A machine for single steps: one running thread on tile 0 of device 0. -/

/-- The thread at PC 8 of a stream of 64 words, with two registers and a predicate set. -/
def at8 (a b : Dword) : Thread :=
  { rid := 1, words := 64, pc := 8, ctxId := 1, g := [(6, a), (7, b)], p := [(2, true)] }

/-- The machine in which `t` issues. -/
def on (t : Thread) : State := { State.reset with threads := [(0, some t)], regions := [(1, some probeRegion)] }

/-- What an instruction leaves of its thread. -/
def after (i : Instr) (t : Thread) : Option Thread :=
  match exec i (on t) with
  | .next u => u.thread 0
  | _ => none

/-- What g5 reads after an instruction on g6 = a and g7 = b. -/
def g5 (i : Instr) (a b : Dword) : Option Dword := (after i (at8 a b)).map fun t => t.readG 5

/-- What g5 and FLAGS read after an FP32 instruction. -/
def f5 (i : Instr) (a b : Dword) : Option (Dword × Dword) := (after i (at8 a b)).map fun t => (t.readG 5, t.flags)

/-- What p3 reads after an instruction. -/
def p3 (i : Instr) (a b : Dword) : Option Bool := (after i (at8 a b)).map fun t => t.readP 3

/-- The guard that always holds. -/
abbrev G : Guard := ⟨0, 0⟩

theorem test_add_wraps : g5 (.add 5 6 7 G) (-1) 1 = some 0 := by decide +kernel
theorem test_add_false_guard : g5 (.add 5 6 7 ⟨3, 0⟩) 2 3 = some 0 := by decide +kernel
theorem test_sub_order : g5 (.sub 5 6 7 G) 0 1 = some (-1) := by decide +kernel
theorem test_and : g5 (.and 5 6 7 G) 12 10 = some 8 := by decide +kernel
theorem test_or : g5 (.or 5 6 7 G) 12 10 = some 14 := by decide +kernel
theorem test_xor : g5 (.xor 5 6 7 G) 12 10 = some 6 := by decide +kernel
theorem test_andn : g5 (.andn 5 6 7 G) 12 10 = some 4 := by decide +kernel
theorem test_shl_count_mod_64 : g5 (.shl 5 6 7 G) 3 65 = some 6 := by decide +kernel
theorem test_shr_zero_fill : g5 (.shr 5 6 7 G) (-1) 63 = some 1 := by decide +kernel
theorem test_sra_sign_fill : g5 (.sra 5 6 7 G) (-8) 1 = some (-4) := by decide +kernel
theorem test_rol_top_bit : g5 (.rol 5 6 7 G) 0x8000000000000001 1 = some 3 := by decide +kernel
theorem test_min_signed : g5 (.min 5 6 7 G) (-1) 1 = some (-1) := by decide +kernel
theorem test_max_signed : g5 (.max 5 6 7 G) (-1) 1 = some 1 := by decide +kernel
theorem test_minn_unsigned : g5 (.minn 5 6 7 G) (-1) 1 = some 1 := by decide +kernel
theorem test_maxn_unsigned : g5 (.maxn 5 6 7 G) (-1) 1 = some (-1) := by decide +kernel
theorem test_slt_signed : g5 (.slt 5 6 7 G) (-1) 1 = some 1 := by decide +kernel
theorem test_sltn_unsigned : g5 (.sltn 5 6 7 G) (-1) 1 = some 0 := by decide +kernel
theorem test_seq : g5 (.seq 5 6 7 G) 9 9 = some 1 := by decide +kernel
theorem test_clz_zero : g5 (.clz 5 7 G) 0 0 = some 64 := by decide +kernel
theorem test_ctz : g5 (.ctz 5 6 G) 8 0 = some 3 := by decide +kernel
theorem test_popc : g5 (.popc 5 6 G) 0xFF00 0 = some 8 := by decide +kernel
theorem test_bswap : g5 (.bswap 5 6 G) 0x0102030405060708 0 = some 0x0807060504030201 := by decide +kernel
theorem test_sext_i8 : g5 (.sextI8 5 6 G) 0x180 0 = some (-128) := by decide +kernel
theorem test_sext_i16 : g5 (.sextI16 5 6 G) 0x18000 0 = some (-32768) := by decide +kernel
theorem test_sext_i32 : g5 (.sextI32 5 6 G) 0x180000000 0 = some (-2147483648) := by decide +kernel
theorem test_zext_n8 : g5 (.zextN8 5 6 G) 0x1FF 0 = some 0xFF := by decide +kernel
theorem test_zext_n16 : g5 (.zextN16 5 6 G) 0x1FFFF 0 = some 0xFFFF := by decide +kernel
theorem test_zext_n32 : g5 (.zextN32 5 6 G) (-1) 0 = some 0xFFFFFFFF := by decide +kernel
theorem test_mul_low_half : g5 (.mul 5 6 7 G) 0x100000000 0x100000001 = some 0x100000000 := by decide +kernel
theorem test_mulh_signed : g5 (.mulh 5 6 7 G) (-1) 2 = some (-1) := by decide +kernel
theorem test_mulhn_unsigned : g5 (.mulhn 5 6 7 G) (-1) 2 = some 1 := by decide +kernel
theorem test_div_truncates : g5 (.div 5 6 7 G) (-7) 2 = some (-3) := by decide +kernel
theorem test_div_by_zero : g5 (.div 5 6 7 G) 9 0 = some (-1) := by decide +kernel
theorem test_divn : g5 (.divn 5 6 7 G) (-1) 2 = some 0x7FFFFFFFFFFFFFFF := by decide +kernel
theorem test_rem_sign_of_dividend : g5 (.rem 5 6 7 G) (-7) 2 = some (-1) := by decide +kernel
theorem test_rem_overflow : g5 (.rem 5 6 7 G) 0x8000000000000000 (-1) = some 0 := by decide +kernel
theorem test_remn_by_zero : g5 (.remn 5 6 7 G) 9 0 = some 9 := by decide +kernel
theorem test_addi_sign : g5 (.addi 5 6 0xFFFF) 1 0 = some 0 := by decide +kernel
theorem test_andi_sign : g5 (.andi 5 6 0xFFF0) 0x1234567F 0 = some 0x12345670 := by decide +kernel
theorem test_ori : g5 (.ori 5 6 0x0F) 0x30 0 = some 0x3F := by decide +kernel
theorem test_xori_sign : g5 (.xori 5 6 0xFFFF) 0 0 = some (-1) := by decide +kernel
theorem test_shli : g5 (.shli 5 6 63) 3 0 = some 0x8000000000000000 := by decide +kernel
theorem test_shri : g5 (.shri 5 6 60) (-1) 0 = some 15 := by decide +kernel
theorem test_srai : g5 (.srai 5 6 60) 0x8000000000000000 0 = some (-8) := by decide +kernel
theorem test_roli : g5 (.roli 5 6 4) 0xF000000000000001 0 = some 0x1F := by decide +kernel
theorem test_lui_keeps_low_half : g5 (.lui 5 6 0x8000) 0x12345678 0 = some 0xFFFF800012345678 := by decide +kernel
theorem test_lim_addi : g5 (.lim 0x3FF89AB (some (.addi 5 0 0xCDEF))) 0 0 = some 0xFFFFFFFF89ABCDEF := by decide +kernel
theorem test_lim_lui : g5 (.lim 0x123 (some (.lui 5 6 0x4567))) 0x89ABCDEF 0 = some 0x0123456789ABCDEF := by decide +kernel
theorem test_lea_scaled : g5 (.lea 5 6 3 0x3FF) 64 0 = some 56 := by decide +kernel
theorem test_addr2 : g5 (.addr2 5 6 7 G 4 2) 0x1000 0x300000005 = some 0x10D4 := by decide +kernel
theorem test_sel_negated : g5 (.sel 5 6 7 G 1 2) 3 4 = some 4 := by decide +kernel
theorem test_cmp_unsigned_less : p3 (.cmp 3 6 7 G 4) 1 (-1) = some true := by decide +kernel
theorem test_cmpi_signed_less : p3 (.cmpi 2 3 6 0xFFFF) (-2) 0 = some true := by decide +kernel
theorem test_pand : p3 (.pand 3 2 0 G) 0 0 = some true := by decide +kernel
theorem test_por : p3 (.por 3 1 2 G) 0 0 = some true := by decide +kernel
theorem test_pxor : p3 (.pxor 3 2 0 G) 0 0 = some false := by decide +kernel
theorem test_pandn : p3 (.pandn 3 2 1 G) 0 0 = some true := by decide +kernel
theorem test_porn : p3 (.porn 3 1 2 G) 0 0 = some false := by decide +kernel

/-! FP32. -/

theorem test_fadd_tie_to_even : f5 (.fadd 5 6 7 G 0) 0x3F800000 0x33800000 = some (0x3F800000, 8) := by decide +kernel
theorem test_fsub_equal : f5 (.fsub 5 6 7 G 0) 0x40000000 0x40000000 = some (0, 0) := by decide +kernel
theorem test_fmul : f5 (.fmul 5 6 7 G 0) 0x40400000 0xC0000000 = some (0xC0C00000, 0) := by decide +kernel
theorem test_fdiv_by_zero : f5 (.fdiv 5 6 7 G 0) 0x3F800000 0x80000000 = some (0xFF800000, 0) := by decide +kernel
theorem test_fsqrt_negative : f5 (.fsqrt 5 6 G 0) 0xBF800000 0 = some (0x7FC00000, 1) := by decide +kernel
theorem test_fmin : f5 (.fmin 5 6 7 G) 0x3F800000 0xBF800000 = some (0xBF800000, 0) := by decide +kernel
theorem test_fmax : f5 (.fmax 5 6 7 G) 0x3F800000 0xBF800000 = some (0x3F800000, 0) := by decide +kernel
theorem test_fma_destination_is_addend :
    (after (.fma 7 6 7 G 0) (at8 0x40000000 0x40400000)).map (fun t => t.readG 7) = some 0x41100000 := by decide +kernel
theorem test_fcvtf_i64 : f5 (.fcvtfI64 5 6 G 0) (-1) 0 = some (0xBF800000, 0) := by decide +kernel
theorem test_fcvtf_n64 : f5 (.fcvtfN64 5 6 G 0) (-1) 0 = some (0x5F800000, 8) := by decide +kernel
theorem test_fcvti_i64_truncates : f5 (.fcvtiI64 5 6 G 1) 0xBFC00000 0 = some (-1, 8) := by decide +kernel
theorem test_fcvti_n64_clamps : (f5 (.fcvtiN64 5 6 G 1) 0xBF800000 0).map Prod.fst = some 0 := by decide +kernel
theorem test_fcmp_less : p3 (.fcmp 3 6 7 G 1) 0xBF800000 0 = some true := by decide +kernel

/-! Transfers, loops, traps, CSRs. -/

/-- PC and loop stack depth after an instruction. -/
def goes (i : Instr) (t : Thread) : Option (Dword × Nat) := (after i t).map fun x => (x.pc, x.loops.length)

/-- An inner loop whose body is the word at 8. -/
def inLoop : Thread := { at8 5 0 with loops := [⟨8, 8, 2, 3, 9⟩] }

theorem test_br_backward : goes (.br 0 0 0x3FFFFF) (at8 0 0) = some (4, 0) := by decide +kernel
theorem test_br_not_taken : goes (.br 2 1 4) (at8 0 0) = some (12, 0) := by decide +kernel
theorem test_call_links : (after (.call 0 0 2) (at8 0 0)).map (fun t => (t.pc, t.readG 31)) = some (16, 12) := by
  decide +kernel
theorem test_jr : goes (.jr 6 G) (at8 0x20 0) = some (0x20, 0) := by decide +kernel
theorem test_jalr_reads_target_first : (after (.jalr 6 6 G) (at8 0x20 0)).map (fun t => (t.pc, t.readG 6)) =
    some (0x20, 12) := by decide +kernel
theorem test_ret : goes (.ret G) { at8 0 0 with g := [(31, 0x40)] } = some (0x40, 0) := by decide +kernel
theorem test_jr_outside_ends_graph : after (.jr 6 G) (at8 0x100 0) = none := by decide +kernel
theorem test_loop_enters : (after (.loop 5 6 2) (at8 3 0)).map (fun t => (t.pc, t.loops, t.readG 5)) =
    some (12, [⟨12, 16, 3, 0, 5⟩], 0) := by decide +kernel
theorem test_loop_zero_trips : goes (.loop 5 7 2) (at8 3 0) = some (20, 0) := by decide +kernel
theorem test_loop_steps_back : (after (.addi 5 6 1) inLoop).map (fun t => (t.pc, t.readG 9, t.readG 5)) =
    some (8, 4, 6) := by decide +kernel
theorem test_trap_saves_next_pc : (after (.trap 7) (at8 0 0)).map (fun t => (t.pc, t.status, t.items.map Item.tcause)) =
    some (12, .stopped, [0x70008]) := by decide +kernel
theorem test_brk_saves_own_pc : (after (.brk 7) (at8 0 0)).map (fun t => (t.pc, t.items.map Item.tcause)) =
    some (8, [0x70009]) := by decide +kernel
theorem test_halt : (after .halt (at8 0 0)).map (fun t => (t.pc, t.status)) = some (12, .halted) := by decide +kernel
theorem test_wfi_waits : (after .wfi { at8 0 0 with tagCount := [(3, 1)] }).map (fun t => (t.pc, t.status)) =
    some (12, .wfi) := by decide +kernel
theorem test_csrr : g5 (.csrr 5 2) 0 0 = some 1 := by decide +kernel
theorem test_csrw_tags : (after (.csrw 6 0) { at8 1 0 with tags := 3 }).map Thread.tags = some 2 := by decide +kernel
theorem test_csrrw_seed : (after (.csrrw 6 6 4) { at8 7 0 with srSeed := 9 }).map (fun t => (t.readG 6, t.srSeed)) =
    some (9, 7) := by decide +kernel
theorem test_csrw_ctx_id_ends_graph : after (.csrw 6 2) (at8 0 0) = none := by decide +kernel
theorem test_tags_write : (after (.tagsWrite 2) { at8 0 0 with tags := 3 }).map Thread.tags = some 1 := by decide +kernel
theorem test_flags_write : (after (.flagsWrite 0x50001) { at8 0 0 with flags := 0x30003 }).map Thread.flags =
    some 0x50002 := by decide +kernel
theorem test_user_csr_write : (after (.userCsrWrite 4 5) (at8 0 0)).map Thread.srSeed = some 5 := by decide +kernel
theorem test_boost_off : (after (.boost 6) (at8 70000 0)).map (fun t => t.readG 6) = some 3 := by decide +kernel
theorem test_energy_before_charge : (after (.energy 5) { at8 0 0 with energy := 77 }).map (fun t => t.readG 5) = some 77 := by
  decide +kernel
theorem test_saveset_clears : (after (.saveset 6 0) (at8 9 0)).map (fun t => t.readG 6) = some 0 := by decide +kernel


/-! Accesses: a thread with a scratchpad address in g6 and a value in g7. -/

/-- Scratchpad of tile 0, byte 64 of its slot's share. -/
abbrev spad : Dword := 0xF000000000000040

/-- A machine with 0x1122334455667788 at byte 64 of tile 0's scratchpad, whose sector is in state `f`. -/
def spadState (f : SectorState) (t : Thread) : State :=
  ((on t).writeBytes (2 ^ 61 + 64) (leBytes 0x1122334455667788 8)).setSector ((2 ^ 61 + 64) / 64) f

/-- The thread and machine after an instruction on the scratchpad sector in state `f`. -/
def acts (f : SectorState) (i : Instr) (b : Dword) : Option (Thread × State) :=
  match exec i (spadState f (at8 spad b)) with
  | .next u => (u.thread 0).map fun t => (t, u)
  | _ => none

/-- What g5 reads after an access, and what stands at byte 64 then. -/
def access (f : SectorState) (i : Instr) (b : Dword) : Option (Dword × Nat) :=
  (acts f i b).map fun c => (c.1.readG 5, c.2.readNat (2 ^ 61 + 64) 8)

/-- Register 7 and memory after an atomic whose data register is g7. -/
def atomic (i : Instr) (b : Dword) : Option (Dword × Nat) :=
  (acts .empty i b).map fun c => (c.1.readG 7, c.2.readNat (2 ^ 61 + 64) 8)

theorem test_ld_b_zero_extends : access .empty (.ldB 5 6 0 0 0) 0 = some (0x88, 0x1122334455667788) := by decide +kernel
theorem test_ld_h_scaled_offset : (access .empty (.ldH 5 6 0 0 1) 0).map Prod.fst = some 0x5566 := by decide +kernel
theorem test_ld_w : (access .empty (.ldW 5 6 0 0 1) 0).map Prod.fst = some 0x11223344 := by decide +kernel
theorem test_ld_d : (access .empty (.ldD 5 6 0 0 0) 0).map Prod.fst = some 0x1122334455667788 := by decide +kernel
theorem test_ld_poisoned_sector_flags : (acts .poisoned (.ldD 5 6 0 0 0) 0).map (fun c => c.1.flags) = some 0x40 := by
  decide +kernel
theorem test_lda : (access .empty (.lda 5 6 0 0 1 3) 0).map Prod.fst = some 0x1122 := by decide +kernel
theorem test_st_b : access .empty (.stB 7 6 0 0 1) 0x1FF = some (0, 0x112233445566FF88) := by decide +kernel
theorem test_st_h : access .empty (.stH 7 6 0 0 0) 0xABCD = some (0, 0x112233445566ABCD) := by decide +kernel
theorem test_st_w : access .empty (.stW 7 6 0 0 1) 5 = some (0, 0x0000000555667788) := by decide +kernel
theorem test_st_d : access .empty (.stD 7 6 0 0 0) 9 = some (0, 9) := by decide +kernel
theorem test_sts : access .empty (.sts 7 6 0 3 2 0) 1 = some (0, 0x1122334400000001) := by decide +kernel
theorem test_fabric_store_is_held : (acts .empty (.stD 7 6 0 3 0) 9).map
    (fun c => (c.1.cb.length, c.2.readNat (2 ^ 61 + 64) 8)) = some (1, 0x1122334455667788) := by decide +kernel
theorem test_sync_load : (access .full (.ldwSync 5 6 0 0 3 0) 0).map Prod.fst = some 0x1122334455667788 := by decide +kernel
theorem test_sync_load_parks : (acts .empty (.ldwSync 5 6 0 0 3 0) 0).map (fun c => (c.1.pc, c.2.parked.length)) =
    some (8, 1) := by decide +kernel
theorem test_take_empties : (acts .full (.ldwTake 5 6 0 0 3 0) 0).map (fun c => c.2.sector ((2 ^ 61 + 64) / 64)) =
    some .empty := by decide +kernel
theorem test_fill_fills : (acts .empty (.stwFill 7 6 0 0 3 0) 3).map
    (fun c => (c.2.readNat (2 ^ 61 + 64) 8, c.2.sector ((2 ^ 61 + 64) / 64))) = some (3, .full) := by decide +kernel
theorem test_clear_poisoned : (acts .poisoned (.stwClear 6 0 0 0) 0).map (fun c => c.2.sector ((2 ^ 61 + 64) / 64)) =
    some .empty := by decide +kernel
theorem test_fes_poisoned : (access .poisoned (.fes 5 6 0 0 0) 0).map Prod.fst = some 2 := by decide +kernel
theorem test_fence_flag_fills : (acts .empty (.fenceFlag 6 0 0 0) 0).map (fun c => c.2.sector ((2 ^ 61 + 64) / 64)) =
    some .full := by decide +kernel
theorem test_amo_swap : atomic (.amoSwap 7 6 0 0 1 0) 5 = some (0x1122334455667788, 5) := by decide +kernel
theorem test_amo_cas : (acts .empty (.amoCas 6 6 0 0 0 0) 0).map (fun c => (c.1.readG 6, c.2.readNat (2 ^ 61 + 64) 4)) =
    some (0x55667788, 0x55667788) := by decide +kernel
theorem test_amo_add_word : atomic (.amoAdd 7 6 0 0 0 0) 0xFFFFFFFF = some (0x55667788, 0x1122334455667787) := by
  decide +kernel
theorem test_amo_and : atomic (.amoAnd 7 6 0 0 1 0) 0xFF = some (0x1122334455667788, 0x88) := by decide +kernel
theorem test_amo_or : atomic (.amoOr 7 6 0 0 1 0) 0xFF = some (0x1122334455667788, 0x11223344556677FF) := by decide +kernel
theorem test_amo_xor : atomic (.amoXor 7 6 0 0 1 0) 0x88 = some (0x1122334455667788, 0x1122334455667700) := by decide +kernel
theorem test_amo_min_signed : atomic (.amoMin 7 6 0 0 1 0) (-1) = some (0x1122334455667788, 0xFFFFFFFFFFFFFFFF) := by
  decide +kernel
theorem test_amo_max_signed : atomic (.amoMax 7 6 0 0 1 0) (-1) = some (0x1122334455667788, 0x1122334455667788) := by
  decide +kernel
theorem test_amo_minn : atomic (.amoMinn 7 6 0 0 1 0) (-1) = some (0x1122334455667788, 0x1122334455667788) := by
  decide +kernel
theorem test_amo_maxn : atomic (.amoMaxn 7 6 0 0 1 0) (-1) = some (0x1122334455667788, 0xFFFFFFFFFFFFFFFF) := by
  decide +kernel
theorem test_amo_fadd_zero : atomic (.amoFadd 7 6 0 0 0) 0 = some (0x55667788, 0x1122334455667788) := by decide +kernel
theorem test_misaligned_load_faults : (after (.ldD 5 6 0 0 0) (at8 0x1004 0)).map (fun t => t.items.map Item.tcause) =
    some [0x11] := by decide +kernel
theorem test_invoke_reaches_unit : (acts .empty (.invoke 4 6 0 3 0 2) 0).map
    (fun c => (c.1.pc, c.2.invocations.length, SMap.get 0 c.1.tagCount 2)) = some (12, 1, 1) := by decide +kernel

/-! Tokens, tags, fences, domains. -/

theorem test_tjoin : (after (.tjoin 3 1 2 G) { at8 0 0 with tok := [(1, ⟨[4], []⟩), (2, ⟨[], [5]⟩)] }).map
    (fun t => t.token 3) = some ⟨[4], [5]⟩ := by decide +kernel
theorem test_twait_waits : goes (.twait 1 G) { at8 0 0 with tok := [(1, ⟨[4], []⟩)], outstanding := [4] } = some (8, 0) := by
  decide +kernel
theorem test_twait_completes : goes (.twait 1 G) { at8 0 0 with tok := [(1, ⟨[4], []⟩)], outstanding := [5] } = some (12, 0) := by
  decide +kernel
theorem test_waitany : (after (.waitany 5 6 G) { at8 6 0 with tags := 4 }).map (fun t => (t.readG 5, t.tags)) =
    some (4, 4) := by decide +kernel
theorem test_waitall_waits : goes (.waitall 5 6 G) { at8 6 0 with tags := 4 } = some (8, 0) := by decide +kernel
theorem test_ffr : (after (.ffr 5 6 G) { at8 0x18 0 with tags := 0xF7 }).map (fun t => (t.readG 5, t.tags)) =
    some (4, 0xF7) := by decide +kernel
theorem test_ffr_clr : (after (.ffrClr 5 6 G) { at8 0x18 0 with tags := 0xF8 }).map (fun t => (t.readG 5, t.tags)) =
    some (3, 0xF0) := by decide +kernel
theorem test_fence : goes (.fence 3) (at8 0 0) = some (12, 0) := by decide +kernel
theorem test_dsync_thread_level : (after (.dsync 0) (at8 0 0)).map (fun t => t.pc) = some 12 := by decide +kernel
theorem test_dsync_not_joined_ends_graph : after (.dsync 2) (at8 0 0) = none := by decide +kernel

/-! Privileged instructions. -/

/-- A thread of level S. -/
def super8 (a b : Dword) : Thread := { at8 a b with super := true }

theorem test_pcsrr_level : (after (.pcsrr 5 0) (super8 0 0)).map (fun t => t.readG 5) = some 1 := by decide +kernel
theorem test_pcsrr_at_level_u : after (.pcsrr 5 0) (at8 0 0) = none := by decide +kernel
theorem test_pcsrw_tthr : (after (.pcsrw 6 8) (super8 (-1) 0)).map (fun t => t.priv.tthr) = some 0x3FFFF := by decide +kernel
theorem test_priv_csr_write : (after (.privCsrWrite 7 2) (super8 0 0)).map (fun t => t.priv.tact) = some 2 := by decide +kernel
theorem test_tsel_write : (after (.tselWrite 9) (super8 0 0)).map (fun t => t.priv.tsel) = some 9 := by decide +kernel
theorem test_tnext_empty : (after (.tnextRead 6) (super8 4 0)).map (fun t => t.readG 6) = some 0 := by decide +kernel
theorem test_eret_resume_no_selection : (after .eretResume (super8 0 0)).map (fun t => t.priv.last) = some 2 := by
  decide +kernel
theorem test_eret_kill_no_selection : (after .eretKill (super8 0 0)).map (fun t => t.pc) = some 12 := by decide +kernel
theorem test_eret_wake_at_level_u : after .eretWake (at8 0 0) = none := by decide +kernel
theorem test_fpool_write_refuses : (match exec (.fpoolWrite 3) (on (super8 0 0)) with
    | .next u => some (u.partition 0).fpool | _ => none) = some 0 := by decide +kernel
theorem test_pt_root_write : (match exec (.ptRootWrite 0x8000) ((on (super8 0 0)).setPartition 0 { hbm := [(0, 4)] }) with
    | .next u => some (u.partition 0).ptRoot | _ => none) = some 0x8000 := by decide +kernel

/-! Streams, tables, queues and the array, with a slot laid down. -/

/-- The machine in which `t` issues and slot `x` of its tile is set; module 0 is up. -/
def withSlot (x : Slot) (t : Thread) : State :=
  { on t with slots := [(0, some x)], devices := [(0, { module := .up })] }

/-- The thread and slot after an instruction or event. -/
def slotAfter (i : Instr) (x : Slot) (t : Thread) : Option (Thread × Slot) :=
  match exec i (withSlot x t) with
  | .next u => (u.thread 0).map fun t1 => (t1, u.slot 0)
  | _ => none

/-- The slot after an event. -/
def slotOf (i : Instr) (x : Slot) : Option Slot := (slotAfter i x (at8 0 0)).map Prod.snd

/-- Tables of generator 1 with a one-visit source program of 4-byte elements at 0 and a sink program at 3, and a table of
generator 2 that holds a source program at 0. -/
def programs : SMap Word :=
  [(64, 0x04010000), (65, 0x08000000), (66, 0x0C000001), (67, 0x04310000), (68, 0x08000000), (69, 0x0C000001)]

/-- Generator 1 bound to source port w. -/
def boundSource : Slot :=
  { words := programs, ags := [(1, { bound := true, port := 0, prog := 0, stopped := false, base := spad })] }

/-- Generator 1 bound to sink port s. -/
def boundSink : Slot :=
  { words := programs, ags := [(1, { bound := true, port := 2, prog := 3, stopped := false, base := spad })] }

theorem test_bind_counts_tag : (slotAfter (.bind 1 2 3 1 9) { words := programs } (at8 0 0)).map
    (fun c => (SMap.get 0 c.1.tagCount 9, (c.2.ag 1).port, (c.2.ag 1).stopped)) = some (1, 2, true) := by decide +kernel
theorem test_bind_wrong_direction_ends_graph : slotAfter (.bind 1 2 0 0 0) { words := programs } (at8 0 0) = none := by
  decide +kernel
theorem test_unbind : (slotAfter (.unbind 1) boundSource (at8 0 0)).map (fun c => (c.2.ag 1).bound) = some false := by
  decide +kernel
theorem test_tctl_start_engine : (slotAfter (.tctlStart 12 3) {} { at8 0 0 with srSeed := 5 }).map
    (fun c => c.2.engine 12) = some { running := true, idx := 3, key := 5 } := by decide +kernel
theorem test_tctl_start_unbound_ends_graph : slotAfter (.tctlStart 1 0) {} (at8 0 0) = none := by decide +kernel
theorem test_tctl_stop : (slotAfter (.tctlStop 1) boundSource (at8 0 0)).map (fun c => (c.2.ag 1).stopped) = some true := by
  decide +kernel
theorem test_tctl_resume : (slotAfter (.tctlResume 8) {} (at8 0 0)).map (fun c => (c.2.engine 8).running) = some true := by
  decide +kernel
theorem test_tctl_base : (slotAfter (.tctlBase 1 6) boundSource (at8 0x40 0)).map (fun c => (c.2.ag 1).base) = some 0x40 := by
  decide +kernel
theorem test_tctl_stat_unbound_is_zero : (slotAfter (.tctlStat 1 6) {} (at8 9 0)).map (fun c => c.1.readG 6) = some 0 := by
  decide +kernel
theorem test_strm_queues : (slotAfter (.strm 1 6) boundSource (at8 1 0)).map (fun c => c.2.entries 0) =
    some [.cmd 1 1 spad []] := by decide +kernel
theorem test_strm_i_zero_is_rest : (slotAfter (.strmI 1 0) boundSource (at8 1 0)).map
    (fun c => (c.2.entries 0).length) = some 1 := by decide +kernel
theorem test_drain_appends_marker : (slotAfter (.drain 3 5) {} (at8 0 0)).map
    (fun c => (c.2.entries 3, SMap.get 0 c.1.tagCount 5)) = some ([.drain 0], 1) := by decide +kernel
theorem test_drain_slot : (slotAfter (.drainSlot 5) {} (at8 0 0)).map
    (fun c => (c.2.entries 0, c.2.entries 0x18, c.2.drains.map Drain.left)) = some ([.drain 0], [.drain 0], [12]) := by
  decide +kernel
theorem test_cfg_sw_without_stage_ends_graph : slotAfter (.cfgSw 5) {} (at8 0 0) = none := by decide +kernel
theorem test_yield : (after .yield (at8 0 0)).map Thread.yielded = some true := by decide +kernel
theorem test_exit : (after .exit (at8 0 0)).map (fun t => (t.pc, t.status)) = some (12, .exited) := by decide +kernel
theorem test_lq_stat : (slotAfter (.lqStat 6 2) { queues := [(2, { bound := true, ingress := true, groups := 3 })] }
    (at8 0 0)).map (fun c => c.1.readG 6) = some 0x300001080 := by decide +kernel

/-- A configuration block of one record at byte 64 of the scratchpad: word 0 of array kind 1, lane 0, an IADD of X and Y. -/
def blockState : State :=
  (withSlot {} (at8 spad 0)).writeBytes (2 ^ 61 + 64) (leBytes 0x00000001 4 ++ leBytes 0x10000040 4 ++ leBytes 0x20822000 4)

theorem test_cfg_ld_writes_table : (match exec (.cfgLd 6) blockState with
    | .next u => some ((u.slot 0).word 1 0 0) | _ => none) = some 0x20822000 := by decide +kernel
theorem test_cfg_stage_keeps_table : (match exec (.cfgStage 6) blockState with
    | .next u => some ((u.slot 0).word 1 0 0, (SMap.get none u.staging 0).map Staging.block) | _ => none) =
    some (0x20000000, some [1, 0x10000040, 0x20822000]) := by decide +kernel
theorem test_launch_counts_tag : (match exec (.launch 6)
      ((withSlot {} (at8 spad 0)).writeBytes (2 ^ 61 + 64) (leBytes 0x400 8 ++ List.replicate 29 0 ++ [0x83])) with
    | .next u => (u.thread 0).map fun t => (SMap.get 0 t.tagCount 3, u.arrivals.map LaunchRec.image) | _ => none) =
    some (1, [0x400]) := by decide +kernel

/-! The array. Its table holds bf16 formats, an MMA of acc1 that emits to port 8 of its outputs' code 1 at its last firing,
an MLT into acc2 and an MST of acc3. -/

def arrayTable : SMap Word :=
  [(wordKey 5 0 0, 0x64210000), (wordKey 5 0 1, 0x70014400), (wordKey 5 0 2, 0x74020000), (wordKey 5 0 3, 0x78030700)]

theorem test_marm : (slotAfter (.marm 1 1 7 2) { words := arrayTable } (at8 0 0)).map
    (fun c => (c.2.arms.map Arming.left, SMap.get 0 c.1.tagCount 7)) = some ([some 2], 1) := by decide +kernel
theorem test_marm_of_empty_index_ends_graph : slotAfter (.marm 0 7 0 2) { words := arrayTable } (at8 0 0) = none := by
  decide +kernel
theorem test_mfence_waits : (slotAfter (.mfence 2) { words := arrayTable, arms := [⟨1, none, 0, none, 0, false⟩] }
    (at8 0 0)).map (fun c => c.1.pc) = some 8 := by decide +kernel
theorem test_acc_clr : (slotAfter (.accClr 2) { acc := [(4096, 5), (8192, 6)] } (at8 0 0)).map (fun c => c.2.acc) =
    some [(8192, 6)] := by decide +kernel
theorem test_acc_hold : (slotAfter (.accHold 2) {} (at8 0 0)).map (fun c => (c.2.accSt 1).held) = some true := by
  decide +kernel
theorem test_acc_stat : (slotAfter (.accStat 6) { accState := [(1, ⟨true, true, []⟩)] } (at8 0 0)).map
    (fun c => c.1.readG 6) = some 0x22 := by decide +kernel
theorem test_acc_rd_row_column : (slotAfter (.accRd 6 1) { acc := [(4096 + 64 * 2 + 3, 9)] } (at8 0x203 0)).map
    (fun c => c.1.readG 6) = some 9 := by decide +kernel

/-! Events of the datapath. -/

/-- A data token. -/
def tok (w : Word) : Token := ⟨w, .data, true, false, 0⟩
/-- An end-of-stream marker. -/
def eos : Token := ⟨0, .eos, true, false, 0⟩

/-- West lane 0 adds X and Y. -/
def addLane : Slot :=
  { words := [(wordKey 1 0 0, 0x20822000)], engines := [(8, { running := true })],
    edges := [(edgeX 0, [tok 3]), (edgeY 0, [tok 4])] }

/-- Lane 0's box gives its FW input to X. -/
def routeBox : Slot :=
  { words := [(wordKey 2 0 0, 0x42010000)], engines := [(8, { running := true })], edges := [(edgeFw 258, [tok 5])] }

theorem test_lane_fire : (slotOf (.laneFire 0 0) addLane).map (fun x => ((x.edge (edgeZ 0)).map Token.data, x.edge (edgeX 0))) =
    some ([7], []) := by decide +kernel
theorem test_lane_eos : (slotOf (.laneEos 0 0) { addLane with edges := [(edgeX 0, [eos]), (edgeY 0, [eos])] }).map
    (fun x => x.edge (edgeZ 0)) = some [eos] := by decide +kernel
theorem test_switch_box_route : (slotOf (.switchBoxFire 0 0) routeBox).map (fun x => (x.edge (edgeX 0), x.edge (edgeFw 258))) =
    some ([tok 5], []) := by decide +kernel
theorem test_stream_read : (match exec (.streamAccess 0 1) ((withSlot { boundSource with
      scoreboard := [(0, [.cmd 1 1 spad []])] } (at8 0 0)).writeBytes (2 ^ 61 + 64) (leBytes 0xAABBCCDD 4)) with
    | .next u => some (((u.slot 0).port 0).buf.map Token.data, (u.slot 0).entries 0) | _ => none) =
    some ([0xAABBCCDD], []) := by decide +kernel
theorem test_stream_write : (match exec (.streamAccess 0 1) (withSlot { boundSink with
      scoreboard := [(2, [.cmd 1 1 spad []])], ports := [(2, { buf := [tok 0x11223344] })] } (at8 0 0)) with
    | .next u => some (u.readNat (2 ^ 61 + 64) 4) | _ => none) = some 0x11223344 := by decide +kernel
theorem test_drain_marker : (slotOf (.drainMarker 0 0) { scoreboard := [(0, [.drain 4])] }).map
    (fun x => ((x.port 0).buf.map Token.kind, x.entries 0)) = some ([.eos], []) := by decide +kernel
theorem test_sink_eos_idles : (slotOf (.sinkEos 0 2) { boundSink with ports := [(2, { buf := [eos] })] }).map
    (fun x => (x.ag 1).idle) = some true := by decide +kernel
/-- Lane 5's box gives its E-in input to X; port w holds `m`. -/
def westSource (m : Token) : Slot := { words := [(wordKey 2 5 0, 0x43810000)], ports := [(0, { buf := [m] })] }

/-- The array runs with its table loaded. -/
def arrayRuns : Slot := { words := arrayTable, engines := [(12, { running := true })] }

theorem test_distributor : (slotOf (.tokenAccept 0 (.ein .west)) (westSource (tok 6))).map (fun x => x.edge (edgeEin 5)) =
    some [tok 6] := by decide +kernel
theorem test_arc_eos_padding : (slotOf (.arcEosPadding 0 .west) (westSource eos)).map
    (fun x => (x.edge (edgeEin 5)).map Token.kind) = some [.eos] := by decide +kernel
/-- The MST is armed, and acc3 holds its only element that is not zero. -/
def storing : Slot :=
  { arrayRuns with arms := [⟨3, some 1, 0, none, 0, false⟩], acc := [(12288, 5)], accState := [(3, ⟨true, false, []⟩)] }

theorem test_mst_fire_opens : (slotOf (.mstFire 0 3) storing).map
    (fun x => (x.acc, (x.accSt 3).held, (SMap.get [] x.outs 1).length)) = some ([], false, 4096) := by decide +kernel
/-- The MLT is armed until EOS, which stands at its latch. -/
def ending : Slot := { arrayRuns with arms := [⟨2, none, 0, none, 0, false⟩], latchA := { full := [none] } }

theorem test_arming_end : (slotOf (.armingEnd 0 2) ending).map (fun x => x.arms) = some [] := by decide +kernel
/-- EOS stands at both latches. -/
def eosAtLatches : Slot := { arrayRuns with latchA := { full := [none] }, latchB := { full := [none] } }

theorem test_array_eos : (slotOf (.arrayEos 0 1) eosAtLatches).map (fun x => SMap.get [] x.outs 1) = some [eos] := by
  decide +kernel
/-- The gather unit holds one offset, for generator 1 at port gx. -/
def gathering : Slot :=
  { words := programs ++ arrayTable, gather := [64], scoreboard := [(0x18, [.cmd 1 1 0 []])],
    ags := [(1, { bound := true, port := 0x18, prog := 0, stopped := false })] }

theorem test_gather_read : (match exec (.gatherRead 0) ((withSlot gathering (at8 0 0)).writeBytes (2 ^ 61 + 64) [7]) with
    | .next u => some ((u.slot 0).latchA.fill.take 2, (u.slot 0).latchA.fill.length) | _ => none) = some ([7, 0], 64) := by
  decide +kernel
/-- Part of a panel stands at the A latch, with EOS behind it on the west lanes that feed it. -/
def padding : Slot :=
  { arrayRuns with
    latchA := { fill := [1, 2, 3, 4] }
    words := (wordKey 2 5 0, 0x42100000) :: arrayTable
    edges := [(edgeEout 5, [eos])] }

theorem test_latch_eos_padding : (slotOf (.latchEosPadding 0 false) padding).map
    (fun x => (x.latchA.fill.length, x.latchA.full.length)) = some (0, 1) := by decide +kernel
theorem test_latch_accepts : (slotOf (.tokenAccept 0 (.latch false)) { padding with edges := [(edgeEout 5, [tok 0x0A])] }).map
    (fun x => x.latchA.fill) = some [1, 2, 3, 4, 10, 0, 0, 0] := by decide +kernel

/-! Replies, requests, queues and what waits. -/

/-- The machine with module 0 up, thread `t`, and bytes at the scratchpad's byte 64. -/
def upState (t : Thread) (bs : List Byte) : State := (withSlot {} t).writeBytes (2 ^ 61 + 64) bs

/-- What `f` reads of the state after an event. -/
def then' {α : Type} (i : Instr) (s : State) (f : State → α) : Option α :=
  match exec i s with
  | .next u => some (f u)
  | _ => none

/-- A thread that awaits access 7 in g5. -/
def awaiting : Thread := { at8 0 0 with pending := [(5, 7)], outstanding := [7] }
/-- The name of that access. -/
abbrev acc7 : AccId := ⟨0, 1, 7⟩

/-- What g5 and the outstanding accesses of the thread are. -/
def g5Out (u : State) : Option (Dword × List Nat) := (u.thread 0).map fun t => (t.readG 5, t.outstanding)

theorem test_access_reply : then' (.accessReply 0) { upState awaiting [] with replies := [⟨acc7, 5, 9, false, 0, 0, 0⟩] } g5Out =
    some (some (9, [])) := by decide +kernel
theorem test_load_request : then' .loadRequest
    { upState awaiting [1, 2, 3, 4] with flits := [.of (.loadReq acc7 5 (2 ^ 61 + 64) 2 [none, some 9]) none] }
    (fun u => u.flits) = some [.of (.loadReply ⟨acc7, 5, 0x901, false, 0, 0, 2 ^ 61 + 64⟩) none] := by decide +kernel
theorem test_load_reply : then' .loadReply { upState awaiting [] with flits := [.of (.loadReply ⟨acc7, 5, 9, true, 0, 0, 0⟩) none] }
    (fun u => (u.thread 0).map fun t => (t.readG 5, t.flags)) = some (some (9, 0x40)) := by decide +kernel
theorem test_atomic_request : then' .atomicRequest
    { upState awaiting [5] with flits := [.of (.atomicReq acc7 5 (2 ^ 61 + 64) 4 .add 3 0) none] }
    (fun u => (u.readNat (2 ^ 61 + 64) 4, u.flits)) = some (8, [.of (.atomicReply ⟨acc7, 5, 5, false, 0, 0, 2 ^ 61 + 64⟩) none]) := by decide +kernel
theorem test_atomic_reply : then' .atomicReply { upState awaiting [] with flits := [.of (.atomicReply ⟨acc7, 5, 9, false, 0, 0, 0⟩) none] }
    g5Out = some (some (9, [])) := by decide +kernel
theorem test_store_acknowledgement : then' .storeAcknowledgement
    { upState { awaiting with pending := [] } [] with flits := [.of (.storeAck acc7 0 0 0 1) none] } g5Out = some (some (0, [])) := by
  decide +kernel
theorem test_pooled_read_request : then' .pooledReadRequest
    { upState (at8 0 0) [1, 2] with flits := [.of (.pooledReadReq 0 1 1 0 (2 ^ 61 + 64) 2 0) none] } (fun u => u.flits) =
    some [.of (.pooledReply 0 1 1 0 [1, 2] false 0 (2 ^ 61 + 64) 0 0) none] := by decide +kernel
theorem test_pooled_fill_flit : then' .pooledDataFlit
    { upState (at8 0 0) [] with flits := [.of (.pooledStore acc7 ((2 ^ 61 + 64) / 64) [[(2, some 0xAB)]] true false false) none] }
    (fun u => (u.readNat (2 ^ 61 + 64) 4, u.sector ((2 ^ 61 + 64) / 64), u.flits.length)) =
    some (0xAB0000, .full, 1) := by decide +kernel
theorem test_scheduler_message : then' .schedulerMessage
    { upState (at8 0 0) [] with flits := [.of (.launch true probeRegion.launch 0) none] } (fun u => (u.flits.length, u.arrivals.length)) =
    some (0, 1) := by decide +kernel

/-- An invocation of entry 0 of tile 0's unit. -/
def invoked : Invocation := ⟨2 ^ 61 + 64, 2 ^ 40, 0, acc7, 4, 2, 10, 20⟩

theorem test_invocation : then' .invocation { upState (at8 0 0) [] with flits := [.of (.invocation invoked) none] }
    (fun u => u.invocations) = some [invoked] := by decide +kernel
theorem test_saddle_entry_not_loaded : then' .saddleRun { upState (at8 0 0) [] with invocations := [invoked] }
    (fun u => u.results) = some [⟨acc7, 4, 2, 0, 1, 0, 2 ^ 61 + 64⟩] := by decide +kernel
theorem test_invocation_result : then' .invocationResult
    { upState { awaiting with pending := [(4, 7), (5, 7)], tagCount := [(2, 1)] } [] with results := [⟨acc7, 4, 2, 9, 1, 0, 0⟩] }
    (fun u => (u.thread 0).map fun t => (t.readG 4, t.readG 5, t.tags)) = some (some (9, 1, 4)) := by decide +kernel

/-- A taking load of 8 bytes that waits at its sector's port. -/
def waitingTake : Access := ⟨.take, spad, 8, 2, 0, 5, 0, 0, 8, 7, false, [], []⟩
/-- Its thread. -/
def parkedThread (w : Wait) : Thread := { at8 spad 0 with wait := w }

theorem test_parked_access_serves : then' (.parkedAccessServe ((2 ^ 61 + 64) / 64))
    { spadState .full (parkedThread (.parked waitingTake)) with parked := [((2 ^ 61 + 64) / 64, 0)], devices := [(0, { module := .up })] }
    (fun u => ((u.thread 0).map fun t => (t.pc, t.readG 5), u.sector ((2 ^ 61 + 64) / 64), u.parked)) =
    some (some (12, 0x1122334455667788), .empty, []) := by decide +kernel
theorem test_parked_access_retries : then' (.parkedAccessRetry 0)
    { spadState .full (parkedThread (.unparked waitingTake)) with devices := [(0, { module := .up })] }
    (fun u => (u.thread 0).map fun t => (t.pc, t.readG 5)) = some (some (12, 0x1122334455667788)) := by decide +kernel
theorem test_combining_buffer_send : then' (.combiningBufferSend 0 0)
    (upState { at8 0 0 with cb := [⟨7, (2 ^ 61 + 64) / 64, [(1, some 0xEE)], 0, 0⟩], outstanding := [7] } [1, 2, 3])
    (fun u => (u.readNat (2 ^ 61 + 64) 4, (u.thread 0).map fun t => (t.cb.length, t.outstanding))) =
    some (0x03EE01, some (0, [])) := by decide +kernel

/-- Egress 2 of the thread's slot holds 4 bytes of a group and EOS behind them. -/
def egress : Slot :=
  { queues := [(2, { bound := true, peerKey := 4, peerQ := 1, fill := [1, 2, 3, 4], dm1 := 1 })],
    ports := [(10, { buf := [eos] })] }
/-- A group of a queue. -/
def group0 : Group := { seq := 0, bytes := List.replicate 4096 0, poison := false, len := 4096 }
/-- Ingress 2 of the thread's slot has received a group whose tag is not checked yet. -/
def ingress : Slot :=
  { queues := [(2, { bound := true, ingress := true, dm1 := 1, peerKey := 4, peerQ := 1, arriving := [some group0] })] }
/-- The far end of it, which awaits the tag check. -/
def farEnd : Slot := { queues := [(1, { bound := true, dm1 := 1, peerKey := 0, peerQ := 2, awaiting := [group0] })] }
/-- A machine with a slot at both ends of a binding. -/
def twoSlots (x y : Slot) : State := { withSlot x (at8 0 0) with slots := [(0, some x), (4, some y)] }

theorem test_egress_eos_packs : (slotOf (.egressEos 0 2) egress).map (fun x =>
    (((x.queue 2).packed.filterMap id).map Group.len, (x.queue 2).packed.length)) = some ([4], 2) := by decide +kernel
theorem test_egress_group_send : then' (.egressGroupSend 0 2)
    (twoSlots { queues := [(2, { bound := true, peerKey := 4, peerQ := 1, dm1 := 1, packed := [some group0] })] }
      { queues := [(1, { bound := true, ingress := true, dm1 := 1, peerKey := 0, peerQ := 2 })] })
    (fun u => (((u.slot 0).queue 2).packed, ((u.slot 4).queue 1).arriving.length)) = some ([], 1) := by decide +kernel
theorem test_integrity_check_good : then' (.integrityCheck 0 2 true) (twoSlots ingress farEnd)
    (fun u => (((u.slot 0).queue 2).slots.length, ((u.slot 0).queue 2).groups, ((u.slot 4).queue 1).awaiting)) =
    some (1, 1, []) := by decide +kernel
theorem test_integrity_check_bad_asks_replay : then' (.integrityCheck 0 2 false) (twoSlots ingress farEnd)
    (fun u => (((u.slot 0).queue 2).slots.length, ((u.slot 0).queue 2).replay)) = some (0, true) := by decide +kernel
/-- The ingress after its group failed. -/
def failed : Slot :=
  { queues := [(2, { bound := true, ingress := true, dm1 := 1, peerKey := 4, peerQ := 1, replay := true, fails := 1 })] }
theorem test_group_replay : then' (.groupReplay 0 2) (twoSlots failed farEnd)
    (fun u => ((u.slot 0).queue 2).arriving.length) = some 1 := by decide +kernel
/-- R103: an uncorrectable soft error poisons its sector. -/
theorem test_soft_error : (match step { upState (at8 0 0) [] with agenda := [.softError ((2 ^ 61 + 64) / 64)] } with
    | .next u => some (u.sector ((2 ^ 61 + 64) / 64), u.agenda)
    | _ => none) = some (.poisoned, []) := by decide +kernel
/-- A pooled store that has been written, in the group in progress on the route from module 0 to itself. -/
def pooledInProgress : State :=
  { upState (at8 0 0) [] with
    pooled := [(0, { flits := [(.pooledStore acc7 ((2 ^ 61 + 64) / 64) [[(2, some 0xAB)]] false false false, [.empty])] })] }
/-- R134: the failed tag of a pooled store poisons its sector; the port keeps the entry until the replay has passed. -/
theorem test_pooled_tag_fails : then' (.integrityCheck (2 ^ 32) 0 false)
    pooledInProgress (fun u => (u.sector ((2 ^ 61 + 64) / 64), u.flits.length, u.replays.map ReplayEntry.who)) =
    some (.poisoned, 1, [some acc7]) := by decide +kernel
/-- R134: the array takes a panel of a group whose tag is not checked; a failed tag then poisons the accumulator. -/
theorem test_early_group_poisons : (slotOf (.integrityCheck 0 2 false)
    { queues := [(2, { bound := true, ingress := true, dm1 := 1, peerKey := 4, arriving := [some { group0 with taken := true }] })]
      accState := [(1, { fed := [(2, 0)] })] }).map (fun x => ((x.accSt 1).p, (x.accSt 1).fed, (x.queue 2).discard)) =
    some (true, [], true) := by decide +kernel
theorem test_ingress_eos : (slotOf (.ingressEos 0 2)
    { queues := [(2, { bound := true, ingress := true, dm1 := 1, slots := [none] })], ags := [(1, { bound := true, port := 0x12 })] }).map
    (fun x => ((x.queue 2).slots, (x.port 0x12).buf)) = some ([], [eos]) := by decide +kernel
theorem test_oi_advance : then' (.oiAdvance 1 0)
    (withSlot { edges := [(edgeX 0, [{ tok 1 with iter := 1 }])] } (at8 0 0))
    (fun u => (u.region 1).map fun r => r.oiOf 0) = some (some 1) := by decide +kernel
/-- West lane 0 stands at the marker on its inputs; a switch waits for it. -/
def switching : Slot :=
  { addLane with
    edges := [(edgeX 0, [⟨0, .eoc, true, false, 0⟩]), (edgeY 0, [⟨0, .eoc, true, false, 0⟩])]
    eocTag := some 3, eocLeft := [264, 300] }
/-- The set staged for it: lane 0 becomes a MOV of X. -/
def stagedMove : Staging := ⟨0, [1, 0x10000040, 0x3C062000], true⟩
theorem test_eoc_switch : then' (.eocSwitch 0 264) { withSlot switching (at8 0 0) with staging := [(0, some stagedMove)] }
    (fun u => ((u.slot 0).word 1 0 0, (u.slot 0).eocLeft, ((u.slot 0).edge (edgeZ 0)).map Token.kind)) =
    some (0x3C062000, [300], [.eoc]) := by decide +kernel
/-- All lanes of west block group 0 take a maximum. -/
def groupMaximum : Slot :=
  { words := (List.range 32).map fun l => (wordKey 1 l 0, 0x38862000)
    engines := [(8, { running := true })]
    edges := (List.range 32).map fun l => (edgeX l, [tok (BitVec.ofNat 32 (0x3F800000 + l))]) }
theorem test_group_fire_maximum : (slotOf (.groupFire 0 0) groupMaximum).map
    (fun x => ((x.edge (edgeZ 0)).map Token.data, (x.edge (edgeZ 31)).map Token.data, x.edge (edgeX 7))) =
    some ([0x3F80001F], [0x3F80001F], []) := by decide +kernel
/-- An MLT of a bf16 panel into acc2 is armed. -/
def loading : Slot :=
  { arrayRuns with
    arms := [⟨2, some 1, 0, none, 0, false⟩]
    latchA := { full := [some ⟨[0x80, 0x3F] ++ List.replicate 4094 0, false, none⟩] } }
theorem test_mlt_is_next : loading.nextOrder.map (fun c => (c.1.idx, c.2.1.op, c.2.2.1.length)) = some (2, .mlt, 1) := by
  decide +kernel
/-- An MMA into acc1 is armed for more than one firing; both its panels are zero. -/
def multiplying : Slot :=
  { arrayRuns with
    arms := [⟨1, some 2, 0, none, 0, false⟩]
    latchA := { full := [some ⟨List.replicate 4096 0, false, none⟩] }
    latchB := { full := [some ⟨List.replicate 4096 0, false, none⟩] } }
theorem test_mma_is_next : multiplying.nextOrder.map (fun c => (c.1.idx, c.2.1.op, c.2.2.1.length, c.2.2.2.length)) =
    some (1, .mma, 1, 1) := by decide +kernel

/-! Graphs, from the queue to the end. Module 0 is up, and partition 0 holds quad 0 and maps its first 8 GiB one to one. -/

/-- The domain with no graph. -/
def domain : State := { (State.reset.placeProgram []) with threads := [], regions := [] }

/-- A launch of the image at 0x200000 with argument 99, by the host. -/
def launch0 : LaunchRec :=
  ⟨0x200000, 99, 0x300000, 7, 0, 0, 3, 0, 0, 0, 0, false, false, some 0, none, 0, 0, 0, false, {}⟩

/-- The launch once its image has been checked. -/
def queued0 : LaunchRec := { launch0 with hdr := { w := 1, h := 1, parts := 1 } }

/-- An image of one thread with one word, and of sections without a record. -/
def imageBytes : List Byte :=
  leBytes 0x47565A31 4 ++ leBytes 1 4 ++ leBytes 0x180 4 ++ [1, 1, 1, 0] ++ List.replicate 32 0 ++ leBytes 0x80 8 ++
    leBytes 0xC0 8 ++ leBytes 0x100 8 ++ leBytes 0x100 8 ++ leBytes 0xC0 8 ++ leBytes 0xC0 8 ++ List.replicate 32 0 ++
    leBytes 0x140 8 ++ leBytes 1 8

/-- The domain with the image in memory. -/
def imaged : State := domain.writeBytes 0x200000 imageBytes

/-- Its device with the checked launch in its queue. -/
def queuedState (l : LaunchRec) : State := imaged.setDevice 0 ((imaged.device 0).setQueue 0 3 [l])

/-- The launch's graph once it has been admitted. -/
def region0 : Region := { probeRegion with launch := queued0, state := .starting, loaded := false, acks := [0] }
/-- The domain with region 1 as `r`, and thread `t` on its tile. -/
def graphState (r : Region) (t : Thread) : State := (imaged.setRegion 1 r).setThread 0 t

/-- Queue of priority 3 of partition 0. -/
def queue3 (u : State) : List LaunchRec := (u.device 0).queue 0 3

theorem test_launch_enqueue : then' (.launchEnqueue 0) { imaged with arrivals := [launch0] }
    (fun u => (u.arrivals, (queue3 u).map fun l => (l.hdr.w, l.hdr.parts))) = some ([], [(1, 1)]) := by decide +kernel
theorem test_scheduler_round_admits : then' (.schedulerRound 0 0) (queuedState queued0)
    (fun u => ((u.region 2).map fun r => (r.state, r.origins), (queue3 u).length, u.nextRid)) =
    some (some (.starting, [⟨0, 0, 0⟩]), 0, 3) := by decide +kernel
theorem test_bid_blocks_at_its_limit : then' (.bidBlocking 0 0) (queuedState { queued0 with bypass := 16 })
    (fun u => (queue3 u).map LaunchRec.blocking) = some [true] := by decide +kernel
theorem test_graph_start_loads : then' (.graphStart 1) ({ imaged with regions := [(1, some region0)] })
    (fun u => ((u.thread 0).map fun t => (t.readG 1, t.readG 4, t.words, t.srSeed), (u.region 1).map Region.loaded)) =
    some (some (99, 0x200000, 1, 7), some true) := by decide +kernel
theorem test_config_ack : then' (.configAck 1 0) (graphState { region0 with loaded := true } (at8 0 0))
    (fun u => (u.region 1).map Region.acks) = some (some []) := by decide +kernel
theorem test_graph_start_releases : then' (.graphStart 1)
    { graphState { region0 with loaded := true, acks := [] } (at8 0 0) with now := 50 }
    (fun u => (u.region 1).map fun r => (r.state, r.tStart)) = some (some (.resident, 50)) := by decide +kernel
theorem test_graph_completion_writes_record : then' (.graphCompletion 1)
    (graphState { region0 with loaded := true, state := .resident } { at8 0 0 with status := .exited, resident := false })
    (fun u => ((u.region 1).isNone, (u.thread 0).isNone, u.sector (0x300000 / 64))) = some (true, true, .full) := by
  decide +kernel
theorem test_kill_status_one : then' (.kill 1) (graphState { region0 with state := .resident } (at8 0 0))
    (fun u => ((u.region 1).isNone, u.readNat 0x300000 4)) = some (true, 1) := by decide +kernel

/-! Pre-emption and restore. -/

/-- A resident graph of one thread. -/
def resident0 : Region := { region0 with state := .resident, loaded := true, acks := [] }
/-- The image of that graph. -/
def image0 : Image := ⟨1, [(0, some (at8 5 0))], [], [], [], [], [], []⟩

theorem test_preemption_with_flits_gates : then' (.preemption 1)
    { graphState resident0 (at8 0 0) with flits := [.of (.loadReq ⟨0, 1, 0⟩ 5 0x1000 4 []) none] }
    (fun u => (u.region 1).map Region.state) = some (some .gated) := by decide +kernel
theorem test_gate_request : then' (.gateRequest 1 5000) (graphState resident0 (at8 0 0))
    (fun u => (u.region 1).map Region.gateTick) = some (some (some 5000)) := by decide +kernel
theorem test_gate_request_withdrawal : then' (.gateRequestWithdrawal 1)
    { graphState { resident0 with gateTick := some 5000, acks := [1] } (at8 0 0) with now := 4800 }
    (fun u => (u.region 1).map Region.gateTick) = some (some (some 6800)) := by decide +kernel
theorem test_gate : then' (.gate 1) { graphState { resident0 with gateTick := some 5000 } (at8 0 0) with now := 5000 }
    (fun u => (u.region 1).map Region.state) = some (some .gated) := by decide +kernel
theorem test_restore_loads : then' (.restore 1)
    { imaged with regions := [(1, some { region0 with restoring := true })], images := [(1, some image0)] }
    (fun u => ((u.region 1).map fun r => (r.state, r.loaded), (u.thread 0).map fun t => (t.pc, t.readG 6))) =
    some (some (.starting, true), some (8, 5)) := by decide +kernel
/-- The graph of that image, loaded and acknowledged; it came from other tiles. -/
def cameBack : Region :=
  { region0 with restoring := true, loaded := true, acks := [], moved := true, lease := { state := 2, step := 9 } }
theorem test_restore_releases : then' (.restore 1) (graphState cameBack (at8 5 0))
    (fun u => (u.region 1).map fun r => (r.state, r.lease.state, r.lease.step, r.moved)) = some (some (.resident, 0, 0, false)) := by
  decide +kernel
theorem test_image_update_live : then' .imageUpdate
    { graphState resident0 { at8 0 0 with tagCount := [(3, 1)] } with updates := [{ key := 0, ctx := 1, tag := some 3 }] }
    (fun u => (u.thread 0).map Thread.tags) = some (some 8) := by decide +kernel

/-! Translation, ports and bridges. -/

theorem test_table_walk_caches : then' (.tableWalk 0 0x201000 .read) (graphState resident0 (at8 0 0))
    (fun u => u.tlb.map TlbEntry.vpage) = some [0, 0] := by decide +kernel
theorem test_invalidation : then' (.invalidation (0x100000 / 64))
    { domain with marks := [(0x100000 / 64, .leaf)], tlb := [⟨0, 0, 1, 0, 0, 0, 0x100000 / 64⟩] } (fun u => (u.tlb, u.marks)) =
    some ([], []) := by decide +kernel
theorem test_link_training_starts : then' (.linkTraining 0 0 1 0)
    (domain.setDevice (portPartner 0 0).1 { (domain.device (portPartner 0 0).1) with module := .up })
    (fun u => (lanesOf u 0 0 1).state) = some .equalise := by decide +kernel
/-- The far end of port 0 of module 0. -/
abbrev far0 : Nat × Nat := portPartner 0 0
/-- A lane group of it. -/
def farLane (l : LaneGroup) : State := domain.setDevice far0.1 { (domain.device far0.1) with groups := [(far0.2 * 8 + 1, l)] }
theorem test_flit_receive_bad_replays : then' (.flitReceive 0 0 1 false)
    { (farLane { state := .up }).setDevice far0.1
        { (domain.device far0.1) with module := .up, groups := [(far0.2 * 8 + 1, { state := .up })] } with
      flits := [.of (.pooledStore ⟨4 * 896 * far0.1, 1, 0⟩ 1 [[(0, some 1)]] false false false) none] }
    (fun u => (lanesOf u far0.1 far0.2 1).replays) = some 1 := by decide +kernel
theorem test_lane_group_retrain : then' (.laneGroupRetrain far0.1 far0.2 1) (farLane { state := .up, replays := 16 })
    (fun u => (lanesOf u far0.1 far0.2 1).state) = some .equalise := by decide +kernel
theorem test_port_down : then' (.portDown 0 3)
    { domain.setDevice 0 { (domain.device 0) with portSince := [(3, 1)] } with now := 10000000 }
    (fun u => (u.device 0).isDown 3) = some true := by decide +kernel
theorem test_link_failure : then' (.linkFailure far0.1 far0.2) (farLane { state := .up })
    (fun u => (lanesOf u far0.1 far0.2 1).state) = some .down := by decide +kernel
/-- Group 1 of port 2 has failed with a binding, and group 3 is free. -/
def relocating : State :=
  domain.setDevice 0 { (domain.device 0) with groups := [(17, { state := .down, binding := some 9 }), (19, { state := .up })] }
theorem test_binding_relocate : then' (.bindingRelocate 0 2 1) relocating
    (fun u => ((lanesOf u 0 2 1).binding, (lanesOf u 0 2 3).binding)) = some (none, some 9) := by decide +kernel
/-- Bridge 0 serves partition 0. -/
def bridged : State :=
  (domain.setPartition 0 { (domain.partition 0) with bridges := [0] }).setDevice 0 { (domain.device 0) with bridge := true }
theorem test_host_store : then' (.hostStore 0 0x400000 [1, 2]) bridged (fun u => u.readNat 0x400000 4) = some 0x201 := by
  decide +kernel
theorem test_host_store_outside_counts : then' (.hostStore 0 0x400000 [1, 2])
    (domain.setDevice 0 { (domain.device 0) with bridge := true })
    (fun u => (u.readNat 0x400000 4, (u.device 0).fenceV)) = some (0, 1) := by decide +kernel
theorem test_host_read : then' (.hostRead 0 0x100000 2) bridged (fun u => u.hostReads) = some [.data [1, 0x80]] := by
  decide +kernel
theorem test_host_sync_read_empty : then' (.hostSyncRead 0 0x400000 64) bridged (fun u => u.hostReads) =
    some [.data (List.replicate 64 0xFF)] := by decide +kernel
theorem test_launch_invocation : then' (.launchInvocation 0 0 0 (leBytes 0x200000 64)) bridged
    (fun u => u.flits.length) = some 2 := by decide +kernel

/-! Management, power, supply. -/

theorem test_policy_record_write : then' (.policyRecordWrite 0 0 0 0x0F020305 false) domain
    (fun u => let p := (u.device 0).pol 0; (p.bypassMax, p.xpen, p.wearW, p.preemptMin, p.preemptEn)) =
    some (5, 3, 2, 7, true) := by decide +kernel
theorem test_power_record_write_waits : then' (.powerRecordWrite 0 0 0x0A60013A) domain
    (fun u => ((u.device 0).pow 0, SMap.get {} (u.device 0).powerWritten 0)) =
    some (({} : Power), (⟨36, true, 96, 10⟩ : Power)) := by decide +kernel
theorem test_energy_weight_write_waits : then' (.energyWeightWrite 0 3 77) domain
    (fun u => (decide ((u.device 0).weight 3 = (domain.device 0).weight 3), (u.device 0).weightWord 3)) =
    some (true, 77) := by decide +kernel
theorem test_control_space_write : then' (.controlSpaceWrite 0 0x10040 0x0F020305) domain
    (fun u => ((u.device 0).pol 1).bypassMax) = some 5 := by decide +kernel
theorem test_partition_change_quad : then' (.partitionChange (.quad 0 0 0) 1)
    (domain.setPartition 1 { quads := [5] }) (fun u => ((u.partition 0).quads, (u.partition 1).quads.length)) =
    some ([], 2) := by decide +kernel
theorem test_power_interval : then' (.powerInterval 0 []) { domain with now := 50000 } (fun u => (u.device 0).interval) =
    some 50001 := by decide +kernel
theorem test_lease_end : then' (.leaseEnd 1) (graphState { resident0 with lease := { state := 2 } } (at8 0 0))
    (fun u => (u.region 1).map fun r => r.lease.state) = some (some 0) := by decide +kernel
theorem test_hbm_temp_read_fails_as_seven : then' (.hbmTempRead 0 2 none) domain (fun u => SMap.get 0 (u.device 0).hbmTemp 2) =
    some 7 := by decide +kernel
theorem test_wear_update : then' (.wearUpdate 0 (100 :: List.replicate 223 200)) domain
    (fun u => (SMap.get {} (u.device 0).wear 0).wear) = some 127 := by decide +kernel
theorem test_static_share : then' (.staticShare 0) (graphState resident0 { at8 0 0 with energy := 1 })
    (fun u => (u.thread 0).map Thread.energy) = some (some (1 + 29184 * 60 / 24)) := by decide +kernel
theorem test_power_fail : then' (.powerFail 0) (graphState resident0 (at8 0 0))
    (fun u => ((u.device 0).module, (u.region 1).isNone)) = some (.holdUp false, true) := by decide +kernel
/-- Module 0 in another state of its life. -/
def moduleIn (m : ModuleState) : State := domain.setDevice 0 { (domain.device 0) with module := m }
theorem test_reserve_exhausted : then' (.reserveExhausted 0) (moduleIn (.holdUp true)) (fun u => (u.device 0).module) =
    some .dead := by decide +kernel
theorem test_supply_return : then' (.supplyReturn 0) (moduleIn (.holdUp true))
    (fun u => ((u.device 0).module, u.readNat 0x100000 4)) = some (.booting 1, 0) := by decide +kernel
theorem test_power_on_reset : then' (.powerOnReset 0) (moduleIn .dead) (fun u => (u.device 0).module) =
    some (.booting 1) := by decide +kernel
theorem test_cold_reset : then' (.coldReset 0) domain (fun u => (u.device 0).module) = some (.booting 1) := by decide +kernel
theorem test_warm_reset : then' (.warmReset 0) domain (fun u => ((u.device 0).module, (u.device 0).warm)) =
    some (.booting 5, true) := by decide +kernel
theorem test_tack_watchdog : then' (.tackWatchdog 0) domain (fun u => (u.device 0).module) = some (.booting 5) := by
  decide +kernel

/-! Privileged work on other threads. -/

/-- An S thread at tile 0 with the thread of region 2 on tile 1 selected. -/
def supervisor (act : Dword) : Thread :=
  { super8 spad 0 with priv := { tsel := 2, tthr := (probeRegion.tthr 0 0 0) + 1, tact := act } }
/-- A graph of one tile beside it. -/
def region2 : Region := { probeRegion with ctxId := 2, origins := [⟨0, 1, 0⟩] }
/-- The machine in which the S thread issues, with the selected thread as `x`. -/
def supervising (act : Dword) (x : Thread) : State :=
  (((withSlot {} (supervisor act)).setRegion 2 region2).setThread 4 { x with rid := 2, ctxId := 2 }).setPartition 0
    { quads := [0], hbm := [(0, 4)] }
/-- A breakpoint's item. -/
def brkItem : Item := ⟨.core, 9, ⟨9, 0, 0, 0, 0, 0, 0, 0, 0, 0, 0, 0, 0⟩⟩

theorem test_eret_resumes_item : then' .eretResume (supervising 0 { at8 0 0 with status := .stopped, items := [brkItem] })
    (fun u => (u.thread 4).map fun t => (t.pc, t.status, t.items)) = some (some (8, .running, [])) := by decide +kernel
theorem test_eret_wakes : then' .eretWake (supervising 2 { at8 0 0 with status := .halted })
    (fun u => (u.thread 4).map Thread.status) = some (some .running) := by decide +kernel
theorem test_eret_kills : then' .eretKill (supervising 1 (at8 0 0)) (fun u => ((u.region 2).isNone, (u.thread 4).isNone)) =
    some (true, true) := by decide +kernel
theorem test_pcsrr_state_of_selection : then' (.pcsrr 5 3) (supervising 0 { at8 0 0 with status := .halted })
    (fun u => (u.thread 0).map fun t => t.readG 5) = some (some 3) := by decide +kernel
/-- The S thread aims SDL_LOAD at entry 1 of quad 0's vault unit; a subgraph of IDLE-free MOV words stands in memory. -/
def loadingSubgraph (word : Nat) : State :=
  ((supervising 0 (at8 0 0)).setThread 0 { supervisor 0 with priv := { sdlTgt := BitVec.ofNat 64 (vaultAddr 0 64 + 1) } }).writeBytes
    (2 ^ 61 + 64) ((List.replicate 16 (leBytes word 4)).flatten)
theorem test_sdl_load_waits : then' (.sdlLoadWrite spad) (loadingSubgraph 0x3C062000)
    (fun u => (u.thread 0).map fun t => (t.priv.sdlStat, t.priv.sdlWords.map fun c => (c.1, c.2.length))) =
    some (some (3, [(BitVec.ofNat 64 (vaultAddr 0 64 + 1), 16)])) := by decide +kernel
theorem test_sdl_load_refuses_group_word : then' (.sdlLoadWrite spad) (loadingSubgraph 0x38862000)
    (fun u => (u.thread 0).map fun t => t.priv.sdlStat) = some (some 2) := by decide +kernel
theorem test_sdl_load_applies : then' (.sdlLoadApply 0)
    ((supervising 0 (at8 0 0)).setThread 0 { supervisor 0 with priv := { sdlTgt := 1, sdlStat := 3, sdlWords := [(1, [5])] } })
    (fun u => (u.thread 0).map fun t => t.priv.sdlStat) = some (some 1) := by decide +kernel
/-- The partition's list names the selected graph's thread. -/
def listed : State := { supervising 0 { at8 0 0 with items := [brkItem] } with tnext := [(0, [(threadName 2 0 0 0, false)])] }
theorem test_tnext_selects : then' (.tnextRead 5) listed
    (fun u => ((u.thread 0).map fun t => (t.readG 5, t.priv.tsel), SMap.get [] u.tnext 0)) =
    some (some (2, 2), [(threadName 2 0 0 0, true)]) := by decide +kernel
/-- An attestation request waits at device 0. -/
def attesting : State := { domain with attestations := [{ launch0 with image := 0, super := true }] }

/-! Words written out from the encodings of the instruction chapters, field by field, and what they decode to. -/

theorem test_decode_integer_1 :
    decode [0x04664D80] = some (.add 3 6 9 ⟨5, 1⟩) ∧
    decode [0x04664D81] = some (.sub 3 6 9 ⟨5, 1⟩) ∧
    decode [0x04664D82] = some (.and 3 6 9 ⟨5, 1⟩) ∧
    decode [0x04664D83] = some (.or 3 6 9 ⟨5, 1⟩) ∧
    decode [0x04664D84] = some (.xor 3 6 9 ⟨5, 1⟩) ∧
    decode [0x04664D85] = some (.andn 3 6 9 ⟨5, 1⟩) ∧
    decode [0x04664D86] = some (.shl 3 6 9 ⟨5, 1⟩) ∧
    decode [0x04664D87] = some (.shr 3 6 9 ⟨5, 1⟩) := by
  decide +kernel
theorem test_decode_integer_2 :
    decode [0x04664D88] = some (.sra 3 6 9 ⟨5, 1⟩) ∧
    decode [0x04664D89] = some (.rol 3 6 9 ⟨5, 1⟩) ∧
    decode [0x04664D8A] = some (.min 3 6 9 ⟨5, 1⟩) ∧
    decode [0x04664D8B] = some (.max 3 6 9 ⟨5, 1⟩) ∧
    decode [0x04664D8C] = some (.minn 3 6 9 ⟨5, 1⟩) ∧
    decode [0x04664D8D] = some (.maxn 3 6 9 ⟨5, 1⟩) ∧
    decode [0x04664D8E] = some (.slt 3 6 9 ⟨5, 1⟩) ∧
    decode [0x04664D8F] = some (.sltn 3 6 9 ⟨5, 1⟩) := by
  decide +kernel
theorem test_decode_integer_3 :
    decode [0x04664D90] = some (.seq 3 6 9 ⟨5, 1⟩) ∧
    decode [0x04660591] = some (.clz 3 6 ⟨5, 1⟩) ∧
    decode [0x04660592] = some (.ctz 3 6 ⟨5, 1⟩) ∧
    decode [0x04660593] = some (.popc 3 6 ⟨5, 1⟩) ∧
    decode [0x04660594] = some (.bswap 3 6 ⟨5, 1⟩) ∧
    decode [0x04660595] = some (.sextI8 3 6 ⟨5, 1⟩) ∧
    decode [0x04660596] = some (.sextI16 3 6 ⟨5, 1⟩) ∧
    decode [0x04660597] = some (.sextI32 3 6 ⟨5, 1⟩) := by
  decide +kernel
theorem test_decode_integer_4 :
    decode [0x04660598] = some (.zextN8 3 6 ⟨5, 1⟩) ∧
    decode [0x04660599] = some (.zextN16 3 6 ⟨5, 1⟩) ∧
    decode [0x0466059A] = some (.zextN32 3 6 ⟨5, 1⟩) ∧
    decode [0x04664DA0] = some (.mul 3 6 9 ⟨5, 1⟩) ∧
    decode [0x04664DA1] = some (.mulh 3 6 9 ⟨5, 1⟩) ∧
    decode [0x04664DA2] = some (.mulhn 3 6 9 ⟨5, 1⟩) ∧
    decode [0x04664DA4] = some (.div 3 6 9 ⟨5, 1⟩) ∧
    decode [0x04664DA5] = some (.divn 3 6 9 ⟨5, 1⟩) := by
  decide +kernel
theorem test_decode_integer_5 :
    decode [0x04664DA6] = some (.rem 3 6 9 ⟨5, 1⟩) ∧
    decode [0x04664DA7] = some (.remn 3 6 9 ⟨5, 1⟩) := by
  decide +kernel
theorem test_decode_immediate_1 :
    decode [0x0866C35A] = some (.addi 3 6 0xc35a) ∧
    decode [0x0C66C35A] = some (.andi 3 6 0xc35a) ∧
    decode [0x1066C35A] = some (.ori 3 6 0xc35a) ∧
    decode [0x1466C35A] = some (.xori 3 6 0xc35a) ∧
    decode [0x18660025] = some (.shli 3 6 37) ∧
    decode [0x18660065] = some (.shri 3 6 37) ∧
    decode [0x186600A5] = some (.srai 3 6 37) ∧
    decode [0x186600E5] = some (.roli 3 6 37) := by
  decide +kernel
theorem test_decode_immediate_2 :
    decode [0x1C66C35A] = some (.lui 3 6 0xc35a) := by
  decide +kernel
theorem test_decode_address :
    decode [0x20660AA5] = some (.lea 3 6 2 677) ∧
    decode [0x24664DB2] = some (.addr2 3 6 9 ⟨5, 1⟩ 12 2) := by
  decide +kernel
theorem test_decode_compare :
    decode [0x28A64D82] = some (.cmp 5 6 9 ⟨5, 1⟩ 2) ∧
    decode [0x2EA3C35A] = some (.cmpi 2 5 3 0xc35a) := by
  decide +kernel
theorem test_decode_predicate :
    decode [0x30A21D80] = some (.pand 5 2 3 ⟨5, 1⟩) ∧
    decode [0x30A21D81] = some (.por 5 2 3 ⟨5, 1⟩) ∧
    decode [0x30A21D82] = some (.pxor 5 2 3 ⟨5, 1⟩) ∧
    decode [0x30A21D83] = some (.pandn 5 2 3 ⟨5, 1⟩) ∧
    decode [0x30A21D84] = some (.porn 5 2 3 ⟨5, 1⟩) ∧
    decode [0x34664D8E] = some (.sel 3 6 9 ⟨5, 1⟩ 1 6) := by
  decide +kernel
theorem test_decode_csr :
    decode [0x386009A3] = some (.csrr 3 0x9a3) ∧
    decode [0x380349A3] = some (.csrw 3 0x9a3) ∧
    decode [0x386689A3] = some (.csrrw 3 6 0x9a3) := by
  decide +kernel
theorem test_decode_fp32_1 :
    decode [0x3C664D83] = some (.fadd 3 6 9 ⟨5, 1⟩ 3) ∧
    decode [0x3C664D8B] = some (.fsub 3 6 9 ⟨5, 1⟩ 3) ∧
    decode [0x3C664D93] = some (.fmul 3 6 9 ⟨5, 1⟩ 3) ∧
    decode [0x3C664D9B] = some (.fdiv 3 6 9 ⟨5, 1⟩ 3) ∧
    decode [0x3C6605A3] = some (.fsqrt 3 6 ⟨5, 1⟩ 3) ∧
    decode [0x3C664DA8] = some (.fmin 3 6 9 ⟨5, 1⟩) ∧
    decode [0x3C664DB0] = some (.fmax 3 6 9 ⟨5, 1⟩) ∧
    decode [0x3C664DBB] = some (.fma 3 6 9 ⟨5, 1⟩ 3) := by
  decide +kernel
theorem test_decode_fp32_2 :
    decode [0x3C6605C3] = some (.fcvtfI64 3 6 ⟨5, 1⟩ 3) ∧
    decode [0x3C6605CB] = some (.fcvtfN64 3 6 ⟨5, 1⟩ 3) ∧
    decode [0x3C6605D3] = some (.fcvtiI64 3 6 ⟨5, 1⟩ 3) ∧
    decode [0x3C6605DB] = some (.fcvtiN64 3 6 ⟨5, 1⟩ 3) ∧
    decode [0x3CA64DE4] = some (.fcmp 5 6 9 ⟨5, 1⟩ 4) := by
  decide +kernel
theorem test_decode_transfer :
    decode [0x42EC35A7] = some (.br 5 1 0x2c35a7) ∧
    decode [0x46EC35A7] = some (.call 5 1 0x2c35a7) ∧
    decode [0x48030580] = some (.jr 3 ⟨5, 1⟩) ∧
    decode [0x48660581] = some (.jalr 3 6 ⟨5, 1⟩) ∧
    decode [0x48000582] = some (.ret ⟨5, 1⟩) ∧
    decode [0x4C66C35A] = some (.loop 3 6 0xc35a) := by
  decide +kernel
theorem test_decode_load :
    decode [0x6066BAA5] = some (.ldB 3 6 11 2 677) ∧
    decode [0x6466BAA5] = some (.ldH 3 6 11 2 677) ∧
    decode [0x6866BAA5] = some (.ldW 3 6 11 2 677) ∧
    decode [0x6C66BAA5] = some (.ldD 3 6 11 2 677) ∧
    decode [0x8866B9A7] = some (.lda 3 6 11 2 1 167) := by
  decide +kernel
theorem test_decode_store :
    decode [0x7066BAA5] = some (.stB 3 6 11 2 677) ∧
    decode [0x7466BAA5] = some (.stH 3 6 11 2 677) ∧
    decode [0x7866BAA5] = some (.stW 3 6 11 2 677) ∧
    decode [0x7C66BAA5] = some (.stD 3 6 11 2 677) ∧
    decode [0x8466B9A7] = some (.sts 3 6 11 2 1 167) := by
  decide +kernel
theorem test_decode_full_empty :
    decode [0x8066B829] = some (.ldwSync 3 6 11 2 1 9) ∧
    decode [0x8066B8A9] = some (.ldwTake 3 6 11 2 1 9) ∧
    decode [0x8066B929] = some (.stwFill 3 6 11 2 1 9) ∧
    decode [0x8003B9B5] = some (.stwClear 3 11 2 53) ∧
    decode [0x8066BA35] = some (.fes 3 6 11 2 53) := by
  decide +kernel
theorem test_decode_atomic_1 :
    decode [0x8C66B829] = some (.amoSwap 3 6 11 2 1 9) ∧
    decode [0x8CC6B869] = some (.amoCas 6 6 11 2 1 9) ∧
    decode [0x8C66B8A9] = some (.amoAdd 3 6 11 2 1 9) ∧
    decode [0x8C66B8E9] = some (.amoAnd 3 6 11 2 1 9) ∧
    decode [0x8C66B929] = some (.amoOr 3 6 11 2 1 9) ∧
    decode [0x8C66B969] = some (.amoXor 3 6 11 2 1 9) ∧
    decode [0x8C66B9A9] = some (.amoMin 3 6 11 2 1 9) ∧
    decode [0x8C66B9E9] = some (.amoMax 3 6 11 2 1 9) := by
  decide +kernel
theorem test_decode_atomic_2 :
    decode [0x8C66BA29] = some (.amoMinn 3 6 11 2 1 9) ∧
    decode [0x8C66BA69] = some (.amoMaxn 3 6 11 2 1 9) ∧
    decode [0x8C66BA89] = some (.amoFadd 3 6 11 2 9) ∧
    decode [0x90C6BB65] = some (.invoke 6 6 11 2 13 37) := by
  decide +kernel
theorem test_decode_synchronisation_1 :
    decode [0x996D3D80] = some (.tjoin 11 13 7 ⟨5, 1⟩) ∧
    decode [0x980B0581] = some (.twait 11 ⟨5, 1⟩) ∧
    decode [0x9C000800] = some (.fence 2) ∧
    decode [0x9C03B9A7] = some (.fenceFlag 3 11 2 167) ∧
    decode [0xA0660580] = some (.waitany 3 6 ⟨5, 1⟩) ∧
    decode [0xA0660581] = some (.waitall 3 6 ⟨5, 1⟩) ∧
    decode [0xA0660582] = some (.ffr 3 6 ⟨5, 1⟩) ∧
    decode [0xA0660583] = some (.ffrClr 3 6 ⟨5, 1⟩) := by
  decide +kernel
theorem test_decode_synchronisation_2 :
    decode [0xA4000003] = some (.dsync 3) := by
  decide +kernel
theorem test_decode_stream_1 :
    decode [0xC1424E50] = some (.bind 5 2 9 1 37) ∧
    decode [0xC15F0000] = some (.unbind 5) ∧
    decode [0xC7000005] = some (.tctlStart 12 5) ∧
    decode [0xC7010000] = some (.tctlStop 12) ∧
    decode [0xC7020000] = some (.tctlResume 12) ∧
    decode [0xC5431800] = some (.tctlBase 5 3) ∧
    decode [0xC7041800] = some (.tctlStat 12 3) ∧
    decode [0xC9401800] = some (.strm 5 3) := by
  decide +kernel
theorem test_decode_stream_2 :
    decode [0xC941C35A] = some (.strmI 5 0xc35a) ∧
    decode [0xCFCF0029] = some (.drain 15 41) ∧
    decode [0xCFFE0025] = some (.drainSlot 37) := by
  decide +kernel
theorem test_decode_graph :
    decode [0xD3C01800] = some (.cfgLd 3) ∧
    decode [0xD3C11800] = some (.cfgStage 3) ∧
    decode [0xD3C20025] = some (.cfgSw 37) ∧
    decode [0xD7401805] = some (.lqStat 3 5) ∧
    decode [0xDBC01800] = some (.launch 3) ∧
    decode [0xDBC10000] = some (.exit) ∧
    decode [0xDBC20000] = some (.yield) := by
  decide +kernel
theorem test_decode_array :
    decode [0xE30D96A5] = some (.marm 1 5 37 677) ∧
    decode [0xE700000B] = some (.mfence 11) ∧
    decode [0xEB00000B] = some (.accClr 11) ∧
    decode [0xEB01000B] = some (.accHold 11) ∧
    decode [0xEB021800] = some (.accStat 3) ∧
    decode [0xEB031802] = some (.accRd 3 2) := by
  decide +kernel
theorem test_decode_system_1 :
    decode [0xF3C0C35A] = some (.trap 0xc35a) ∧
    decode [0xF3C1C35A] = some (.brk 0xc35a) ∧
    decode [0xF3C20000] = some (.halt) ∧
    decode [0xF3C30000] = some (.wfi) ∧
    decode [0xF3C41800] = some (.boost 3) ∧
    decode [0xF3C51835] = some (.saveset 3 53) ∧
    decode [0xF3C61800] = some (.energy 3) ∧
    decode [0xF3E00000] = some (.eretResume) := by
  decide +kernel
theorem test_decode_system_2 :
    decode [0xF3E11DA3] = some (.pcsrr 3 0x5a3) ∧
    decode [0xF3E21DA3] = some (.pcsrw 3 0x5a3) := by
  decide +kernel
theorem test_decode_lim_pair : decode [0xFC000001, 0x08C30002] = some (.lim 1 (some (.addi 6 3 2))) := by decide +kernel
theorem test_decode_lim_alone : decode [0xFC000001] = some (.lim 1 none) := by decide +kernel
theorem test_decode_lim_before_other_word : decode [0xFC000001, 0x04A63800] = some (.lim 1 none) := by decide +kernel
theorem test_decode_unassigned_major : decode [0x50000000] = none ∧ decode [0xBC000000] = none := by decide +kernel
theorem test_decode_reserved_bits : decode [0x04A63880] = none ∧ decode [0xF3C20001] = none := by decide +kernel
theorem test_table_word : decodeTableWord 32 0x04A63800 = some (.add 5 6 7 ⟨0, 0⟩) := by decide +kernel

/-! Witnesses: for each statement, states and operands that meet its hypotheses together. -/

theorem test_step_runs_add : (match step (State.reset.withFetchWord 32 0x04A63800) with
    | .next u => (u.thread 0).map Thread.pc | _ => none) = some 4 := by decide +kernel

theorem witness_decode_inverts_encode : (Instr.add 5 6 7 G).wf = true ∧ encode (.add 5 6 7 G) ≠ [] ∧
    (Instr.accRd 31 3).wf = true ∧ encode (.accRd 31 3) ≠ [] := by decide +kernel
theorem witness_decoded_word_is_encoded : decode [0x04A63800, 5] = some (.add 5 6 7 G) := by decide +kernel
theorem witness_reserved_words : Word.major 0x04000080 = 1 ∧ Word.guard 0x04000080 = ⟨0, 1⟩ ∧ Word.major 0x3C000080 = 15 ∧
    Word.guard 0x3C000080 = ⟨0, 1⟩ ∧ Word.major 0 = 0 ∧ Word.major 0xA8000000 = 42 ∧ Word.major 0xBC000000 = 47 ∧
    Word.major 0xF8000000 = 62 := by decide +kernel
theorem witness_reserved_guards : Word.major 0x48000080 = 0x12 ∧ Word.guard 0x48000080 = ⟨0, 1⟩ ∧ Word.major 0x98000080 = 0x26 ∧
    Word.guard 0x98000080 = ⟨0, 1⟩ ∧ Word.major 0xA0000080 = 0x28 ∧ Word.guard 0xA0000080 = ⟨0, 1⟩ ∧
    Word.major 0x40400000 = 0x10 ∧ BitVec.extractLsb' 23 3 (0x40400000 : Word) = 0 ∧
    BitVec.extractLsb' 22 1 (0x40400000 : Word) = 1 ∧ Word.major 0x44400000 = 0x11 ∧ Word.major 0x34000008 = 0x0D ∧
    BitVec.extractLsb' 0 3 (0x34000008 : Word) = 0 ∧ BitVec.extractLsb' 3 1 (0x34000008 : Word) = 1 := by decide +kernel
theorem witness_scheduled_turns : { domain with agenda := [.event (.portDown 0 0)] }.agenda = .event (.portDown 0 0) :: [] ∧
    { domain with agenda := [.tick 5] }.agenda = .tick 5 :: [] := by decide +kernel

/-- Whether the next step of `s` fetches words of probeThread that satisfy `f`. -/
def fetches (s : State) (f : List Word → State → Bool) : Bool :=
  decide (s.agenda = [] ∧ s.idle = false ∧ IssuesIn s probeThread probeRegion ∧
    s.canIssue probeThread probeRegion = true ∧ probeThread.inStream probeThread.pc = true) &&
  match fetchWords s probeRegion probeThread with
  | .words ws s1 => f ws s1
  | _ => false

theorem witness_undecoded_word : fetches (State.reset.withFetchWord 32 0x50000000)
    (fun ws s1 => decide (decode ws = none) && (s1.thread s1.cur).isSome) = true := by decide +kernel
theorem witness_step_runs : fetches (State.reset.withFetchWord 32 0x04A63800)
    (fun ws _ => decide (decode ws = some (.add 5 6 7 G)) && !probeThread.awaits (instrSources (.add 5 6 7 G))) = true := by
  decide +kernel
theorem witness_integer : Issues (on (at8 1 2)) (at8 1 2) ∧
    integerResult (at8 1 2) (.add 5 6 7 ⟨2, 0⟩) = some (⟨2, 0⟩, 5, 3, 0) ∧ (at8 1 2).guardOn ⟨2, 0⟩ = true ∧
    integerResult (at8 1 0) (.div 0 6 7 G) = some (G, 0, -1, 1) := by decide +kernel
theorem witness_immediate : Issues (on (at8 1 2)) (at8 1 2) ∧
    immediateResult (at8 1 2) (.addi 5 6 0xFFFF) = some (5, 0, 4) ∧
    immediateResult (at8 1 2) (.lim 0 (some (.shift 5 6 0 63))) = some (5, 0x8000000000000000, 8) := by decide +kernel
theorem witness_immediate_allowed : limAllowed (at8 1 2) (.addi 5 6 0xFFFF) ∧
    limAllowed (at8 1 2) (.lim 0 (some (.shift 5 6 0 63))) := by
  unfold limAllowed; decide
theorem witness_predicate : Issues (on (at8 1 2)) (at8 1 2) ∧
    predicateResult (at8 1 2) (.cmp 3 6 7 G 4) = some (some G, 3, true, 4) ∧
    predicateResult (at8 1 2) (.cmpi 2 3 6 0) = some (none, 3, false, 4) ∧ (at8 1 2).guardOn G = true := by decide +kernel
theorem witness_predicate_allowed : limAllowed (at8 1 2) (.cmp 3 6 7 G 4) ∧ limAllowed (at8 1 2) (.cmpi 2 3 6 0) := by
  unfold limAllowed; decide
theorem witness_false_guard : Issues (on (at8 1 2)) (at8 1 2) ∧ guardOf (.add 5 6 7 ⟨2, 1⟩) = some ⟨2, 1⟩ ∧
    (at8 1 2).guardOn ⟨2, 1⟩ = false := by decide +kernel

theorem witness_fp32 : Issues (on (at8 0x3F800000 0)) (at8 0x3F800000 0) ∧ (Instr.fadd 5 6 7 G 4).wf = true ∧
    fpResult (at8 0x3F800000 0) (.fadd 5 6 7 G 4) = some (G, 5, 0x3F800000, 0) ∧ (at8 0 0).guardOn G = true ∧
    BitVec.toNat (4#3) ≤ 4 := by decide +kernel
theorem witness_fp32_special : (XR.fin true 0 1).isZero = true ∧ (XR.inf true).isInf = true ∧ (1 : Nat) ≠ 0 ∧ (4 : Nat) ≤ 4 ∧
    (-2 ^ 63 : Int) ≤ 0 ∧ (0 : Int) ≤ 2 ^ 63 - 1 := by decide
/-- A third lies between two codes of every format, and 2^128 does not fit FP32. -/
theorem witness_fp32_rounding : fp32 ∈ floatFormats ∧ 0x7F7FFFFF ≤ fp32.maxCode ∧ (0 : Nat) < 3 ∧
    (let x : XR := .fin false 1 3
     (roundFmt x fp32 .rtz false).1 < fp32.maxCode ∧ (roundFmt x fp32 .raz false).2 &&& flOverflow = 0 ∧
     0 < (roundFmt x fp32 .raz false).1 ∧
     XR.lt (x.scale 1) (XR.add false (fp32.value (roundFmt x fp32 .rtz false).1)
       (fp32.value ((roundFmt x fp32 .rtz false).1 + 1))) = false) ∧
    2 ^ 128 * 1 ≤ 2 ^ 128 := by
  refine ⟨?_, ?_, ?_, ?_, ?_⟩ <;> decide +kernel
theorem witness_transfers : Issues (on (at8 252 256)) (at8 252 256) ∧
    ((at8 252 256).readP 2 ^^ decide ((1 : BitVec 1) = 1)) = false ∧
    ((at8 252 256).readP 2 ^^ decide ((0 : BitVec 1) = 1)) = true ∧ (at8 252 256).guardOn G = true := by decide +kernel
theorem witness_transfer_targets : InStream (at8 252 256) (branchTarget (at8 252 256) 61) ∧
    ¬ InStream (at8 252 256) (branchTarget (at8 252 256) 62) ∧ InStream (at8 252 256) ((at8 252 256).readG 6) ∧
    ¬ InStream (at8 252 256) ((at8 252 256).readG 7) ∧ InStream (at8 252 256) ((at8 252 256).readG 31) ∧
    ¬ InStream { at8 0 0 with g := [(31, 2)] } (Thread.readG { at8 0 0 with g := [(31, 2)] } 31) := by
  unfold InStream; decide +kernel
/-- Four loops around the thread. -/
def fourLoops : Thread :=
  { at8 3 0 with loops := [⟨4, 40, 2, 0, 9⟩, ⟨4, 44, 1, 0, 9⟩, ⟨4, 48, 1, 0, 9⟩, ⟨4, 52, 1, 0, 9⟩] }
theorem witness_loops : LoopForm (at8 3 0) (.loop 5 6 2) 5 6 2 4 ∧
    LoopForm fourLoops (.lim 0 (some (.loop 5 6 2))) 5 6 2 8 := by
  refine ⟨.inl ⟨rfl, rfl, by decide⟩, .inr ⟨rfl, rfl, by decide, by decide⟩⟩
theorem witness_loop_clauses : Issues (on fourLoops) fourLoops ∧ fourLoops.readG 6 ≠ 0 ∧ fourLoops.loops.length = 4 ∧
    (at8 3 0).readG 6 ≠ 0 ∧ (at8 3 0).loops.length < 4 ∧ (at8 3 0).readG 7 = 0 := by decide +kernel
theorem witness_loop_ends : InStream (at8 3 0) (8 + BitVec.ofNat 64 (4 * 2)) ∧ ¬ InStream (at8 3 0) (8 + BitVec.ofNat 64 (4 * 62)) ∧
    InStream (at8 3 0) 20 := by unfold InStream; decide +kernel
theorem witness_complete : inLoop.loops = ⟨8, 8, 2, 3, 9⟩ :: [] ∧ (8 : Dword) = inLoop.pc + BitVec.ofNat 64 (4 - 4) ∧
    1 < BitVec.toNat (2 : Dword) ∧ BitVec.toNat (1 : Dword) = 1 := by decide +kernel
theorem witness_traps : IssuesIn (on (at8 0 0)) (at8 0 0) probeRegion ∧ (at8 0 0).held = .none ∧ (at8 0 0).items = [] ∧
    (at8 0 0).outstanding = [] ∧ (at8 0 0).cb = [] ∧ (at8 0 0).tagCount = [] ∧
    { at8 0 0 with tagCount := [(3, 1)] }.tagCount ≠ [] := by decide +kernel
theorem witness_csr_forms : CsrForm (at8 0 0) (.csrr 5 10) (.csrr 5 10) (.csrr 5 10) 4 ∧
    CsrForm (at8 0 0) (.lim 0 (some (.csrw 6 4))) (.csrw 6 4) (.csrw 6 4) 8 := by
  refine ⟨.inl ⟨rfl, rfl⟩, .inr ⟨rfl, rfl, by decide⟩⟩
theorem witness_csr_values : IssuesIn (on (at8 0 0)) (at8 0 0) probeRegion ∧ csrValue (at8 0 0) probeRegion 10 = some 0 ∧
    csrValue (at8 0 0) probeRegion 11 = none ∧ (csrWritten (at8 0 0) 4 9).isSome = true ∧ csrWritten (at8 0 0) 2 9 = none ∧
    csrWritten (at8 0 0) 0xFFF 9 = none := by decide +kernel
/-- A thread of the domain with the address of a must-save table in g6; the graph may save 4 KiB. -/
def savesetState : State :=
  (graphState { resident0 with msMax := 4096 } (at8 0x400000 0)).writeBytes 0x400000
    (leBytes 0x500000 8 ++ leBytes 0x1000 4 ++ leBytes 7 4)
theorem witness_boost_and_saveset : IssuesIn savesetState (at8 0x400000 0) { resident0 with msMax := 4096 } ∧
    (at8 0 0).held = .none ∧ (at8 0 0).outstanding = [] ∧ (at8 0 0).cb = [] ∧ (at8 1 0).readG 6 % 64 ≠ 0 ∧
    ((at8 0x400000 0).readG 6).toNat % 64 = 0 := by decide +kernel
theorem witness_saveset_table : (match readBlock savesetState { resident0 with msMax := 4096 } (at8 0x400000 0) 0x400000 2 with
    | .bytes bs _ _ => (match piecesOf bs 1 with
      | some ps => disjointPieces ps && decide ((ps.map Piece.len).sum ≤ 4096)
      | none => false)
    | _ => false) = true := by decide +kernel

/-! Privileged instructions and accesses. -/

theorem witness_level_u : IssuesIn (on (at8 0 0)) (at8 0 0) probeRegion ∧ (at8 0 0).super = false := by decide +kernel
/-- A thread of level S with nothing selected. -/
abbrev sup0 : Thread := super8 0x8000 1
/-- Its machine. -/
def supState : State := (on sup0).setPartition 0 { quads := [0], hbm := [(0, 4)] }
theorem witness_pcsrr : IssuesIn supState sup0 probeRegion ∧ sup0.super = true ∧
    (privValue supState sup0 probeRegion 0x22).isSome = true ∧ supState.select 0 sup0.priv = none ∧
    BitVec.toNat (9#11) = 9 ∧ BitVec.toNat (0x1F#11) = 0x1F ∧ 0x23 ≤ BitVec.toNat (0x7FF#11) := by decide +kernel
theorem witness_pcsrr_selected : (match (supervising 0 { at8 0 0 with items := [brkItem] }).select 0 (supervisor 0).priv with
    | some x => decide (x.thread.items = brkItem :: []) | none => false) = true := by decide +kernel
theorem witness_tnext : SMap.get [] listed.tnext 0 = [] ++ (threadName 2 0 0 0, false) :: [] ∧
    listed.region (threadName 2 0 0 0 / 2 ^ 20) = some region2 ∧ IssuesIn listed (supervisor 0) probeRegion ∧
    (supervisor 0).super = true ∧ (supervisor 0).loops = [] := by decide +kernel
theorem witness_tnext_none_waits : ∀ c ∈ SMap.get [] supState.tnext 0, c.2 = true := by decide +kernel
theorem witness_pcsrw : (privWritten sup0.priv 0x20 5).isSome = true ∧ (privWritten sup0.priv 7 3).isSome = true ∧
    IssuesIn supState sup0 probeRegion ∧ 0x22 ≤ BitVec.toNat (0x22#11) := by decide +kernel
theorem witness_pcsrw_roots : RootOk supState 0 0x8000 ∧ RootOk supState 0 (sup0.readG 6) ∧ ¬ RootOk supState 0 1 ∧
    PoolOk supState 0 0x40 ∧ ¬ PoolOk supState 0 1 ∧ RootOk supState 0 0x7FC000 ∧ ¬ RootOk supState 0 0x800000 := by
  unfold RootOk PoolOk; decide +kernel
/-- Whether the S thread has a selection that satisfies `f`, with nothing of its own open. -/
def selects (s : State) (t : Thread) (f : State → Selected → Bool) : Bool :=
  decide (t.super = true ∧ t.held = .none ∧ t.outstanding = [] ∧ t.cb = []) &&
  match (s.setThread s.cur t).select 0 t.priv with
  | some x => decide (SMap.get none s.images x.rid = none ∧ x.region.keyAt x.part x.rx x.ry ≠ s.cur) && f (s.setThread s.cur t) x
  | none => false
theorem witness_eret_core_item : selects (supervising 0 { at8 0 0 with items := [brkItem] }) (supervisor 0)
    (fun _ x => decide (x.thread.items.map Item.src = [.core])) = true := by decide +kernel
theorem witness_eret_stream_item : selects (supervising 0 { at8 0 0 with items := [{ brkItem with src := .stream 1 }] })
    (supervisor 0) (fun _ x => decide (x.thread.items.map Item.src = [.stream 1])) = true := by decide +kernel
theorem witness_eret_scalar_item :
    selects (supervising 0 { at8 0 0 with items := [{ brkItem with src := .scalar }], held := .reissue }) (supervisor 0)
      (fun _ x => decide (x.thread.items.map Item.src = [.scalar] ∧ x.thread.held = .reissue)) = true := by decide +kernel
theorem witness_eret_halted : selects (supervising 2 { at8 0 0 with status := .wfi }) (supervisor 2)
    (fun _ x => decide (x.stateCode = 4)) = true := by decide +kernel
theorem witness_eret_kill_other : selects (supervising 1 (at8 0 0)) (supervisor 1)
    (fun s x => ((s.endGraph x.rid 1 0).thread s.cur).isSome && decide ((s.endGraph x.rid 1 0).cur = s.cur)) = true := by
  decide +kernel
/-- The S thread's own graph has a second tile, which it has selected. -/
def ownGraph : State :=
  ((on { supervisor 1 with priv := { tsel := 1, tthr := probeRegion.tthr 0 1 0 + 1, tact := 1 } }).setRegion 1
    { probeRegion with w := 2 }).setThread 4 { at8 0 0 with rx := 1 }
theorem witness_eret_kill_own :
    selects ownGraph { supervisor 1 with priv := { tsel := 1, tthr := probeRegion.tthr 0 0 0 + 1, tact := 1 } }
      (fun s x => ((s.endGraph x.rid 1 0).thread (s.endGraph x.rid 1 0).cur).isNone) = true := by decide +kernel
theorem witness_eret_nothing_selected : IssuesIn supState sup0 probeRegion ∧ sup0.held = .none ∧ sup0.outstanding = [] ∧
    sup0.cb = [] ∧ (supState.setThread supState.cur sup0).select 0 sup0.priv = none := by decide +kernel
/-- Whether the block at `spad` reads as 16 words that satisfy `f`. -/
def readsSubgraph (s : State) (f : State → List Word → Bool) : Bool :=
  match s.thread 0 with
  | some t => decide (t.super = true ∧ t.held = .none ∧ t.acquiring = []) &&
      (match readBlock s probeRegion t spad 8 with
      | .bytes bs _ s1 => f s1 (wordsOf bs 16)
      | _ => false)
  | none => false
theorem witness_saddle_load : readsSubgraph (loadingSubgraph 0x3C062000)
    (fun s1 ws => s1.sdlTargetOk 0 (BitVec.ofNat 64 (vaultAddr 0 64 + 1)) && ws.all saddleWordOk) = true := by decide +kernel
theorem witness_saddle_load_refused : readsSubgraph (loadingSubgraph 0x38862000) (fun _ ws => !ws.all saddleWordOk) = true := by
  decide +kernel

/-- Whether an access reaches a place, and may act there, with nothing open, and `f` of it. -/
def reaches (i : Instr) (t : Thread) (s : State) (f : Form → Place → State → Bool) : Bool :=
  decide (IssuesIn s t probeRegion ∧ t.held = .none ∧ t.acquiring = [] ∧ t.outstanding = [] ∧ t.cb = [] ∧ s.replies = [] ∧
    s.holdAccesses = false) &&
  match formOf t i with
  | none => false
  | some g =>
    match reach s probeRegion t.super t.part t.rx t.ry g.va g.n g.n g.kind.walk with
    | .at p s1 => s1.wayOpen s.cur p.addr && !s1.unchecked (p.addr / 64) && !s1.inUse (p.addr / 64) (fun _ => false) && f g p s1
    | _ => false
/-- The same at a place on the thread's own device. -/
def meets' (i : Instr) (t : Thread) (s : State) (f : Form → Place → State → Bool) : Bool :=
  reaches i t s fun g p s1 => decide (addrDev p.addr = keyDev s.cur ∧ s1.deferReplies = false) && f g p s1
theorem witness_load : meets' (.ldD 5 6 0 0 0) (at8 spad 9) (spadState .poisoned (at8 spad 9))
    (fun g p s1 => decide (g.kind = .load ∧ s1.sector (p.addr / 64) = .poisoned)) = true := by decide +kernel
theorem witness_acquire_load : meets' (.lda 5 6 1 3 3 0) (at8 spad 9) (spadState .empty (at8 spad 9))
    (fun g _ _ => decide (g.kind = .lda)) = true := by decide +kernel
theorem witness_store : meets' (.stB 7 6 0 2 63) (at8 spad 9) (spadState .empty (at8 spad 9))
    (fun g p _ => decide (g.kind = .store ∧ effective g p < 3)) = true := by decide +kernel
theorem witness_release_store : meets' (.sts 7 6 0 3 0 0) (at8 spad 9) (spadState .empty (at8 spad 9))
    (fun g p _ => decide (g.kind = .sts ∧ effective g p = 3)) = true := by decide +kernel
theorem witness_fabric_store : meets' (.stD 7 6 0 3 7) (at8 spad 9) (spadState .empty (at8 spad 9))
    (fun g p _ => decide (g.kind = .store ∧ effective g p = 3)) = true := by decide +kernel
theorem witness_sync : meets' (.ldwSync 5 6 0 0 3 0) (at8 spad 9) (spadState .full (at8 spad 9))
    (fun g p s1 => decide (g.kind = .sync ∧ s1.sector (p.addr / 64) = .full)) = true := by decide +kernel
theorem witness_take : meets' (.ldwTake 5 6 0 0 3 0) (at8 spad 9) (spadState .full (at8 spad 9))
    (fun g p s1 => decide (g.kind = .take ∧ s1.sector (p.addr / 64) = .full)) = true := by decide +kernel
theorem witness_fill : meets' (.stwFill 7 6 0 0 3 0) (at8 spad 9) (spadState .poisoned (at8 spad 9))
    (fun g p s1 => decide (g.kind = .fill ∧ s1.sector (p.addr / 64) ≠ .full)) = true := by decide +kernel
theorem witness_clear : meets' (.stwClear 6 0 0 0) (at8 spad 9) (spadState .full (at8 spad 9))
    (fun g _ _ => decide (g.kind = .clear)) = true := by decide +kernel
theorem witness_fes : meets' (.fes 5 6 0 0 0) (at8 spad 9) (spadState .full (at8 spad 9))
    (fun g _ _ => decide (g.kind = .fes)) = true := by decide +kernel
theorem witness_sync_parks : meets' (.ldwTake 5 6 0 0 3 0) (at8 spad 9) (spadState .empty (at8 spad 9))
    (fun g p s1 => decide (g.kind = .take ∧ s1.sector (p.addr / 64) = .empty ∧
      (s1.parked.filter fun c => s1.portOf c.1 = s1.portOf (p.addr / 64)).length < 64)) = true := by decide +kernel
theorem witness_fill_parks : meets' (.stwFill 7 6 0 0 3 0) (at8 spad 9) (spadState .full (at8 spad 9))
    (fun g p s1 => decide (g.kind = .fill ∧ s1.sector (p.addr / 64) = .full)) = true := by decide +kernel
theorem witness_atomic : meets' (.amoFadd 7 6 0 0 0) (at8 spad 9) (spadState .full (at8 spad 9))
    (fun g _ _ => decide (g.kind = .amo .fadd)) = true := by decide +kernel
/-- A thread of a partition that maps its second 8 GiB to device 1, which is up with every lane group on the way. -/
def across (t : Thread) : State :=
  let s := domain.writeBytes 0x108008 (leBytes (2 ^ 48 + 0x1E) 8)
  let s1 := s.setPartition 0 { (s.partition 0) with hbm := [(0, 2 ^ 18), (2 ^ 27, 2 ^ 12)], devices := [0, 1] }
  let up (d : Nat) : Device :=
    { s1.device d with module := .up, groups := (List.range 96).map fun i => (i, ({ state := .up } : LaneGroup)) }
  (((s1.setDevice 0 (up 0)).setDevice 1 (up 1)).setRegion 1 probeRegion).setThread 0 t
/-- A thread with an address of device 1 in g6. -/
abbrev farThread : Thread := at8 0x200000040 9
theorem witness_remote_accesses : ∀ c ∈ [(Instr.ldD 5 6 0 0 0, AccKind.load), (.lda 5 6 1 3 3 0, .lda), (.amoAdd 5 6 0 0 0 0, .amo .add),
      (.sts 7 6 0 3 0 0, .sts), (.stwFill 7 6 0 0 3 0, .fill)],
    reaches c.1 farThread (across farThread) (fun g p _ => decide (g.kind = c.2 ∧ addrDev p.addr ≠ keyDev 0)) = true := by
  decide +kernel
theorem witness_misaligned : IssuesIn (on (at8 0x1004 0)) (at8 0x1004 0) probeRegion ∧
    (formOf (at8 0x1004 0) (.ldD 5 6 0 0 0)).map (fun g => (g.va.toNat % g.n, decide (g.va.toNat < 2 ^ 56))) =
      some (4, true) := by decide +kernel

/-- The graph with every frame of its image, whose thread misses an alignment. -/
def recording : State := (withSlot {} (at8 0x1004 0)).setRegion 1 { probeRegion with imageFrames := List.replicate 16 0x4000000 }
theorem witness_record_place : Framed { probeRegion with imageFrames := List.replicate 16 0x4000000 } ∧
    RecordFree recording (Region.recordAddr { probeRegion with imageFrames := List.replicate 16 0x4000000 } 0 0 0 .scalar) ∧
    IssuesIn recording (at8 0x1004 0) { probeRegion with imageFrames := List.replicate 16 0x4000000 } := by
  refine ⟨by unfold Framed; decide +kernel, ⟨fun w h => ?_, fun c h => ?_⟩, by decide +kernel⟩
  · have e : recording.walks = [] := by decide +kernel
    rw [e] at h; cases h
  · have e : recording.marks = [] := by decide +kernel
    rw [e] at h; cases h
theorem witness_token_operations : Issues (on (at8 6 0)) (at8 6 0) ∧ (at8 6 0).guardOn G = true ∧
    (∀ j ∈ ((at8 6 0).token 1).lw ++ ((at8 6 0).token 1).rs, j ∉ (at8 6 0).outstanding) ∧
    (∃ j ∈ (Thread.token { at8 0 0 with tok := [(1, ⟨[4], []⟩)] } 1).lw, j ∈ [4]) := by decide +kernel
theorem witness_tag_operations : (4 : Dword) &&& (at8 6 0).readG 6 ≠ 0 ∧ (8 : Dword) &&& (at8 6 0).readG 6 = 0 ∧
    (at8 6 0).readG 6 ≠ 0 ∧ (6 : Dword) &&& (at8 6 0).readG 6 = (at8 6 0).readG 6 := by decide +kernel
/-- A thread with one store to tile 0's scratchpad in its combining buffer, or to device 1. -/
def buffered (sector : Nat) : Thread := { at8 0 0 with cb := [⟨7, sector, [(63, some 9)], 0, 0⟩], outstanding := [7], fstores := [7] }
theorem witness_fences : Issues (on (buffered ((2 ^ 61 + 64) / 64))) (buffered ((2 ^ 61 + 64) / 64)) ∧
    (buffered 0).held = .none ∧ (∀ j ∈ (buffered 0).outstanding, j ∈ (buffered 0).fstores) ∧
    (∃ j ∈ awaiting.outstanding, j ∉ awaiting.fstores) ∧ BitVec.toNat (1#2) < 2 ∧ 2 ≤ BitVec.toNat (2#2) ∧
    addrDev ((2 ^ 61 + 64) / 64 * 64) = keyDev 0 ∧ addrDev (2 ^ 48 / 64 * 64) ≠ keyDev 0 := by decide +kernel
theorem witness_fence_entry : EntryOk ⟨7, (2 ^ 61 + 64) / 64, [(63, some 9)], 0, 0⟩ := by unfold EntryOk; decide
theorem witness_fence_may_write : NotAway (buffered ((2 ^ 61 + 64) / 64)) 7 ∧
    MayWrite (on (buffered ((2 ^ 61 + 64) / 64))) 0 (buffered ((2 ^ 61 + 64) / 64)) ⟨7, (2 ^ 61 + 64) / 64, [(63, some 9)], 0, 0⟩ := by
  unfold MayWrite
  exact ⟨fun a h => (by cases h), by decide +kernel⟩
/-- Whether fence.flag reaches a sector on the thread's own tile that satisfies `f`. -/
def flagReaches (s : State) (t : Thread) (f : State → Place → Bool) : Bool :=
  decide (IssuesIn s t probeRegion ∧ t.held = .none ∧ t.acquiring = [] ∧ t.outstanding = [] ∧ t.cb = [] ∧ s.replies = [] ∧
    s.holdAccesses = false) &&
  match reach s probeRegion t.super t.part t.rx t.ry (place t 6 (0 : BitVec 8) 64) 64 64 AccKind.flag.walk with
  | .at p s1 => decide (addrDev p.addr = keyDev s.cur) && s1.wayOpen s.cur p.addr &&
      !s1.inUse (p.addr / 64) (fun _ => false) && f s1 p
  | _ => false
theorem witness_fence_flag : flagReaches (spadState .empty (at8 spad 0)) (at8 spad 0)
    (fun s p => decide (s.sector (p.addr / 64) ≠ .full)) = true := by decide +kernel
theorem witness_fence_flag_parks : flagReaches (spadState .full (at8 spad 0)) (at8 spad 0)
    (fun s p => decide (s.sector (p.addr / 64) = .full ∧ (s.parked.filter fun c => s.portOf c.1 = s.portOf (p.addr / 64)).length < 64)) =
    true := by
  decide +kernel
/-- A member of level 1's domain. -/
def member : Thread := { at8 0 0 with domMemb := 1 }
/-- The same, after it has signalled its arrival. -/
def arrived1 : Thread := { member with arrivals := [(1, 1)] }
/-- Two members on neighbouring tiles of one graph. -/
def twoMembers : State :=
  ((on member).setRegion 1 { probeRegion with w := 2 }).setThread 4 { member with rx := 1 }
theorem witness_dsync : IssuesIn (on member) member probeRegion ∧ BitVec.toNat (4#3) ≤ 4 ∧
    ¬ ((4#3) = 0 ∨ member.domMemb.getLsbD (4 - 1) = true) ∧ member.domMemb.getLsbD (1 - 1) = true ∧
    member.wait ≠ .dsync 1 ∧ member.held = .none ∧ member.outstanding = [] ∧ member.cb = [] := by decide +kernel
theorem witness_dsync_all_arrived : ((on member).setThread 0 arrived1).allArrived arrived1 probeRegion 1 1 = true := by
  decide +kernel
theorem witness_dsync_waits : IssuesIn twoMembers member { probeRegion with w := 2 } ∧
    (twoMembers.setThread 0 arrived1).allArrived arrived1 { probeRegion with w := 2 } 1 1 = false := by decide +kernel
theorem witness_dsync_goes_on : (on { arrived1 with wait := .dsync 1 }).allArrived { arrived1 with wait := .dsync 1 } probeRegion 1
    (SMap.get 0 arrived1.arrivals 1) = true := by decide +kernel

/-- The machine with a flit on its way. -/
def flying (f : Flit) : State := { upState awaiting [1, 2, 3, 4, 5, 6, 7, 8] with flits := [.of f (some 0)] }
/-- A thread that waits for the acknowledgement of a filling write. -/
def fillingAway : Thread := { awaiting with wait := .away ⟨.fill, spad, 8, 2, 0, 5, 0, 0, 8, 7, false, [], []⟩ }
theorem witness_replies : { upState awaiting [] with replies := [⟨acc7, 5, 9, false, 0, 0, 0⟩] }.replies =
      ⟨acc7, 5, 9, false, 0, 0, 0⟩ :: [] ∧ (upState awaiting []).thread acc7.key = some awaiting ∧
    awaiting.ctxId = acc7.ctx ∧ acc7.id < 2 ^ 32 ∧ acc7.id ≠ blockLoadId ∧ NotAway awaiting acc7.id ∧
    fillingAway.wait = .away ⟨.fill, spad, 8, 2, 0, 5, 0, 0, 8, 7, false, [], []⟩ := by
  refine ⟨rfl, by decide +kernel, rfl, by decide, by decide, fun a h => (by cases h), rfl⟩
/-- A request of another device's memory, which is this one's. -/
def quadOwned (f : Flit) : State := (flying f).setPartition 0 { quads := [0], hbm := [(0, 4)] }
theorem witness_arrivals : ∀ f ∈ [Flit.loadReply ⟨acc7, 5, 9, true, 0, 0, 0⟩, .atomicReply ⟨acc7, 5, 9, false, 0, 0, 0⟩,
      .storeAck acc7 0 0 0 1, .invResult ⟨acc7, 5, 2, 9, 0, 0, 0⟩, .loadReq acc7 5 (2 ^ 61 + 64) 8 (List.replicate 8 none),
      .atomicReq acc7 5 (2 ^ 61 + 64) 4 .fadd 1 0, .pooledReadReq 0 1 1 0 (2 ^ 61 + 64) 64 0, .invocation invoked,
      .launch true launch0 0, .sched (.gate 1 5000) 0 0], Arrives (quadOwned f) f [] := by
  intro f hf
  refine ⟨.of f (some 0), rfl, rfl, ?_, ?_⟩ <;> revert f <;> decide +kernel
/-- A filling store of one masked byte. -/
abbrev filling : Flit := .pooledStore acc7 ((2 ^ 61 + 64) / 64) [[(63, some 9)]] true false false
theorem witness_pooled_store : Arrives (quadOwned filling) filling [] ∧ (quadOwned filling).dropDeadFills = quadOwned filling := by
  exact ⟨⟨.of filling (some 0), rfl, rfl, by decide +kernel, by decide +kernel⟩, by decide +kernel⟩
theorem witness_foreign_requests : ∀ f ∈ [Flit.loadReq acc7 5 (2 ^ 61 + 64) 8 (List.replicate 8 none),
      .atomicReq acc7 5 (2 ^ 61 + 64) 4 .fadd 1 0, .pooledReadReq 0 1 1 0 (2 ^ 61 + 64) 64 0, .invocation invoked],
    (flying f).flits = .of f (some 0) :: [] ∧ (flying f).canArrive (.of f (some 0)) = true ∧
    (flying f).admits (.of f (some 0)) f.reach = false := by
  intro f hf
  refine ⟨rfl, ?_, ?_⟩ <;> revert f <;> decide +kernel
theorem witness_invocation_result : { upState awaiting [] with results := [⟨acc7, 4, 2, 9, 0, 0, 0⟩] }.results =
      ⟨acc7, 4, 2, 9, 0, 0, 0⟩ :: [] ∧
    (upState awaiting []).thread 0 = some awaiting ∧ SMap.get 0 awaiting.tagCount 2 ≤ 1 := by decide +kernel

/-- The machine of the parked take. -/
def parkedState : State :=
  { spadState .full (parkedThread (.parked waitingTake)) with
    parked := [((2 ^ 61 + 64) / 64, 0)], devices := [(0, { module := .up })] }
theorem witness_parked : parkedState.thread 0 = some (parkedThread (.parked waitingTake)) ∧
    WaitsForSector parkedState (.parkedAccessServe ((2 ^ 61 + 64) / 64)) 0 ((2 ^ 61 + 64) / 64)
      (parkedThread (.parked waitingTake)) waitingTake := by
  refine ⟨by decide +kernel, .inl ⟨rfl, rfl, by decide +kernel, by decide +kernel⟩⟩
theorem witness_parked_reaches : (match reach { parkedState with parked := [] } probeRegion false 0 0 0 spad 8 8 .readWrite with
    | .at p s1 => decide (p.addr / 64 = (2 ^ 61 + 64) / 64 ∧ s1.sector ((2 ^ 61 + 64) / 64) = .full ∧ waitingTake.late = false ∧
        waitingTake.size ≤ 8 ∧ addrDev p.addr = keyDev 0) && !s1.unchecked (p.addr / 64) &&
        !s1.inUse (p.addr / 64) (fun _ => false)
    | _ => false) = true ∧ parkedState.goesOn 0 (parkedThread (.parked waitingTake)) = true := by decide +kernel
/-- A fill that was sent back by a full list; its sector is empty now. -/
def unparkedFill : Access := { waitingTake with kind := .fill, d1 := 5 }
/-- Its thread. -/
def unparked : Thread := { at8 spad 0 with wait := .unparked unparkedFill }
theorem witness_unparked_fill : (match reach (spadState .empty unparked) probeRegion false 0 0 0 spad 8 8 .write with
    | .at p s1 => decide (p.addr / 64 = (2 ^ 61 + 64) / 64 ∧ s1.sector ((2 ^ 61 + 64) / 64) ≠ .full)
    | _ => false) = true ∧ (spadState .empty unparked).thread 0 = some unparked := by decide +kernel
theorem witness_combining_buffer : (on (buffered ((2 ^ 61 + 64) / 64))).thread 0 = some (buffered ((2 ^ 61 + 64) / 64)) ∧
    (buffered ((2 ^ 61 + 64) / 64)).cb[0]? = some ⟨7, (2 ^ 61 + 64) / 64, [(63, some 9)], 0, 0⟩ ∧
    ((buffered ((2 ^ 61 + 64) / 64)).cb.filter fun x => decide (x.id = 7)) = (buffered ((2 ^ 61 + 64) / 64)).cb ∧
    (upState (buffered 0) []).goesOn 0 (buffered 0) = true ∧
    (moduleIn .dead).goesOn 0 (buffered 0) = false := by decide +kernel
theorem witness_invoke : (match reach (spadState .empty (at8 spad 1)) probeRegion false 0 0 0 spad 64 64 .readWrite with
    | .at p s1 => decide (s1.flits = [] ∧ s1.invocations = [] ∧ addrDev p.addr = keyDev 0) | _ => false) = true ∧
    (at8 spad 1).tagFull 63 = false := by decide +kernel
/-- Subgraphs of one word: MOV of l0, and MOV of l0 that starts again while its result is not zero. -/
theorem witness_saddle_run : ∀ free, (Machine.saddleRun [0x3C460000] [] free 10 20).isSome = true ∧
    (Machine.saddleRun [0x3C460004] [] free 10 20).isNone = true := by
  intro free; exact ⟨rfl, rfl⟩
theorem witness_saddle_entries : invoked.owned = true ∧ { invoked with entry := 4 }.owned = false ∧ invoked.target % 64 = 0 ∧
    (upState (at8 0 0) []).sector (invoked.target / 64) ≠ .poisoned := by decide +kernel

/-! Streams, configuration and the array. -/

theorem witness_bind : Issues (withSlot boundSource (at8 0 0)) (at8 0 0) ∧ boundSource.agIdle 1 = true ∧
    nestFits (nestAt programs 1 3) 23 = true ∧ nestFits (nestAt programs 1 3) 24 = false ∧ (at8 0 0).tagFull 63 = false ∧
    boundSink.agIdle 1 = false := by decide +kernel
/-- West lane 5 holds a KONST word at index 1. -/
def konstSlot : Slot := { words := [(wordKey 1 5 1, 0x3F800001)] }
theorem witness_table_control : (boundSource.ag 1).bound = true ∧ (boundSource.ag 1).combSector = none ∧
    (boundSource.ag 7).bound = false ∧ konstSlot.konstLane 0 1 = some 5 ∧ konstSlot.konstLane 0 0 = none ∧
    BitVec.toNat (7#4) < 8 ∧ 8 ≤ BitVec.toNat (8#4) ∧ BitVec.toNat (11#4) < 12 ∧ 12 ≤ BitVec.toNat (12#4) := by decide +kernel
theorem witness_stream_commands : (boundSource.entries 0).length < 16 ∧
    (List.replicate 16 (SbEntry.drain 0)).length = 16 ∧ boundSource.ended 0 (.cmd 1 (streamCount 1) spad []) = false ∧
    boundSource.ended 0 (.cmd 1 (streamCount 0) spad []) = false ∧ (at8 0 0).tagFull 5 = false ∧
    (∀ k ∈ sourcePorts, (boundSource.entries k).length < 16) := by decide +kernel
/-- A thread behind an event of R136 whose last entry has been sent, and the same with the access that sends it still in its
pool. -/
def sentEntry : Thread := { at8 0 0 with synced := true, fstores := [7], outstanding := [7] }
theorem witness_stream_command_waits : sentEntry.synced = true ∧ sentEntry.cb = [] ∧
    (∃ j ∈ sentEntry.fstores, j ∈ sentEntry.outstanding ∧ ∀ a ∈ sentEntry.pool, a.id ≠ j) ∧ (at8 0 0).synced = false ∧
    (∀ j ∈ Thread.fstores { sentEntry with pool := [waitingTake] }, j ∈ Thread.outstanding { sentEntry with pool := [waitingTake] } →
      ∃ a ∈ Thread.pool { sentEntry with pool := [waitingTake] }, a.id = j) := by decide +kernel
/-- Whether the block at `spad` of blockState passes the checks of a load and of a staging. -/
theorem witness_configuration : (match readWords blockState probeRegion (at8 spad 0) spad 1 with
    | .bytes h _ s1 => decide (field h 2 2 = 0 ∧ field h 0 2 = 1) &&
      (match readRecords s1 probeRegion (at8 spad 0) (spad + 4) 1 with
      | .bytes bs _ s2 => (match cfgRecords 1 (wordsOf bs (bs.length / 4)) with
        | some rs => (match cfgCheck s2.curSlot.words s2.curSlot.queues [0, 1, 2, 3, 4, 5] rs with
            | .inl _ => rs.all fun c => c.units.all fun n => s2.curSlot.quiescent c.kind n
            | _ => false) &&
          (match cfgCheck s2.curSlot.words s2.curSlot.queues [1, 2, 3, 4, 5] rs with | .inl _ => true | _ => false)
        | none => false)
      | _ => false)
    | _ => false) = true := by decide +kernel
theorem witness_staging_reads : (at8 spad 0).held = .none ∧ (at8 spad 0).acquiring = [] := by decide
theorem witness_staging_free : StagingFree blockState := by
  intro st h
  have e : SMap.get none blockState.staging (keyTile blockState.cur) = none := by decide +kernel
  rw [e] at h; cases h
/-- A staged set at rest, for a slot with one lane in use. -/
def switchable : State :=
  { withSlot { addLane with edges := [] } (at8 0 0) with staging := [(0, some { stagedMove with switching := false })] }
theorem witness_configuration_switch : SMap.get none switchable.staging (keyTile switchable.cur) =
      some { stagedMove with switching := false } ∧ stagedMove.slot = keySlot switchable.cur ∧
    (switchable.slot 0).drains = [] ∧ (switchable.slot 0).arms = [] ∧ (switchable.slot 0).hasInput 264 = true ∧
    SMap.get none blockState.staging (keyTile blockState.cur) = none := by decide +kernel
theorem witness_launch : (match readBlock (upState (at8 spad 0) []) probeRegion (at8 spad 0) spad 8 with
    | .bytes _ _ s1 => !s1.queueFull 0 0 7 | _ => false) = true ∧ (at8 spad 0).held = .none ∧ (at8 spad 0).cb = [] ∧
    (at8 spad 0).outstanding = [] ∧ ((at8 spad 0).readG 6).toNat % 64 = 0 ∧ (at8 spad 0).tagFull 3 = false := by
  decide +kernel
theorem witness_marm : arrayOrder (arrayRuns.word 5 0 7) = none ∧ (arrayOrder (arrayRuns.word 5 0 1)).isSome = true ∧
    (multiplying.armed 1).isSome = true ∧ arrayRuns.armed 1 = none ∧ (at8 0 0).tagFull 0 = false := by decide +kernel
theorem witness_accumulators : (1 : Nat) < 4 ∧ (0b0010#4).getLsbD 1 = true ∧ multiplying.accArmed 1 = true ∧
    (∀ n, n < 4 → (0b1101#4).getLsbD n = true → multiplying.accArmed n = false) ∧ arrayRuns.accArmed 3 = false := by
  decide +kernel

/-! The datapath. -/

theorem witness_slot_acts : (withSlot addLane (at8 0 0)).thread 0 = some (at8 0 0) ∧
    (withSlot addLane (at8 0 0)).region (at8 0 0).rid = some probeRegion ∧ probeRegion.state = .resident ∧
    ((withSlot addLane (at8 0 0)).device (keyDev 0)).module = .up ∧ (withSlot addLane (at8 0 0)).slot 0 = addLane := by
  decide +kernel
theorem witness_lane_fires : (match addLane.laneAt 0 with
    | some f => f.fires && f.wz && !f.op.isRegister && decide (addLane.edge (edgeZ 0) = []) &&
        f.edges.all fun e => (addLane.headEdge (laneEdge 0 e)).any fun k => decide (k.kind = .data ∧ k.v = true)
    | none => false) = true := by decide +kernel
theorem witness_lane_arithmetic : (fp32.value 0x7FC00000).isNan = true ∧ XR.lt .zero (fp32.value 0x3F800000) = true ∧
    (fp32.value 0x80000000).isNan = false ∧ XR.lt .zero (fp32.value 0x80000000) = false ∧
    (BitVec.toInt (0xFF000000 : Word)).natAbs ≤ 2 ^ 24 ∧ (elementValue 7 1).isNan = false ∧ (elementValue 1 0x3F80).isNan = false := by
  decide +kernel
theorem witness_lane_takes_invalid : (match { addLane with edges := [(edgeX 255, [{ tok 3 with v := false }])] }.headEdge (edgeX 255) with
    | some k => decide (k.kind = .data ∧ k.v = false) | none => false) = true := by decide +kernel
theorem witness_collar_eos : (match addLane.laneAt 0 with
    | some f => f.fires && f.wz && !f.op.isRegister && !f.op.isGroup &&
        f.edges.all fun e => decide ({ addLane with edges := [(edgeX 0, [eos]), (edgeY 0, [eos])] }.headEdge (laneEdge 0 e) = some eos)
    | none => false) = true := by decide +kernel
theorem witness_group : (groupMaximum.groupAt 0).any (fun f => decide (f.op = .gmax)) = true ∧
    (∀ j, j < 32 → groupMaximum.headEdge (edgeX j) = some (tok (BitVec.ofNat 32 (0x3F800000 + j))) ∧
      groupMaximum.edge (edgeZ j) = []) := by decide +kernel
theorem witness_route : (routeBox.boxOf 0).any (fun f => decide (f.op = .route ∧ routeBox.headInput 0 f.ia = some (tok 5) ∧
      boxInput 0 f.ia ∉ boxEdges 0 f.out0 ∧ ∀ e ∈ boxEdges 0 f.out0, routeBox.edge e = [])) = true ∧ routeBox.eocTag = none ∧
    (routeBox.fireBox 0 (fun _ => false) 0).any (fun c => c.2.isNone) = true := by decide +kernel
/-- Lane 0's box with operation `code`, a data token on each of its inputs 0, 1 and 3, and `c` on input 3; its outputs are X
and Y. -/
def boxAt (code : Nat) (b : Box) (c : Token) : Slot :=
  { words := [(wordKey 2 0 0, BitVec.ofNat 32 (2 ^ 30 + code * 2 ^ 25 + 2 ^ 21 + 2 ^ 16 + 2 * 2 ^ 11 + 2 ^ 8 + 3))]
    boxes := [(0, b)], engines := [(8, { running := true })]
    edges := [(edgeFw 258, [tok 1]), (edgeRv (ringNext 0), [tok 0]), (edgeEin 0, [c])] }
/-- What every clause on boxes asks: the box runs, no switch is under way, and there is room behind it. -/
def boxRuns (op : BoxOp) (x : Slot) (f : BoxWord → Bool) : Bool :=
  (x.engine (nodeEngine 0)).running && decide (x.eocTag = none) && match x.boxOf 0 with
    | some w => decide (w.op = op) && f w && ((boxEdges 0 w.out0 ++ boxEdges 0 w.out1).all fun e =>
        x.used e = 0 && w.inputs.all fun i => boxInput 0 i != e) &&
        decide (w.inputs.Pairwise fun i j => boxInput 0 i ≠ boxInput 0 j)
    | none => false
/-- A data token stands at the input that the box takes next. -/
def nextHolds (x : Slot) (p : Token → Bool) (w : BoxWord) : Bool := (x.headInput 0 (nextInput w (x.box 0))).any p
theorem witness_pair_box : boxRuns .pair (boxAt 2 {} (tok 1)) (fun w => ((boxAt 2 {} (tok 1)).headInput 0 w.ia).any Token.isData) = true ∧
    (let x : Slot := { boxAt 2 {} (tok 1) with edges := [(edgeRv (ringNext 0), [tok 0])] }
     boxRuns .pair x fun w => decide (x.headInput 0 w.ia = none) && (x.headInput 0 w.ib).any Token.isData) = true := by
  decide +kernel
theorem witness_governing_boxes : ∀ o ∈ [(3, BoxOp.steer), (4, .omerge), (7, .filter)], ∀ n ∈ [0, 1],
    boxRuns o.2 (boxAt o.1 { left := n, sel := true } (tok 1)) (nextHolds (boxAt o.1 { left := n, sel := true } (tok 1)) Token.isData) =
      true := by
  decide +kernel
theorem witness_looping_boxes :
    boxRuns .carry (boxAt 5 {} (tok 1)) (nextHolds (boxAt 5 {} (tok 1)) Token.isData) = true ∧
    boxRuns .carry (boxAt 5 { looping := true } (tok 0)) (nextHolds (boxAt 5 { looping := true } (tok 0))
      fun k => k.isData && !(k.v && k.data.getLsbD 0)) = true ∧
    boxRuns .carry (boxAt 5 { looping := true } (tok 1)) (fun w =>
      nextHolds (boxAt 5 { looping := true } (tok 1)) (fun k => k.isData && k.v && k.data.getLsbD w.bit) w &&
        ((boxAt 5 { looping := true } (tok 1)).headInput 0 w.ib).any Token.isData) = true ∧
    boxRuns .inv (boxAt 6 {} (tok 1)) (nextHolds (boxAt 6 {} (tok 1)) Token.isData) = true ∧
    boxRuns .inv (boxAt 6 { hold := some (tok 9) } (tok 1)) (nextHolds (boxAt 6 { hold := some (tok 9) } (tok 1)) Token.isData) = true := by
  decide +kernel
theorem witness_seq_box : ∀ n ∈ [0, 1], boxRuns .seq (boxAt 8 { left := n } (tok 1)) (fun w =>
    ((boxAt 8 { left := n } (tok 1)).headInput 0 w.ia).any Token.isData &&
    (((boxAt 8 { left := n } (tok 1)).port 0x100).start 0).inWindow 0 &&
    (boxEdges 0 w.out0).all fun e => !(boxEdges 0 w.out1).contains e) = true := by decide +kernel
/-- The merging box with EOS at the input that it takes next, and at all of them. -/
def boxAtEos (all : Bool) : Slot :=
  { boxAt 4 {} eos with
    edges := [(edgeFw 258, [if all then eos else tok 1]), (edgeRv (ringNext 0), [eos]), (edgeEin 0, [eos])] }
theorem witness_box_at_marker : boxRuns .omerge (boxAtEos false) (fun w =>
      nextHolds (boxAtEos false) (fun k => !k.isData) w && w.inputs.any fun i => ((boxAtEos false).headInput 0 i).any Token.isData) = true ∧
    boxRuns .omerge (boxAtEos true) (fun w => nextHolds (boxAtEos true) (fun k => !k.isData) w &&
      w.inputs.all fun i => decide ((boxAtEos true).headInput 0 i = some eos)) = true := by decide +kernel
theorem witness_distributor_marker : ((westSource eos).distributeMarker 0 0).isSome = true ∧
    ((westSource eos).port 0).buf.head? = some eos := by decide +kernel
/-- Two west lanes read port w, which has sent one token of a wave and then meets EOS. -/
def halfWave : Slot :=
  { words := [(wordKey 2 5 0, 0x43810000), (wordKey 2 6 0, 0x43810000)]
    ports := [(0, { buf := [eos], sent := 1, active := true })] }
theorem witness_padding_wave : (halfWave.sourcePort 0 0).any (fun p => decide (p.sent ≠ 0 ∧ (halfWave.readers 0)[p.sent]? = some 6) &&
    p.inWindow 0) = true ∧ halfWave.edge (edgeEin 6) = [] := by decide +kernel
theorem witness_distribute : ((westSource (tok 6)).port 0).buf = tok 6 :: [] ∧ (westSource (tok 6)).readers 0 ≠ [] ∧
    ((westSource (tok 6)).sourcePort 0 0).any (fun p => p.inWindow 0 &&
      decide (((westSource (tok 6)).readers 0)[p.sent % ((westSource (tok 6)).readers 0).length]? = some 5)) = true ∧
    (westSource (tok 6)).edge (edgeEin 5) = [] := by decide +kernel
/-- A token at an outer edge of the south and the east arc, and at an egress's port. -/
def leaving : Slot :=
  { words := [(wordKey 2 128 0, 0x42100000), (wordKey 2 192 0, 0x42100000)]
    edges := [(edgeEout 128, [tok 1]), (edgeEout 192, [tok 2])]
    queues := [(2, { bound := true, dm1 := 1 })], ports := [(10, { buf := [tok 3] })] }
theorem witness_accept_points : (leaving.acceptSinkArc 2).isSome = true ∧ (leaving.acceptSinkArc 3).isSome = true ∧
    (leaving.acceptEgress 2).isSome = true ∧ (leaving.queue 2).egressRoom = true ∧ (leaving.queue 2).fill.length + 4 < 4096 := by
  decide +kernel
/-- Lane 5 alone has a token for the A latch, behind bytes that a panel already has. -/
def latchOffered (fill : List Byte) (k : Token) : Slot :=
  { padding with latchA := { fill := fill }, edges := [(edgeEout 5, [k])] }
theorem witness_latch_takes : ∀ fill ∈ [[1, 2, 3, 4], List.replicate 4092 0], ∀ v,
    TakesNext (latchOffered fill { tok 10 with v := v }) 0 5 { tok 10 with v := v } ∧
    (latchOffered fill { tok 10 with v := v }).latchFmt false = some 1 ∧
    ((latchOffered fill { tok 10 with v := v }).latch false).panels.length < 2 := by
  intro fill hf v
  have h : (latchOffered fill { tok 10 with v := v }).writers 0 = [5] ∧
      (latchOffered fill { tok 10 with v := v }).headEdge (edgeEout 5) = some { tok 10 with v := v } := by
    revert fill; cases v <;> decide +kernel
  refine ⟨⟨by rw [h.1]; simp, h.2, rfl, fun j hj c => ?_⟩, ?_, ?_⟩
  · rw [h.1] at hj
    have : j = 5 := by simpa using hj
    subst this; exact absurd c (by simp)
  · revert fill; cases v <;> decide +kernel
  · revert fill; cases v <;> decide +kernel
theorem witness_panel_sizes : (panelSize 1 ([1, 2, 3, 4] ++ leBytes 10 4)).all (fun n => 8 < n) = true ∧
    (panelSize 1 (List.replicate 4092 0 ++ leBytes 10 4)) = some 4096 := by decide +kernel
/-- Lane 5 alone has marker `m` for the A latch, which orders of the array name or not. -/
def latchMarked (named : Bool) (m : Token) : Slot :=
  { words := (wordKey 2 5 0, 0x42100000) :: if named then arrayTable else [], edges := [(edgeEout 5, [m])] }
/-- An end-of-context marker. -/
def eoc : Token := ⟨0, .eoc, true, false, 0⟩
theorem witness_latch_markers : ∀ n ∈ [true, false], ∀ m ∈ [eos, eoc], (latchMarked n m).writers 0 = [5] ∧
    (latchMarked n m).headEdge (edgeEout 5) = some m ∧ m.kind ≠ .data ∧ ((latchMarked n m).latch false).fill = [] ∧
    (latchMarked n m).orderNames 0 = n ∧ (latchMarked false m).orderNames 2 = false := by decide +kernel
/-- Lanes 128 and 192 have a token or a marker for ports s and eo. -/
def sinkOffered (m : Token) : Slot :=
  { words := [(wordKey 2 128 0, 0x42100000), (wordKey 2 192 0, 0x42100000)], edges := [(edgeEout 128, [m]), (edgeEout 192, [m])] }
theorem witness_sink_arcs : ∀ m ∈ [tok 1, { tok 1 with v := false }, eos, eoc], (sinkOffered m).writers 2 = [128] ∧
    (sinkOffered m).writers 3 = [192] ∧ (sinkOffered m).headEdge (edgeEout 128) = some m ∧
    (sinkOffered m).headEdge (edgeEout 192) = some m ∧ ((sinkOffered m).port 2).buf.length < Config.portRoom := by decide +kernel
theorem witness_sink_arc_takes : TakesNext (sinkOffered (tok 1)) 2 128 (tok 1) ∧ AllHold (sinkOffered eos) 3 eos := by
  have h : (sinkOffered (tok 1)).writers 2 = [128] := by decide +kernel
  have g : (sinkOffered eos).writers 3 = [192] := by decide +kernel
  refine ⟨⟨by rw [h]; simp, by decide +kernel, rfl, fun j hj c => ?_⟩, by decide, by decide +kernel, fun l hl => ?_⟩
  · rw [h] at hj
    have : j = 128 := by simpa using hj
    subst this; exact absurd c (by simp)
  · rw [g] at hl
    have : l = 192 := by simpa using hl
    subst this; exact ⟨eos, by decide +kernel, rfl⟩
theorem witness_accept_latch : ({ padding with edges := [(edgeEout 5, [tok 0x0A])] }.acceptLatch false).isSome = true := by
  decide +kernel
/-- A full ingress slot, and a token at port gx. -/
def arrivingSlot : Slot :=
  { ags := [(1, { bound := true, port := 0x12 })]
    queues := [(2, { bound := true, ingress := true, dm1 := 1, slots := [some group0] })]
    ports := [(0x18, { buf := [tok 64] })] }
theorem witness_accept_ingress : (arrivingSlot.acceptIngress 2).isSome = true ∧ (arrivingSlot.port 0x18).buf = tok 64 :: [] ∧
    arrivingSlot.gather.length < 64 := by decide +kernel
theorem witness_ingress_sink : arrivingSlot.openSinks 0x12 ≠ [] ∧ (arrivingSlot.queue 2).slots = some group0 :: [] ∧
    (arrivingSlot.queue 2).taker = .none ∧ (arrivingSlot.port 0x12).buf.length < Config.portRoom ∧
    (4092 : Nat) + 4 = 4096 ∧ (arrivingSlot.queue 2).taken + 4 < 4096 := by
  refine ⟨?_, rfl, rfl, ?_⟩ <;> decide +kernel
/-- Whether generator 1 of `x` heads its port's scoreboard with a last visit whose element is reached. -/
def lastVisit (x : Slot) (kind : WalkKind) (f : Nest → Place → Bool) : Bool :=
  let c := x.ag 1
  decide (c.bound = true ∧ c.stopped = false ∧ c.fault = false ∧ c.waiting = false ∧ c.idle = false ∧
    x.entries c.port.toNat = .cmd 1 1 spad [] :: []) &&
  match x.nest 1 with
  | some n => decide (c.n < n.total ∧ n.xf = 0 ∧ 0 < n.width ∧ 64 % n.width = 0) &&
    (match reach (withSlot x (at8 0 0)) probeRegion false 0 0 0 (n.ea spad c.n) n.width n.width kind with
    | .at p s1 => decide (addrDev p.addr = keyDev 0 ∧ p.addr % 64 = (n.ea spad c.n).toNat % 64 ∧
        s1.sector (p.addr / 64) ≠ .poisoned) && f n p
    | _ => false)
  | none => false
theorem witness_source_visit : lastVisit { boundSource with scoreboard := [(0, [.cmd 1 1 spad []])] } .read
    (fun n _ => decide (n.mode = 0)) = true := by decide +kernel
theorem witness_sink_visit : lastVisit
    { boundSink with scoreboard := [(2, [.cmd 1 1 spad []])], ports := [(2, { buf := [tok 0x11223344] })] } .write
    (fun n _ => decide (n.mode = 3 ∧ tokensPer n.width = 1)) = true := by decide +kernel
theorem witness_stream_ends : (Slot.entries { scoreboard := [(0, [.drain 4])] } 0) = .drain 4 :: [] ∧
    (Slot.entries { scoreboard := [(15, [.eoc])] } 15) = .eoc :: [] ∧ boundSink.openSinks 2 = [1] ∧
    (boundSink.ag 1).combSector = none ∧ isSink 0x17 = true := by decide +kernel
/-- The same, armed for one firing. -/
def lastFiring : Slot := { multiplying with arms := [⟨1, some 1, 0, none, 0, false⟩] }
theorem witness_mma_fires : (multiplying.nextOrder).any (fun c => decide (c.1.idx = 1 ∧ c.2.1.op = .mma ∧
      firingEmits c.1 c.2.1 = false)) = true ∧
    (lastFiring.nextOrder).any
      (fun c => firingEmits c.1 c.2.1) = true ∧ (multiplying.engine 12).running = true := by decide +kernel
theorem witness_mma_rows : (panelsRows 1 [⟨List.replicate 4096 0, false, none⟩]).length = 64 := by decide +kernel
theorem witness_mlt_and_mst_fire : (loading.nextOrder).any (fun c => decide (c.2.1.op = .mlt)) = true ∧
    (storing.nextOrder).any (fun c => decide (c.2.1.op = .mst ∧ c.2.1.wid = 3 ∧ c.2.1.out ≠ 0)) = true := by decide +kernel
theorem witness_arming_ends : (ending.armed 2).any (fun a => (ending.armOrder a).any fun o => ending.endsNow a o &&
    decide (o.op ≠ .mma)) = true := by decide +kernel
/-- An MMA with FIN and without an output, which has fired and meets EOS at both latches. -/
def finishing : Slot :=
  { arrayRuns with
    words := [(wordKey 5 0 0, 0x64210000), (wordKey 5 0 1, 0x70014000)]
    arms := [⟨1, none, 1, none, 0, false⟩]
    latchA := { full := [none] }, latchB := { full := [none] } }
theorem witness_mma_ends : (finishing.armed 1).any (fun a => (finishing.armOrder a).any fun o => finishing.endsNow a o &&
    decide (o.op = .mma ∧ o.fin = true ∧ o.each = false ∧ 0 < a.fired ∧ o.out = 0)) = true := by decide +kernel
theorem witness_array_eos : (∀ c ∈ eosAtLatches.tableSources, eosAtLatches.sourceEos c = true) ∧
    1 ∈ eosAtLatches.tableOutputs ∧ eosAtLatches.arrayEosSent.getLsbD 1 = false ∧ eosAtLatches.arms = [] := by decide +kernel
theorem witness_latch_padding : padding.latchFmt false = some 1 ∧ (padding.latch false).fill ≠ [] ∧
    (padding.latch false).panels.length < 2 ∧ padding.eosAtLatch false = true := by decide +kernel
theorem witness_gather : gathering.gather = 64 :: [] ∧ gathering.entries 0x18 = .cmd 1 1 0 [] :: [] ∧
    gathering.latchFmt false = some 1 ∧ (gathering.nest 1).isSome = true ∧ (gathering.ag 1).fault = false ∧
    gathering.latchA.panels.length < 2 := by decide +kernel
theorem witness_egress : (Slot.queue { queues := [(2, { bound := true, peerKey := 4, peerQ := 1, dm1 := 1, packed := [some group0] })] } 2).packed =
      some group0 :: [] ∧ (4 : Nat) ≠ 0 ∧ keyDev 0 = keyDev 4 ∧ (egress.port 10).buf = eos :: [] ∧ (egress.queue 2).fill ≠ [] ∧
    (egress.queue 2).fill.length ≤ 4096 := by
  refine ⟨rfl, ?_⟩; decide +kernel
theorem witness_integrity : (ingress.queue 2).arriving = [some group0] ∧ group0.seq = (ingress.queue 2).groups ∧
    group0.taken = false ∧ (0 : Nat) < 2 ^ 32 ∧ tagGood 0 group0.bytes group0.seq group0.damage = true ∧
    (twoSlots ingress farEnd).replayRoom (slotSectors 0 probeRegion (ingress.queue 2) 0) = true ∧
    (ingress.queue 2).fails < 3 := by
  refine ⟨rfl, rfl, rfl, by decide, rfl, ?_⟩; decide +kernel
theorem witness_egress_room : (Slot.queue { queues := [(2, { bound := true, peerKey := 4, peerQ := 1, dm1 := 1, packed := [some group0] })] } 2).awaiting = [] ∧
    (Queue.replay { bound := true, ingress := true, dm1 := 1 }) = false ∧ (ingress.queue 2).held = false ∧
    (twoSlots failed farEnd).flits = [] ∧ (farEnd.queue 1).peerKey = 0 ∧ (farEnd.queue 1).peerQ.toNat = 2 := by
  refine ⟨rfl, rfl, rfl, rfl, rfl, rfl⟩
theorem witness_replay : (failed.queue 2).replay = true ∧ (farEnd.queue 1).awaiting = group0 :: [] ∧
    group0.seq = (failed.queue 2).groups ∧ (failed.queue 2).arriving = [] ∧ (failed.queue 2).discard = false ∧
    group0.taken = false ∧ (twoSlots failed farEnd).replays = [] := by
  refine ⟨rfl, rfl, rfl, rfl, rfl, rfl, rfl⟩
/-- A replay-table entry of that group, whose sector was empty before it failed. -/
def entry0 : ReplayEntry := { sector := 9, before := .empty, key := 0, q := 2, seq := 0 }
theorem witness_replay_restores : ({ (twoSlots failed farEnd).setSector 9 .poisoned with replays := [entry0] } : State).replays =
      [entry0] ∧ entry0.key = 0 ∧ entry0.q = 2 ∧ entry0.seq = group0.seq ∧
    ({ (twoSlots failed farEnd).setSector 9 .poisoned with replays := [entry0] } : State).sector entry0.sector = .poisoned := by
  refine ⟨rfl, rfl, rfl, rfl, ?_⟩; decide +kernel
/-- Ingress 2 with an end of stream at its head. -/
def ingressEnd : Slot := { queues := [(2, { bound := true, ingress := true, dm1 := 1, peerKey := 4, slots := [none] })] }
/-- The same with a binding of port qi 2, lanes that read the queue, and an order that names it. -/
def ingressTaken : Slot :=
  { ingressEnd with
    ags := [(1, { bound := true, port := 0x12 })]
    words := [(wordKey 2 208 0, 0x43810080), (wordKey 5 0 0, 0x64210000), (wordKey 5 0 1, 0x72800000)] }
theorem witness_ingress_eos : (ingressEnd.queue 2).slots = none :: [] ∧ ingressEnd.readers 10 = [] ∧
    ingressEnd.orderNames 10 = false ∧ (∀ ag, ag < 8 → (ingressEnd.ag ag).bound = false) := by decide +kernel
theorem witness_ingress_eos_taken : (ingressTaken.queue 2).slots = none :: [] ∧ ingressTaken.readers 10 ≠ [] ∧
    (∃ ag, ag < 8 ∧ (ingressTaken.ag ag).bound = true ∧ (ingressTaken.ag ag).port.toNat = 0x12) :=
  ⟨rfl, by decide +kernel, 1, by decide, rfl, rfl⟩
theorem witness_ingress_eos_ordered : ingressTaken.orderNames 10 = true := by decide +kernel
/-- Lane 0's box stands at the marker, with its set staged: it becomes idle. -/
def switchingBox : Slot := { routeBox with edges := [(edgeFw 258, [⟨0, .eoc, true, false, 0⟩])], eocTag := some 3, eocLeft := [0, 300] }
theorem witness_box_switch : 0 ∈ switchingBox.eocLeft ∧ switchingBox.eocTag.isSome = true ∧
    (switchingBox.switchBox 0 (fun _ => false) [] 0).any (fun c => c.2.isNone) = true := by decide +kernel
/-- Lane 0's box as a pair whose path `p` is next, with the marker on both inputs. -/
def switchingPair (p : Nat) : Slot :=
  { boxAt 2 { eocPath := BitVec.ofNat _ p } eoc with
    edges := [(edgeFw 258, [eoc]), (edgeRv (ringNext 0), [eoc])], eocTag := some 3, eocLeft := [0, 300] }
theorem witness_box_paths : 0 ∈ (switchingPair 0).eocLeft ∧
    (switchingBox.boxOf 0).any (fun f => decide (f.op ≠ .pair ∧ f.op ≠ .seq ∧ switchingBox.eocInputs 0 = [f.ia] ∧
      switchingBox.headInput 0 f.ia = some eoc) && (boxEdges 0 f.outputs).all fun e => switchingBox.used e = 0) = true ∧
    ((switchingPair 0).boxOf 0).any (fun f => decide (f.op = .pair ∧ ((switchingPair 0).box 0).eocPath = 0 ∧
      f.ia ∈ (switchingPair 0).eocInputs 0 ∧ (switchingPair 0).headInput 0 f.ia = some eoc) &&
      (boxEdges 0 f.out0).all fun e => (switchingPair 0).used e = 0) = true ∧
    ((switchingPair 1).boxOf 0).any (fun f => decide (f.op = .pair ∧ ((switchingPair 1).box 0).eocPath = 1 ∧
      f.ib ∈ (switchingPair 1).eocInputs 0 ∧ (switchingPair 1).headInput 0 f.ib = some eoc) &&
      (boxEdges 0 f.out1).all fun e => (switchingPair 1).used e = 0) = true := by decide +kernel
theorem witness_lane_switch : 264 ∈ switching.eocLeft ∧ switching.laneInputs 0 = [0, 1] ∧ switching.edge (edgeZ 0) = [] ∧
    (∀ k ∈ switching.laneInputs 0, (switching.headEdge (laneEdge 0 k)).any (fun m => m.kind = .eoc) = true) := by
  decide +kernel
/-- All lanes of west block group 0 stand at the marker. -/
def switchingGroup : Slot :=
  { groupMaximum with
    edges := (List.range 32).map fun l => (edgeX l, [⟨0, .eoc, true, false, 0⟩])
    eocTag := some 3, eocLeft := (List.range 32).map fun l => 264 + l }
theorem witness_group_switch : 264 ∈ switchingGroup.eocLeft ∧ switchingGroup.inGroup 0 = true ∧
    (switchingGroup.engine 8).running = true ∧ (switchingGroup.switchGroup 0 [] 0).isSome = true ∧ switching.inGroup 0 = false := by
  decide +kernel
theorem witness_group_at_marker : ∀ l ∈ groupLanes 0, switchingGroup.laneInputs l ≠ [] ∧ switchingGroup.edge (edgeZ l) = [] ∧
    ∀ i ∈ switchingGroup.laneInputs l, (switchingGroup.headEdge (laneEdge l i)).any (fun k => k.kind = .eoc) = true := by
  decide +kernel
/-- A source that rests in the oldest iteration, behind one that has filled the window. -/
def windowFull : Slot :=
  { words := [(wordKey 2 5 0, 0x43810000), (wordKey 2 133 0, 0x43810000)]
    ports := [(0, { active := true, begun := true, iter := 64, sent := 1 }), (0x30, { active := true, begun := true })] }
/-- A source that is under way in the oldest iteration. -/
def underWay : Slot := { words := [(wordKey 2 5 0, 0x43810000)], ports := [(0, { active := true, begun := true, sent := 1 })] }
theorem witness_oi : (Slot.liveIters { edges := [(edgeX 0, [{ tok 1 with iter := 1 }])] }) = [1] ∧
    probeRegion.oiOf 0 ∉ [(1 : BitVec 16)] ∧ probeRegion.oiOf 0 ∈ Slot.liveIters addLane ∧
    windowFull.sources 0 = [⟨64, true⟩, ⟨0, false⟩] ∧ windowFull.liveIters = [] ∧
    underWay.sources 0 = [⟨0, true⟩] ∧ probeRegion.acts 0 = true := by decide +kernel

/-! Translation, ports and bridges. -/

/-- The domain with a descriptor at 0x110000. -/
def withDesc (d : Nat) : State := domain.writeBytes 0x110000 (leBytes d 8)
theorem witness_translate : (match translate domain 0 (probeRegion.tileAt 0 0 0) false (((0x201000 : Dword) + 0).toNat % 2 ^ 56) .fetch with
    | .ok fa _ => decide (fa = 0x201000) | _ => false) = true := by decide +kernel
theorem witness_no_root : State.reset.tlbFind 0 0 0x201000 = none ∧ (State.reset.partition 0).ptRoot.toNat / 2 ^ 14 % 2 ^ 42 = 0 := by
  decide +kernel
/-- One descriptor of each kind at level 1: invalid, malformed, a table, a page that may be read, and one that may not. -/
theorem witness_walk : (1, 33, 44) ∈ walkLevels ∧ isHbm 0x110000 = true ∧
    (∀ d ∈ [0, 2 ^ 62 + 1, 0x108001, 6, 2], ((withDesc d).partition 0).ownsHbm 0x110000 8 = true ∧
      (withDesc d).sector (0x110000 / 64) ≠ .poisoned ∧ (withDesc d).readDesc 0 (quadKey 0) 0x110000 = d) ∧
    descMalformed (2 ^ 62 + 1) 1 = true ∧ descMalformed 0x108001 1 = false ∧ descMalformed 6 1 = false ∧ descMalformed 2 1 = false ∧
    (domain.partition 0).ownsHbm 0 (2 ^ pageBits 1) = true ∧ allowed 6 .read false = true ∧ allowed 2 .read false = false := by
  decide +kernel
theorem witness_memory_up : domain.memOff (tileDev 0) 0x110000 = false ∧ domain.memOff (keyDev domain.cur) 0x201000 = false := by
  decide +kernel
theorem witness_table_walk : (graphState resident0 (at8 0 0)).thread 0 = some (at8 0 0) ∧
    (graphState resident0 (at8 0 0)).region (at8 0 0).rid = some resident0 ∧
    (match translate (graphState resident0 (at8 0 0)) 0 0 false 0x201000 .read with | .ok _ _ => true | _ => false) = true := by
  decide +kernel
theorem witness_marks : domain.mark 5 = .clear ∧ ({ domain with marks := [(5, .leaf)] } : State).mark 5 = .leaf ∧
    ({ domain with marks := [(5, .table)] } : State).mark 5 = .table ∧
    ({ domain with marks := [(5, .table)] } : State).inUse 5 (fun _ => false) = false ∧
    ({ domain with marks := [(5, .table)], flits := [.of (.loadReq ⟨0, 1, 0⟩ 5 0x1000 4 []) none] } : State).inUse 5
      (fun _ => false) = true := by decide +kernel

/-- Module 0 and its partner at port 0 both train. -/
def training (l : LaneGroup) : State :=
  (domain.setDevice far0.1 { (domain.device far0.1) with module := .up }).setDevice 0
    { (domain.device 0) with groups := [(1, l)] }
theorem witness_link_training : ∀ l ∈ [({ state := .down } : LaneGroup), { state := .equalise }, { state := .ident }, { state := .up }],
    ((training l).device 0).module.trains = true ∧ ((training l).device far0.1).module.trains = true ∧
    lanesOf (training l) 0 0 1 = l := by decide +kernel
/-- A load of a thread of the far module that has been sent to module 0 on group 0. -/
def sentLoad : Flight :=
  { Flight.of (.loadReq ⟨4 * 896 * far0.1, 1, 0⟩ 5 64 4 []) none with sent := some (8 * far0.2, 0) }
/-- The machine with it in the replay buffer of the far end, and with the line about to do damage. -/
def buffering (mask : Nat) : State :=
  { (domain.setDevice far0.1 { (domain.device far0.1) with module := .up, groups := [(far0.2 * 8, { state := .up })] }).setDevice 0
      { (domain.device 0) with groups := [(0, { damage := mask })] } with flits := [sentLoad] }
theorem witness_flit_buffered : (buffering 0).buffered far0.1 (8 * far0.2 + 0) = [sentLoad] ∧
    sentLoad.sent = some (8 * far0.2 + 0, (lanesOf (buffering 0) far0.1 far0.2 0).seq) ∧
    (lanesOf (buffering 0) far0.1 far0.2 0).state = .up ∧ (lanesOf (buffering 4) 0 0 0).damage = 4 := by decide +kernel
theorem witness_flit_kinds : sentLoad.flit.data = none ∧
    ((buffering 0).fillBuffer far0.1 far0.2 0 32).boundHeld sentLoad.flit = false := by decide +kernel
/-- EOS of an egress of the far module, sent to its ingress on module 0. -/
def sentEos : Flight :=
  { Flight.of (.bound { key := 4 * 896 * far0.1, q := 0, ctx := 1, peer := 0, peerQ := 2, item := none, index := 0, count := 1, xf := 0, body := [] })
      none with sent := some (8 * far0.2 + 1, 0) }
theorem witness_bound_flit : sentEos.flit.dst = 0 ∧ (farLane { state := .up }).boundHeld sentEos.flit = false ∧
    ({ farLane { state := .up } with flits := [sentEos] } : State).buffered far0.1 (8 * far0.2 + 1) = [sentEos] := by
  decide +kernel
theorem witness_frame_good : frameGood (damaged (sentLoad.flit.frame 0 0 false 0 0) 0) = true := by decide +kernel
theorem witness_frame_bad : frameGood (damaged (sentLoad.flit.frame 0 0 false 0 0) 4) = false := by decide +kernel
theorem witness_flit_receive : (lanesOf (farLane { state := .up }) far0.1 far0.2 1).state = .up ∧
    (lanesOf (farLane { state := .up }) far0.1 far0.2 1).replays < 16 ∧
    16 ≤ (lanesOf (farLane { state := .up, replays := 16 }) far0.1 far0.2 1).replays := by decide +kernel
theorem witness_port_down : (∀ g, g < 8 → (lanesOf domain 0 3 g).state ≠ .up) ∧
    SMap.get 0 (domain.setDevice 0 { (domain.device 0) with portSince := [(3, 1)] } |>.device 0).portSince 3 = 1 ∧
    (lanesOf (farLane { state := .up }) far0.1 far0.2 1).state = .up := by decide +kernel
theorem witness_binding_relocates : (lanesOf relocating 0 2 1).binding = some 9 ∧ (lanesOf relocating 0 2 1).state ≠ .up ∧
    LaneGroupFree relocating 0 2 3 ∧ ∀ k, 1 ≤ k → k < 3 → ¬ LaneGroupFree relocating 0 2 k := by
  unfold LaneGroupFree
  refine ⟨by decide +kernel, by decide +kernel, by decide +kernel, ?_⟩
  intro k h1 h3
  have : k = 1 ∨ k = 2 := by omega
  rcases this with rfl | rfl <;> decide +kernel
/-- The same with a free group at the direction's other port alone. -/
def otherPort : State :=
  domain.setDevice 0 { (domain.device 0) with groups := [(17, { state := .down, binding := some 9 }), (25, { state := .up })] }
theorem witness_binding_changes_port : LaneGroupFree otherPort 0 3 1 ∧ (3 : Nat) / 2 = 2 / 2 ∧
    ∀ k, 1 ≤ k → k ≤ 6 → ¬ LaneGroupFree otherPort 0 2 k := by
  unfold LaneGroupFree
  refine ⟨by decide +kernel, rfl, ?_⟩
  intro k h1 h6
  have e : ∀ h, h < 7 → ¬ ((lanesOf otherPort 0 2 h).state = .up) := by decide +kernel
  exact fun c => e k (by omega) c.2.1
/-- The same with no group that is free. -/
def stranded : State := domain.setDevice 0 { (domain.device 0) with groups := [(17, { state := .down, binding := some 9 })] }
theorem witness_binding_stays : (lanesOf stranded 0 2 1).binding = some 9 ∧ (lanesOf stranded 0 2 1).state ≠ .up ∧
    ∀ p h, p / 2 = 2 / 2 → 1 ≤ h → h ≤ 6 → ¬ LaneGroupFree stranded 0 p h := by
  unfold LaneGroupFree
  refine ⟨by decide +kernel, by decide +kernel, ?_⟩
  intro p h hp h1 h6
  have e : ∀ p, p < 4 → ∀ h, h < 7 → ¬ ((lanesOf stranded 0 p h).state = .up) := by decide +kernel
  exact fun c => e p (by omega) h (by omega) c.2.1

/-- Device 0 is cabled as a bridge that serves no partition. -/
def cabled : State := domain.setDevice 0 { (domain.device 0) with bridge := true }
theorem witness_host_access : bridged.hostAccess 0 0x400000 2 = .allowed ∧ cabled.hostAccess 0 0x400000 2 = .outside ∧
    domain.hostAccess 0 0x400000 2 = .off ∧ barAddr 0 0x400000 = some 0x400000 ∧
    bridged.spanInUse 0x400000 2 = false := by decide +kernel
theorem witness_host_reads : bridged.hostAccess 0 0x400000 64 = .allowed ∧ bridged.hostAccess 0 0x400000 5000 = .allowed ∧
    bridged.sector (0x400000 / 64) = .empty ∧ (bridged.setSector (0x400000 / 64) .full).sector (0x400000 / 64) = .full := by
  decide +kernel
/-- The window of a partition of the bridge that has not the device of the record. -/
theorem witness_launch_elsewhere : (3 : Nat) ∉ (bridged.partition 0).devices ∧
    bridged.queueLoad 3 0 (launchOf (leBytes 0x200000 64) 3 0 false false (some 0) none 0 0).prio < 64 := by decide +kernel
theorem witness_launch_invocation : bridged.hostAccess 0 (0 * 2 ^ 48) 0 ≠ .off ∧ (leBytes 0x200000 64).length = 64 ∧
    0 ∈ (bridged.partition 0).bridges ∧ 0 ∈ (bridged.partition 0).admitted ∧
    bridged.queueLoad 0 0 (launchOf (leBytes 0x200000 64) 0 0 false false (some 0) none 0 0).prio < 64 ∧ (leBytes 0 8).length ≠ 64 := by
  decide +kernel

/-! Schedulers and graphs. -/

/-- A launch that has just arrived, with the queue of its priority as `q`. -/
def arriving (l : LaunchRec) (q : List LaunchRec) : State :=
  { imaged.setDevice 0 ((imaged.device 0).setQueue 0 3 q) with arrivals := [l] }
theorem witness_enqueue_full : ((arriving launch0 (List.replicate 64 queued0)).arrivals.find? fun r => r.dev = 0) = some launch0 ∧
    ((arriving launch0 (List.replicate 64 queued0)).device 0).module = .up ∧
    64 ≤ (((arriving launch0 (List.replicate 64 queued0)).device 0).queue 0 3).length := by decide +kernel
theorem witness_enqueue_accepts : (((arriving launch0 []).device 0).queue 0 3).length < 64 ∧
    (match ({ arriving launch0 [] with arrivals := (arriving launch0 []).arrivals.erase launch0 } : State).checkLaunch launch0 with
      | .accept _ _ => true | _ => false) = true := by decide +kernel
/-- A record that names no image, on a supervisor's window. -/
def asking : LaunchRec := { launch0 with image := 0, super := true, trusted := true }
theorem witness_enqueue_attests : ((arriving asking []).arrivals.find? fun r => r.dev = 0) = some asking ∧
    (match ({ arriving asking [] with arrivals := (arriving asking []).arrivals.erase asking } : State).checkLaunch asking with
      | .attest _ => true | _ => false) = true := by decide +kernel
theorem only_bid (l : LaunchRec) (hd : l.dev = 0) (hp : l.part = 0) (h3 : l.prio = 3) (hg : l.group = 0) :
    OnlyBid (queuedState l) 0 0 l := by
  refine ⟨by rfl, hd, hp, by omega, hg, ?_, ?_, by rfl, by rfl⟩
  · intro p hp8
    have : p = 0 ∨ p = 1 ∨ p = 2 ∨ p = 3 ∨ p = 4 ∨ p = 5 ∨ p = 6 ∨ p = 7 := by omega
    rcases this with h | h | h | h | h | h | h | h <;> subst h <;> rw [h3] <;> rfl
  · have e : (queuedState l).regions = [] := by rfl
    rw [e]; intro c hc; cases hc
theorem witness_only_bid : OnlyBid (queuedState queued0) 0 0 queued0 := only_bid _ rfl rfl rfl rfl
theorem witness_bid_has_place : ((queuedState queued0).bidCandidate (bidOf queued0)).any
    (fun hs => hs.all fun h => h.dev == 0) = true := by decide +kernel
/-- A launch that is too wide for the partition. -/
def wide : LaunchRec := { queued0 with hdr := { w := 9, h := 1, parts := 1 } }
theorem witness_bid_has_no_place : OnlyBid (queuedState wide) 0 0 wide ∧
    (queuedState wide).bidCandidate (bidOf wide) = none :=
  ⟨only_bid _ rfl rfl rfl rfl, by decide +kernel⟩
theorem witness_bid_blocking : OnlyBid (queuedState { queued0 with blocking := true }) 0 0 { queued0 with blocking := true } ∧
    OnlyBid (queuedState { queued0 with bypass := 16 }) 0 0 { queued0 with bypass := 16 } ∧
    (((queuedState { queued0 with bypass := 16 }).device 0).pol 0).bypassMax ≤ 16 ∧
    queued0.bypass < (((queuedState queued0).device 0).pol 0).bypassMax :=
  ⟨only_bid _ rfl rfl rfl rfl, only_bid _ rfl rfl rfl rfl, by decide +kernel, by decide +kernel⟩
/-- A part of device 1's launch `l` asks for a place on device 0. -/
def asked (l : LaunchRec) : Reservation := ⟨bidOf { l with dev := 1 }, 0, 0, 0, .waiting, true, false⟩
/-- Device 0 with that request; device 1 is up. -/
def reserving (l : LaunchRec) : State :=
  { imaged.setDevice 1 { (imaged.device 1) with module := .up } with reservations := [asked l] }
theorem witness_reservation : ∀ l ∈ [queued0, wide], (reserving l).reservations = [asked l] ∧ (asked l).dev = 0 ∧
    (asked l).bid.launch.dev ≠ 0 ∧ (asked l).bid.launch.part = 0 ∧ (asked l).answer = .waiting ∧
    ((reserving l).device 0).module = .up ∧ (asked l).asked = true ∧
    (∀ p, p < 8 → ((reserving l).device 0).queue 0 p = []) ∧ (reserving l).regions = [] ∧ (reserving l).doneRetry = [] := by
  decide +kernel
theorem witness_reservation_answers :
    ((reserving queued0).bestIn (reserving queued0).holdings ((reserving queued0).needOf (asked queued0).bid 0) 0 0 0 1).isSome = true ∧
    (reserving wide).bestIn (reserving wide).holdings ((reserving wide).needOf (asked wide).bid 0) 0 0 0 1 = none := by
  decide +kernel

/-- Region 1 while it starts. -/
def starting (loaded : Bool) (acks : List Nat) (badWord : Nat) : Region :=
  { region0 with loaded := loaded, acks := acks, badWord := badWord }
theorem witness_graph_start : (∀ c ∈ [(true, ([] : List Nat)), (true, [0]), (false, [0])],
      (graphState (starting c.1 c.2 0) (at8 0 0)).region 1 = some (starting c.1 c.2 0)) ∧ region0.state = .starting ∧
    region0.restoring = false ∧
    (∀ o ∈ region0.origins, ((graphState region0 (at8 0 0)).device o.dev).module = .up) ∧
    (then' (.graphStart 1) ({ imaged with regions := [(1, some region0)] })
      (fun u => (u.region 1).map fun r => (r.loaded, r.badWord))) = some (some (true, 0)) := by decide +kernel
theorem witness_config_ack : (∀ b ∈ [0, 5], (graphState (starting true [0] b) (at8 0 0)).region 1 = some (starting true [0] b)) ∧
    region0.launch.dev = 0 ∧ region0.gateTick = none ∧
    (graphState (starting true [1] 0) (at8 0 0)).region 1 = some (starting true [1] 0) ∧
    (graphState (starting true [1] 0) (at8 0 0)).flits = [] ∧
    (graphState (starting true [1] 0) (at8 0 0)).linksHeld (starting true [1] 0) = true := by decide +kernel
/-- The thread of the graph has left. -/
def left : Thread := { at8 0 0 with status := .exited, resident := false }
theorem witness_graph_ends : (graphState resident0 left).region 1 = some resident0 ∧ resident0.state = .resident ∧
    (graphState resident0 left).writesTravel resident0.ctxId = false ∧
    (graphState resident0 left).graphDone 1 resident0 = true ∧ resident0.launch.done.toNat % 64 = 0 ∧
    (match translate (Stopped (graphState resident0 left) 1 resident0) 0 0 false 0x300000 .write with
      | .ok fa s1 => decide (fa % 64 = 0 ∧ fa < 2 ^ 60) && !s1.memOff 0 fa && !s1.inUse (fa / 64) (fun _ => false)
      | _ => false) = true := by decide +kernel
theorem witness_ended_graph : (graphState { resident0 with state := .ending } left).region 1 =
    some { resident0 with state := .ending } := by decide +kernel
theorem witness_kill_queued : (queuedState queued0).queuedLaunch queued0.n = some queued0 := by decide +kernel

/-! Contexts. -/

theorem witness_gate_request : (graphState resident0 (at8 0 0)).region 1 = some resident0 ∧ resident0.gateTick = none ∧
    (graphState resident0 (at8 0 0)).now + 2000 ≤ 5000 := by decide +kernel
/-- The graph with its gate set for tick 5000. -/
def gating (acks : List Nat) : State := { graphState { resident0 with gateTick := some 5000, acks := acks } (at8 0 0) with now := 5000 }
theorem witness_gate : (gating [1]).region 1 = some { resident0 with gateTick := some 5000, acks := [1] } ∧
    (gating []).region 1 = some { resident0 with gateTick := some 5000, acks := [] } ∧ (gating []).now = 5000 := by decide +kernel
/-- The graph while one of its loads is on the fabric. -/
def loadAway : State := { graphState resident0 (at8 0 0) with flits := [.of (.loadReq ⟨0, 1, 0⟩ 5 0x1000 4 []) (some 0)] }
theorem witness_preemption_gates : resident0.oneDie = true ∧ loadAway.region 1 = some resident0 ∧
    ∃ v ∈ loadAway.flits, v.flit.of resident0.ctxId = true ∧ (v.dev ≠ v.flit.dst ∨ v.flit.sectors = []) := by
  decide +kernel
/-- The gated graph, for whose image every frame has been taken. -/
def framed : Region := { resident0 with state := .gated, imageFrames := List.replicate 16 0x4000000 }
theorem witness_preemption_saves : (graphState framed (at8 0 0)).region 1 = some framed ∧
    (graphState framed (at8 0 0)).flits = [] ∧ (graphState framed (at8 0 0)).invocations = [] ∧
    ((graphState framed (at8 0 0)).takeImageFrames 1 framed.imageSize (framed.imageSize + 1)).2 = true ∧
    (graphState framed (at8 0 0)).imageWaits framed = false ∧
    framed.w ≤ 32 ∧ framed.h ≤ 32 := by decide +kernel
theorem test_image_holds_thread :
    (SMap.get none ((graphState framed (at8 5 0)).makeImage 1 framed).threads 0).map (fun t => (t.pc, t.readG 6)) =
    some (8, 5) := by decide +kernel
/-- The graph on its way back. -/
def returning : State :=
  { imaged with regions := [(1, some { region0 with restoring := true })], images := [(1, some image0)] }
theorem witness_release : ∀ acks ∈ [[], [1]], (graphState { cameBack with acks := acks } (at8 5 0)).region 1 =
      some { cameBack with acks := acks } ∧ SMap.get none (graphState { cameBack with acks := acks } (at8 5 0)).images 1 = none ∧
    (∀ o ∈ cameBack.origins, ((graphState { cameBack with acks := acks } (at8 5 0)).device o.dev).module = .up) := by decide +kernel
theorem witness_restore : returning.region 1 = some { region0 with restoring := true } ∧ SMap.get none returning.images 1 = some image0 ∧
    region0.state = .starting ∧ (∀ o ∈ region0.origins, (returning.device o.dev).module = .up) ∧
    (∀ c ∈ region0.positions, SMap.get none image0.staged (posKey c.1 c.2.1 c.2.2) = none) ∧ region0.keys.Nodup ∧
    (SMap.get none image0.threads (posKey 0 0 0)).isSome = true ∧ (0, 0, 0) ∈ region0.positions := by decide +kernel
/-- A completion for the thread of context 1. -/
def update0 : Update := { key := 0, ctx := 1, tag := some 3, performed := true }
theorem witness_update_live : ({ graphState resident0 (at8 0 0) with updates := [update0] } : State).thread update0.key =
    some (at8 0 0) ∧ (at8 0 0).ctxId = update0.ctx := by decide +kernel
/-- The graph in its image. -/
def savedState : State :=
  { imaged with regions := [(1, some { resident0 with state := .saved })], images := [(1, some image0)], updates := [update0] }
theorem witness_update_saved : savedState.thread update0.key = none ∧
    savedState.regions = [(1, some { resident0 with state := .saved })] ∧ resident0.ctxId = update0.ctx ∧
    (resident0.positions.find? fun c => resident0.keyAt c.1 c.2.1 c.2.2 = update0.key) = some (0, 0, 0) ∧
    SMap.get none savedState.images 1 = some image0 ∧ SMap.get none image0.threads (posKey 0 0 0) = some (at8 5 0) := by
  decide +kernel
theorem witness_update_dropped : ({ imaged with updates := [update0] } : State).thread update0.key = none ∧
    ({ imaged with updates := [update0] } : State).regions = [] := by decide +kernel
theorem witness_update_plain : update0.regs = [] ∧ update0.badSparse = 0 ∧
    ({ update0 with tag := none } : Update).tag = none ∧ update0.performed = true := by decide

/-! Management, power, supply. -/

theorem witness_policy : (0x0F020305 : Dword).toNat % 2 ^ 8 ≠ 0 ∧
    (((List.range 16).filter fun q => q != 0).map fun q => ((domain.device 0).pol q).msq).sum + 100 ≤ 65536 ∧
    domain.msCharge 0 0 none domain.nextLaunch ≤ 100 * 4096 ∧ 65536 < (0x1FFFF : Dword).toNat % 2 ^ 17 := by decide +kernel
theorem witness_cores : (∀ tack, CoreActs domain 0 tack) ∧ CoreActs (moduleIn (.holdUp false)) 0 false ∧
    ¬ CoreActs (moduleIn (.holdUp false)) 0 true ∧ ¬ CoreActs (moduleIn .dead) 0 false ∧ CoreActs (moduleIn (.booting 6)) 0 true := by
  have a : (domain.device 0).module = .up := by decide +kernel
  have b : ((moduleIn (.holdUp false)).device 0).module = .holdUp false := by decide +kernel
  have c : ((moduleIn .dead).device 0).module = .dead := by decide +kernel
  have d : ((moduleIn (.booting 6)).device 0).module = .booting 6 := by decide +kernel
  simp [CoreActs, a, b, c, d]
theorem witness_core_fault : ({ domain with agenda := [.coreRead 0 true (3 * 2 ^ 39)] } : State).agenda =
    .coreRead 0 true (3 * 2 ^ 39) :: [] ∧ 3 * 2 ^ 39 < 2 ^ 56 ∧ addrDev (3 * 2 ^ 39) = 0 ∧ 3 ≤ 3 * 2 ^ 39 / 2 ^ 39 % 2 ^ 9 := by
  decide +kernel
theorem test_core_fault : (match step { domain with agenda := [.coreWrite 0 false (511 * 2 ^ 39) 1] } with
    | .next u => some u.coreFaults | _ => none) = some [(0, false, 511 * 2 ^ 39)] := by decide +kernel
theorem witness_control_read : ({ domain with agenda := [.controlRead 0 (0x10000 + 64 * 1)] } : State).agenda =
    .controlRead 0 (0x10000 + 64 * 1) :: [] ∧ 0x8000 % 2 ^ 39 < 0x10000 ∧ 0x240000 ≤ 0x240000 % 2 ^ 39 := by decide +kernel
theorem witness_quad_moves : (∀ p, p < 16 → 0 ∈ (domain.partition p).quads → domain.partitionBusy p (fun r =>
      r.state != .saved && r.keys.any fun y => quadKey (keyTile y) = 0) = false) ∧
    ∃ j ∈ ((domain.setPartition 1 { quads := [5] }).partition 1).quads, j / 224 = 0 := by decide +kernel
theorem witness_quad_in_use : 0 ∈ ((graphState resident0 (at8 0 0)).partition 0).quads ∧
    (graphState resident0 (at8 0 0)).partitionBusy 0 (fun r =>
      r.state != .saved && r.keys.any fun y => quadKey (keyTile y) = 0) = true := by decide +kernel
theorem witness_hbm_grant : isHbm (2 ^ 18 * 2 ^ 21) = false ∧ isHbm (5 * 2 ^ 21) = true ∧ isHbm ((5 + 3) * 2 ^ 21 - 1) = true ∧
    ((5 + 3) * 2 ^ 21 - 1) / 2 ^ 48 = 5 * 2 ^ 21 / 2 ^ 48 ∧
    (∀ p, p < 16 → ∀ c ∈ (State.reset.partition p).hbm, meets c.1 c.2 5 3 = false) ∧
    (State.reset.partition 1).hbm.length < 16 := by decide +kernel

/-- One die's reading. -/
def reading0 : SensorReading := ⟨0, 40, 60, []⟩
theorem witness_power_interval : domain.now % 50000 = 0 ∧ (domain.device 0).interval ≤ domain.now ∧
    (domain.device 0).module = .up ∧ SMap.wf none (domain.device 0).weightsNext = true ∧ [reading0] = [reading0] ∧
    ({ domain with now := 7 } : State).now % 50000 ≠ 0 := by decide +kernel
theorem witness_lease : (graphState { resident0 with lease := { state := 2 } } (at8 0 0)).region 1 =
      some { resident0 with lease := { state := 2 } } ∧
    ({ state := 2 } : Lease).remain = 0 ∧ ({} : Lease).state ≠ 2 := by decide +kernel
theorem witness_wear : (List.replicate 224 (200 : BitVec 32)).length = 224 ∧
    ((List.replicate 224 (200 : BitVec 32)).map BitVec.toNat).foldl max 0 ≠ 0 := by decide +kernel
theorem witness_static_share : (graphState resident0 (at8 0 0)).thread 0 = some (at8 0 0) ∧ (at8 0 0).resident = true ∧
    (graphState resident0 (at8 0 0)).region (at8 0 0).rid = some resident0 := by decide +kernel
theorem witness_modules : (domain.device 0).module = .up ∧ ∀ m ∈ [ModuleState.booting 3, .booting 6, .booting 7, .holdUp false, .holdUp true, .dead, .recovery],
    ((moduleIn m).device 0).module = m := by decide +kernel
theorem witness_quiet_module : domain.walks = [] ∧ domain.flits = [] ∧ domain.threads = [] := by decide +kernel
theorem witness_no_graph_on : NoGraphOn (moduleIn .dead) 0 := by
  have e : (moduleIn .dead).regions = [] := by rfl
  unfold NoGraphOn; rw [e]; intro c hc; cases hc
/-- The lazy page of the buffer is being resolved: its descriptor is BUSY. -/
def busyPage : State :=
  { ((attesting.writeBytes 0x108000 (leBytes 0x110001 8)).writeBytes 0x110000 (leBytes 0x118001 8)).writeBytes 0x118000
      (leBytes 0x5F 8) with attestations := [{ launch0 with image := 0, super := true, arg := 0x1000 }] }
/-- Whether the buffer of the oldest request lets Tree wait. -/
def bufferWaits (s : State) : Bool :=
  s.attestations.any fun l => match ({ s with attestations := s.attestations.erase l } : State).attestTo l with
    | .busy _ => true
    | _ => false
theorem witness_attestation_waits : bufferWaits busyPage = true ∧ bufferWaits attesting = false := by decide +kernel
theorem witness_attestation : (attesting.device 0).module = .up ∧
    (attesting.attestations.find? fun l => l.dev = 0).isSome = true ∧ (List.replicate 32 (0 : Byte)).length = 32 := by
  decide +kernel
/-- The machine that fetches an ADDI keeps the form of its memory, and its step answers. -/
theorem witness_step_keeps_form : Memory.wf (State.reset.withFetchWord 32 0x20822000) ∧
    (match step (State.reset.withFetchWord 32 0x20822000) with | .next _ => true | _ => false) = true := by decide +kernel
theorem test_attestation_request_is_taken : then' (.attestationRequest 0) attesting (fun u => u.attestations.length) = some 0 := by
  decide +kernel
theorem test_reservation_is_answered : then' (.reservation 0 0) (reserving queued0)
    (fun u => u.reservations.map fun v => match v.answer with | .placed h => some (h.dev, h.ox, h.oy) | _ => none) =
    some [some (0, 0, 0)] := by decide +kernel

end Sys2Proof.Tests
end

section
/-!
What completing, charging and transferring leave, in the words of the statements: the rules that the obligations about
scalar and control instructions share.
-/

namespace Sys2Proof.Claims

open Sys2Proof.Machine

/-! The issuing thread after an instruction, and the machine around it. -/

/-- Writing the issuing thread back touches nothing else of the machine. -/
theorem onlyIssuer_setThread (s : State) (t1 : Thread) : OnlyIssuer s (s.setThread s.cur t1) :=
  ⟨fun _ => rfl, fun _ hk => State.thread_setThread_other s t1 hk, rfl⟩

theorem chargeIssue_eq_charged (s : State) (t : Thread) (cls : Nat) :
    t.chargeIssue s.curDevice cls = { t with energy := charged s t cls, charged := true } := by
  unfold Thread.chargeIssue charged
  by_cases h : t.charged = true
  · have same : { t with charged := true } = t := by rw [← h]
    rw [if_pos h, if_pos h]
    exact same.symm
  · simp [h, Thread.charge]

theorem finishes_of_retire {i : Instr} {s : State} {t : Thread} {cls len : Nat} (h : exec i s = retire s t cls len) :
    Finishes i s (t.chargeIssue s.curDevice cls) len :=
  ⟨_, h, onlyIssuer_setThread s _, State.thread_setThread s s.cur _⟩

@[simp] theorem writeG_energy (t : Thread) (d : Reg) (v : Dword) : (t.writeG d v).energy = t.energy := by
  unfold Thread.writeG; split <;> rfl

@[simp] theorem writeG_charged (t : Thread) (d : Reg) (v : Dword) : (t.writeG d v).charged = t.charged := by
  unfold Thread.writeG; split <;> rfl

/-- Two threads that agree on the energy counter and on whether the instruction is charged are charged alike. -/
theorem charged_congr (s : State) {t t1 : Thread} (cls : Nat) (he : t1.energy = t.energy)
    (hc : t1.charged = t.charged) : charged s t1 cls = charged s t cls := by
  simp [charged, he, hc]

/-- A register result with its charge is the write that WritesG describes. -/
theorem writesG_writeG_charged (s : State) (t : Thread) (d : Reg) (v : Dword) (cls : Nat) :
    WritesG s t ((t.writeG d v).chargeIssue s.curDevice cls) d v cls := by
  refine ⟨fun r => ?_, ?_, ?_⟩
  · rw [Thread.chargeIssue_readG, Thread.readG_writeG]
  · rw [chargeIssue_eq_charged]
    exact charged_congr s cls (writeG_energy t d v) (writeG_charged t d v)
  · rw [chargeIssue_eq_charged]
    unfold Thread.writeG; split <;> rfl

/-! Taken transfers. -/

theorem inStream_iff (t : Thread) (target : Dword) : t.inStream target = true ↔ InStream t target := by
  simp [Thread.inStream, InStream]

/-- A transfer by a thread that has written registers or loops only is a taken transfer of the statements. -/
theorem transfers_of_transfer {i : Instr} {s : State} {t t1 : Thread} {target : Dword}
    (h : exec i s = transfer s t1 0 target) (he : t1.energy = t.energy) (hc : t1.charged = t.charged) :
    Transfers i s t t1 target := by
  refine ⟨_, h, onlyIssuer_setThread s _, ?_⟩
  rw [State.thread_setThread, chargeIssue_eq_charged, charged_congr s 0 he hc]
  rfl

/-! Terminal traps of the issuing thread. -/

theorem fetchTrap_eq_endGraph {s : State} {t : Thread} (ht : Issues s t) :
    fetchTrap s = .next (s.endGraph t.rid 4 0x02) := by
  rw [fetchTrap, terminal, onThread_some ht]; rfl

theorem illegal_eq_endGraph {s : State} {t : Thread} (ht : Issues s t) :
    illegal s = .next (s.endGraph t.rid 4 0x01) := by
  rw [illegal, terminal, onThread_some ht]; rfl

end Sys2Proof.Claims
end

section
/-!
O6. The model's integer operations give the results that the statement spells out (R174, R175, R180), and each
instruction that has such a result retires with it.
-/

namespace Sys2Proof.Claims

open Sys2Proof.Machine

/-! Shifts. -/

theorem shiftLeft_shiftAmt (x y : Dword) : x <<< shiftAmt y = BitVec.ofNat 64 (x.toNat * 2 ^ (y.toNat % 64)) := by
  apply BitVec.eq_of_toNat_eq
  simp [shiftAmt, Nat.shiftLeft_eq]

theorem ushiftRight_shiftAmt (x y : Dword) : x >>> shiftAmt y = BitVec.ofNat 64 (x.toNat / 2 ^ (y.toNat % 64)) := by
  rw [shiftAmt, ← Nat.shiftRight_eq_div_pow, ← BitVec.toNat_ushiftRight, BitVec.ofNat_toNat, BitVec.setWidth_eq]

theorem sshiftRight_shiftAmt (x y : Dword) :
    x.sshiftRight (shiftAmt y) = BitVec.ofInt 64 (x.toInt / 2 ^ (y.toNat % 64)) := by
  rw [shiftAmt, BitVec.sshiftRight, Int.shiftRight_eq_div_pow]
  norm_cast

/-! Bit counts: the model recurses on the number of bits, the statement searches or counts a list of positions. -/

theorem leadingZeros_eq_findIdx (x : Dword) (n : Nat) :
    leadingZeros x n = (List.range n).findIdx fun i => x.getLsbD (n - 1 - i) := by
  induction n with
  | zero => rfl
  | succ n ih =>
    have shift : ((fun i => x.getLsbD (n + 1 - 1 - i)) ∘ Nat.succ) = fun i => x.getLsbD (n - 1 - i) := by
      funext i; simp only [Function.comp]; congr 1; omega
    rw [List.range_succ_eq_map, List.findIdx_cons, List.findIdx_map, shift, ← ih, leadingZeros,
      show n + 1 - 1 - 0 = n by omega]
    cases x.getLsbD n <;> simp

theorem trailingZeros_eq_findIdx (x : Dword) (n : Nat) (hn : n ≤ 64) :
    trailingZeros x n = (List.range n).findIdx fun i => x.getLsbD (64 - n + i) := by
  induction n with
  | zero => rfl
  | succ n ih =>
    have shift : ((fun i => x.getLsbD (64 - (n + 1) + i)) ∘ Nat.succ) = fun i => x.getLsbD (64 - n + i) := by
      funext i; simp only [Function.comp]; congr 1; omega
    rw [List.range_succ_eq_map, List.findIdx_cons, List.findIdx_map, shift, ← ih (by omega), trailingZeros,
      show 64 - (n + 1) + 0 = 63 - n by omega]
    cases x.getLsbD (63 - n) <;> simp

/-- The number of leading zeros of a register is the position of its highest 1. -/
theorem leadingZeros_register (x : Dword) :
    BitVec.ofNat 64 (leadingZeros x 64) = count ((List.range 64).findIdx fun i => x.getLsbD (63 - i)) := by
  rw [leadingZeros_eq_findIdx, count]

/-- The number of trailing zeros of a register is the position of its lowest 1. -/
theorem trailingZeros_register (x : Dword) :
    BitVec.ofNat 64 (trailingZeros x 64) = count ((List.range 64).findIdx fun i => x.getLsbD i) := by
  simp only [trailingZeros_eq_findIdx x 64 le_rfl, Nat.sub_self, Nat.zero_add, count]

theorem popCount_eq_countP (x : Dword) (n : Nat) :
    popCount x n = (List.range n).countP fun i => x.getLsbD i := by
  induction n with
  | zero => rfl
  | succ n ih => rw [List.range_succ, List.countP_append, List.countP_singleton, popCount, ih, Nat.add_comm]

/-! Extensions. -/

theorem sextD_setWidth (x : Dword) {n : Nat} (hn : n ≤ 64) :
    sextD (x.setWidth n) = (x.extractLsb' 0 n).signExtend 64 := by
  rw [sextD, BitVec.setWidth_eq_extractLsb' hn]

theorem zextD_setWidth (x : Dword) {n : Nat} (hn : n ≤ 64) :
    zextD (x.setWidth n) = x &&& BitVec.ofNat 64 (2 ^ n - 1) := by
  have hpow : 2 ^ n ≤ 2 ^ 64 := Nat.pow_le_pow_right (by decide) hn
  have hlow : x.toNat % 2 ^ n < 2 ^ 64 := (Nat.mod_lt _ (Nat.two_pow_pos n)).trans_le hpow
  have hmask : 2 ^ n - 1 < 2 ^ 64 := by have := Nat.two_pow_pos n; omega
  apply BitVec.eq_of_toNat_eq
  rw [zextD, BitVec.toNat_setWidth, BitVec.toNat_setWidth, BitVec.toNat_and, BitVec.toNat_ofNat,
    Nat.mod_eq_of_lt hlow, Nat.mod_eq_of_lt hmask, Nat.and_two_pow_sub_one_eq_mod]

/-! Products, quotients and addresses. -/

theorem mulHigh_eq_ediv (x y : Dword) : mulHigh x y = BitVec.ofInt 64 (x.toInt * y.toInt / 2 ^ 64) := by
  rw [mulHigh, Int.fdiv_eq_ediv_of_nonneg _ (by decide)]

/-- The remainder of truncating division is what the quotient leaves (R175). -/
theorem divI64_eq_divSigned (x y : Dword) : divI64 x y = divSigned x y := by
  rw [divI64, divSigned, Int.tmod_def, Int.mul_comm y.toInt]
  rfl

theorem divN64_eq_divUnsigned (x y : Dword) : divN64 x y = divUnsigned x y := rfl

theorem addr2Val_eq_ofNat (x y : Dword) (ps z : Nat) :
    addr2Val x y ps z =
      BitVec.ofNat 64 (x.toNat + (y.toNat / 2 ^ 32 * 2 ^ ps + y.toNat % 2 ^ 32) * 2 ^ z) := by
  rw [addr2Val, BitVec.ofNat_add, BitVec.ofNat_toNat, BitVec.setWidth_eq]

/-! The register forms under a guard that holds. -/

section
variable {s : State} {t : Thread} {g : Guard} (ht : Issues s t) (hg : t.guardOn g = true)
include ht hg

theorem alu2_eq_retire (d a b : Reg) (cls : Nat) (f : Dword → Dword → Dword) :
    alu2 s d a b g cls f = retire s (t.writeG d (f (t.readG a) (t.readG b))) cls 4 := by
  rw [alu2, guarded_on ht hg]

theorem alu1_eq_retire (d a : Reg) (f : Dword → Dword) :
    alu1 s d a g f = retire s (t.writeG d (f (t.readG a))) 0 4 := by
  rw [alu1, guarded_on ht hg]

end

/-- An instruction that has an integer result retires with it. -/
theorem exec_integer_retire {i : Instr} {s : State} {t : Thread} {g : Guard} {d : Reg} {v : Dword} {cls : Nat}
    (ht : Issues s t) (hr : integerResult t i = some (g, d, v, cls)) (hg : t.guardOn g = true) :
    exec i s = retire s (t.writeG d v) cls 4 := by
  cases i with
  | add => cases hr; rw [exec, execAdd, alu2_eq_retire ht hg]
  | sub => cases hr; rw [exec, execSub, alu2_eq_retire ht hg]
  | and => cases hr; rw [exec, execAnd, alu2_eq_retire ht hg]
  | or => cases hr; rw [exec, execOr, alu2_eq_retire ht hg]
  | xor => cases hr; rw [exec, execXor, alu2_eq_retire ht hg]
  | andn => cases hr; rw [exec, execAndn, alu2_eq_retire ht hg]
  | shl => cases hr; rw [exec, execShl, alu2_eq_retire ht hg, shiftLeft_shiftAmt]
  | shr => cases hr; rw [exec, execShr, alu2_eq_retire ht hg, ushiftRight_shiftAmt]
  | sra => cases hr; rw [exec, execSra, alu2_eq_retire ht hg, sshiftRight_shiftAmt]
  | rol => cases hr; rw [exec, execRol, alu2_eq_retire ht hg, shiftAmt]
  | min => cases hr; rw [exec, execMin, alu2_eq_retire ht hg]; simp only [BitVec.sle, decide_eq_true_eq]
  | max => cases hr; rw [exec, execMax, alu2_eq_retire ht hg]; simp only [BitVec.sle, decide_eq_true_eq]
  | minn => cases hr; rw [exec, execMinn, alu2_eq_retire ht hg]; simp only [BitVec.ule, decide_eq_true_eq]
  | maxn => cases hr; rw [exec, execMaxn, alu2_eq_retire ht hg]; simp only [BitVec.ule, decide_eq_true_eq]
  | slt => cases hr; rw [exec, execSlt, alu2_eq_retire ht hg]; rfl
  | sltn => cases hr; rw [exec, execSltn, alu2_eq_retire ht hg]; rfl
  | seq => cases hr; rw [exec, execSeq, alu2_eq_retire ht hg]; rfl
  | clz => cases hr; rw [exec, execClz, alu1_eq_retire ht hg, leadingZeros_register]
  | ctz => cases hr; rw [exec, execCtz, alu1_eq_retire ht hg, trailingZeros_register]
  | popc => cases hr; rw [exec, execPopc, alu1_eq_retire ht hg, popCount_eq_countP, count]
  | bswap => cases hr; rw [exec, execBswap, alu1_eq_retire ht hg]
  | sextI8 => cases hr; rw [exec, execSextI8, alu1_eq_retire ht hg, sextD_setWidth _ (by decide)]
  | sextI16 => cases hr; rw [exec, execSextI16, alu1_eq_retire ht hg, sextD_setWidth _ (by decide)]
  | sextI32 => cases hr; rw [exec, execSextI32, alu1_eq_retire ht hg, sextD_setWidth _ (by decide)]
  | zextN8 => cases hr; rw [exec, execZextN8, alu1_eq_retire ht hg, zextD_setWidth _ (by decide)]; rfl
  | zextN16 => cases hr; rw [exec, execZextN16, alu1_eq_retire ht hg, zextD_setWidth _ (by decide)]; rfl
  | zextN32 => cases hr; rw [exec, execZextN32, alu1_eq_retire ht hg, zextD_setWidth _ (by decide)]; rfl
  | mul => cases hr; rw [exec, execMul, alu2_eq_retire ht hg]
  | mulh => cases hr; rw [exec, execMulh, alu2_eq_retire ht hg, mulHigh_eq_ediv]
  | mulhn => cases hr; rw [exec, execMulhn, alu2_eq_retire ht hg, mulHighN]
  | div => cases hr; rw [exec, execDiv, alu2_eq_retire ht hg, divI64_eq_divSigned]
  | divn => cases hr; rw [exec, execDivn, alu2_eq_retire ht hg, divN64_eq_divUnsigned]
  | rem => cases hr; rw [exec, execRem, alu2_eq_retire ht hg, divI64_eq_divSigned]
  | remn => cases hr; rw [exec, execRemn, alu2_eq_retire ht hg, divN64_eq_divUnsigned]
  | addr2 => cases hr; rw [exec, execAddr2, alu2_eq_retire ht hg, addr2Val_eq_ofNat]
  | sel => cases hr; rw [exec, execSel, guarded_on ht hg, Thread.predOn]
  | _ => cases hr

/-- Settles O6: the instruction retires with its result, and a retired register write is the one that WritesG
describes. -/
theorem integerInstructionsCompute : Obligations.IntegerInstructionsCompute := by
  unfold Obligations.IntegerInstructionsCompute
  intro i s t g d v cls ht hr hg
  exact ⟨_, finishes_of_retire (exec_integer_retire ht hr hg), writesG_writeG_charged s t d v cls⟩

end Sys2Proof.Claims
end

section
/-!
O12. The two answers of each branch, call, jump and return whose condition holds: a transfer where the target lies in
the stream (R145), the instruction-fetch trap where it does not.
-/

namespace Sys2Proof.Claims

open Sys2Proof.Machine

/-- The model's recursion keeps the loops from the first that holds the target on (R197). -/
theorem popLoops_eq_loopsKept (target : Dword) (l : List LoopEntry) : popLoops target l = loopsKept target l := by
  induction l with
  | nil => rfl
  | cons e r ih =>
    have holds : (decide (e.start.toNat ≤ target.toNat) && decide (target.toNat ≤ e.stop.toNat)) =
        (e.start.ule target && target.ule e.stop) := rfl
    rw [popLoops, ih, loopsKept, loopsKept, List.dropWhile_cons, holds]
    cases e.start.ule target && target.ule e.stop <;> rfl

/-- A transfer to a target that is checked against the stream answers as the two halves of the statement say. -/
theorem transfers_or_endsGraph {i : Instr} {s : State} {t t1 : Thread} {target : Dword} (ht : Issues s t)
    (h : exec i s = if t.inStream target then transfer s t1 0 target else fetchTrap s)
    (he : t1.energy = t.energy) (hc : t1.charged = t.charged) :
    (InStream t target → Transfers i s t t1 target) ∧ (¬ InStream t target → EndsGraph i s t 0x02) := by
  refine ⟨fun hin => ?_, fun hout => ?_⟩
  · rw [if_pos ((inStream_iff t target).mpr hin)] at h
    exact transfers_of_transfer h he hc
  · rw [if_neg (hout ∘ (inStream_iff t target).mp), fetchTrap_eq_endGraph ht] at h
    exact h

/-! br and call (R192, R193). -/

section
variable {s : State} {t : Thread} {p : BitVec 3} {neg : BitVec 1} (ht : Issues s t)
include ht

theorem br_call_not_taken (off : BitVec 22) (hp : t.predOn p neg = false) :
    Finishes (.br p neg off) s (t.chargeIssue s.curDevice 0) 4 ∧
      Finishes (.call p neg off) s (t.chargeIssue s.curDevice 0) 4 := by
  refine ⟨finishes_of_retire ?_, finishes_of_retire ?_⟩
  · rw [exec, execBr, onThread_some ht, if_neg (by simp [hp])]
  · rw [exec, execCall, onThread_some ht, if_neg (by simp [hp])]

theorem br_taken (off : BitVec 22) (hp : t.predOn p neg = true) :
    (InStream t (branchTarget t off) → Transfers (.br p neg off) s t
      { t with loops := loopsKept (branchTarget t off) t.loops } (branchTarget t off)) ∧
    (¬ InStream t (branchTarget t off) → EndsGraph (.br p neg off) s t 0x02) := by
  refine transfers_or_endsGraph ht ?_ rfl rfl
  rw [exec, execBr, onThread_some ht, if_pos hp, takeBranch, popLoops_eq_loopsKept]
  rfl

theorem call_taken (off : BitVec 22) (hp : t.predOn p neg = true) :
    (InStream t (branchTarget t off) → Transfers (.call p neg off) s t (t.writeG 31 (t.pc + 4)) (branchTarget t off)) ∧
    (¬ InStream t (branchTarget t off) → EndsGraph (.call p neg off) s t 0x02) := by
  refine transfers_or_endsGraph ht ?_ (writeG_energy ..) (writeG_charged ..)
  rw [exec, execCall, onThread_some ht, if_pos hp]
  rfl

end

/-! jr, jalr and ret (R194). -/

section
variable {s : State} {t : Thread} {g : Guard} (ht : Issues s t) (hg : t.guardOn g = true)
include ht hg

theorem jr_taken (a : Reg) :
    (InStream t (t.readG a) →
      Transfers (.jr a g) s t { t with loops := loopsKept (t.readG a) t.loops } (t.readG a)) ∧
    (¬ InStream t (t.readG a) → EndsGraph (.jr a g) s t 0x02) := by
  refine transfers_or_endsGraph ht ?_ rfl rfl
  rw [exec, execJr, guarded_on ht hg, takeBranch, popLoops_eq_loopsKept]

theorem jalr_taken (d a : Reg) :
    (InStream t (t.readG a) → Transfers (.jalr d a g) s t (t.writeG d (t.pc + 4)) (t.readG a)) ∧
    (¬ InStream t (t.readG a) → EndsGraph (.jalr d a g) s t 0x02) := by
  refine transfers_or_endsGraph ht ?_ (writeG_energy ..) (writeG_charged ..)
  rw [exec, execJalr, guarded_on ht hg]

theorem ret_taken :
    (InStream t (t.readG 31) → Transfers (.ret g) s t t (t.readG 31)) ∧
    (¬ InStream t (t.readG 31) → EndsGraph (.ret g) s t 0x02) := by
  refine transfers_or_endsGraph ht ?_ rfl rfl
  rw [exec, execRet, guarded_on ht hg]

end

/-- Settles O12, instruction by instruction: each one's two answers go to the two halves of the statement. -/
theorem transfersReachTargets : Obligations.TransfersReachTargets := by
  unfold Obligations.TransfersReachTargets
  refine ⟨⟨fun s t p neg off ht => ⟨br_call_not_taken ht off, fun hp hin => ?_⟩,
    fun s t d a g ht hg => ⟨fun hin => ?_, (ret_taken ht hg).1⟩⟩,
    fun s t p neg off ht hp hout => ?_, fun s t d a g ht hg => ⟨fun hout => ?_, (ret_taken ht hg).2⟩⟩
  · exact ⟨(br_taken ht off hp).1 hin, (call_taken ht off hp).1 hin⟩
  · exact ⟨(jr_taken ht hg a).1 hin, (jalr_taken ht hg d a).1 hin⟩
  · exact ⟨(br_taken ht off hp).2 hout, (call_taken ht off hp).2 hout⟩
  · exact ⟨(jr_taken ht hg a).2 hout, (jalr_taken ht hg d a).2 hout⟩

end Sys2Proof.Claims
end

section
/-!
O13. LOOP's four answers (R195), and the loop step of a completed word (R152, R196).
-/

namespace Sys2Proof.Claims

open Sys2Proof.Machine

/-! What the loop step reads and leaves alone. -/

/-- The loop step takes the stack from its argument, not from the thread. -/
theorem loopStep_loops_irrelevant (t : Thread) (l0 : List LoopEntry) (a : Dword) (l : List LoopEntry) :
    ({ t with loops := l0 } : Thread).loopStep a l = t.loopStep a l := by
  induction l with
  | nil => rfl
  | cons e r ih => rw [Thread.loopStep, Thread.loopStep, ih]

theorem loopStep_energy_charged (t : Thread) (a : Dword) (l : List LoopEntry) :
    (t.loopStep a l).energy = t.energy ∧ (t.loopStep a l).charged = t.charged := by
  induction l with
  | nil => exact ⟨rfl, rfl⟩
  | cons e r ih =>
    rw [Thread.loopStep]
    split
    · split
      · exact ⟨writeG_energy .., writeG_charged ..⟩
      · exact ih
    · exact ⟨rfl, rfl⟩

@[simp] theorem writeG_pc (t : Thread) (d : Reg) (v : Dword) : (t.writeG d v).pc = t.pc := by
  unfold Thread.writeG; split <;> rfl

@[simp] theorem writeG_loops (t : Thread) (d : Reg) (v : Dword) : (t.writeG d v).loops = t.loops := by
  unfold Thread.writeG; split <;> rfl

/-! Completing a word at the end of the top loop's body. -/

/-- With an iteration left, the thread goes back to the loop's start with the next index. -/
theorem complete_iterates {t : Thread} {len : Nat} {e : LoopEntry} {l : List LoopEntry} (hl : t.loops = e :: l)
    (hs : e.stop = t.pc + BitVec.ofNat 64 (len - 4)) (hn : 1 < e.left.toNat) :
    (t.complete len).pc = e.start ∧ (t.complete len).loops = { e with left := e.left - 1, idx := e.idx + 1 } :: l ∧
    (∀ r, (t.complete len).readG r = if r = e.reg ∧ e.reg ≠ 0 then e.idx + 1 else t.readG r) := by
  rw [Thread.complete, ← hs, hl, Thread.loopStep_again _ e l hn]
  exact ⟨writeG_pc .., writeG_loops .., fun r => Thread.readG_writeG ..⟩

/-- On its last iteration the loop pops, and the word completes under the loop below it. -/
theorem complete_pops {t : Thread} {len : Nat} {e : LoopEntry} {l : List LoopEntry} (hl : t.loops = e :: l)
    (hs : e.stop = t.pc + BitVec.ofNat 64 (len - 4)) (hn : e.left.toNat = 1) :
    t.complete len = ({ t with loops := l } : Thread).complete len := by
  rw [Thread.complete, Thread.complete, ← hs, hl, Thread.loopStep_last _ e l hn.le]
  exact (loopStep_loops_irrelevant _ l e.stop l).symm

/-! LOOP. -/

/-- Both forms of LOOP run the one operation; the LIM's bits are zero and no loop body ends at it (R151). -/
theorem exec_loopForm {s : State} {t : Thread} {i : Instr} {d a : Reg} {imm : BitVec 16} {len : Nat} (ht : Issues s t)
    (hf : LoopForm t i d a imm len) : exec i s = loopOp s d a imm len := by
  obtain ⟨rfl, rfl, -⟩ | ⟨rfl, rfl, himm, hend⟩ := hf
  · rw [exec, execLoop]
  · have hnone : ¬ (t.loops.any fun e => decide (e.stop = t.pc)) = true := by simpa using hend
    have hok : ¬ (IOp.loop d a imm).limOk 0 = false := by simpa [IOp.limOk] using himm
    rw [exec, execLim, onThread_some ht, if_neg hnone]
    exact if_neg hok

section
variable {s : State} {t : Thread} {i : Instr} {d a : Reg} {imm : BitVec 16} {len : Nat} {last : Dword}
  (ht : Issues s t) (hf : LoopForm t i d a imm len)
  (hlast : last = t.pc + BitVec.ofNat 64 (len - 4) + BitVec.ofNat 64 (4 * imm.toNat))
include ht hf hlast

theorem loop_leaving_stream_endsGraph (hout : ¬ InStream t last) : EndsGraph i s t 0x02 := by
  rw [← inStream_iff] at hout
  subst hlast
  rw [EndsGraph, exec_loopForm ht hf, loopOp, onThread_some ht, ← fetchTrap_eq_endGraph ht]
  exact if_pos (by simpa using hout)

/-- A trip count of 0 transfers to the word after the body, after the enclosing loops have stepped. -/
theorem loop_zero_transfers (hin : InStream t last) (hz : t.readG a = 0) {after : Thread}
    (hafter : after = ({ t with pc := last + 4 } : Thread).loopStep last t.loops) (hnext : InStream after after.pc) :
    Transfers i s t after after.pc := by
  have step : exec i s = transfer s after 0 after.pc := by
    rw [← inStream_iff] at hin hnext
    subst hlast
    rw [exec_loopForm ht hf, loopOp, onThread_some ht]
    dsimp only
    rw [if_neg (by simp [hin]), if_pos hz, ← hafter, if_pos hnext]
  obtain ⟨he, hc⟩ := loopStep_energy_charged { t with pc := last + 4 } last t.loops
  exact transfers_of_transfer step (hafter ▸ he) (hafter ▸ hc)

theorem loop_at_depth_four_endsGraph (hin : InStream t last) (hz : t.readG a ≠ 0) (hd : t.loops.length = 4) :
    EndsGraph i s t 0x01 := by
  rw [← inStream_iff] at hin
  subst hlast
  rw [EndsGraph, exec_loopForm ht hf, loopOp, onThread_some ht, ← illegal_eq_endGraph ht]
  dsimp only
  rw [if_neg (by simp [hin]), if_neg hz, if_pos hd]

theorem loop_enters_body (hin : InStream t last) (hz : t.readG a ≠ 0) (hd : t.loops.length < 4) :
    Transfers i s t
      (({ t with
          loops := ⟨t.pc + BitVec.ofNat 64 (len - 4) + 4, last, t.readG a, 0, d⟩ :: t.loops } : Thread).writeG d 0)
      (t.pc + BitVec.ofNat 64 (len - 4) + 4) := by
  refine transfers_of_transfer ?_ (writeG_energy ..) (writeG_charged ..)
  rw [← inStream_iff] at hin
  subst hlast
  rw [exec_loopForm ht hf, loopOp, onThread_some ht]
  dsimp only
  rw [if_neg (by simp [hin]), if_neg hz, if_neg hd.ne]

end

/-- Settles O13: LOOP by its four answers, a completed word by where the top loop's body ends. -/
theorem loopsEnterAndStep : Obligations.LoopsEnterAndStep := by
  unfold Obligations.LoopsEnterAndStep
  refine ⟨fun s t i d a imm len ht hf => ⟨?_, ?_, ?_, ?_⟩, Thread.complete_plain,
    fun t len e l => complete_iterates, fun t len e l => complete_pops⟩
  · exact loop_leaving_stream_endsGraph ht hf rfl
  · exact loop_enters_body ht hf rfl
  · exact loop_at_depth_four_endsGraph ht hf rfl
  · exact fun hin hz => loop_zero_transfers ht hf rfl hin hz rfl

end Sys2Proof.Claims
end
